-- ==== Sys2Proof/Word.lean ====
section
/-! DEFINITION. The word types of the machine. Memory is byte-addressed and little-endian (00 R3). -/

namespace Sys2Proof

/-- A scalar register or an address (08 R87). -/
abbrev Word := BitVec 64

/-- A vector register, 16 lanes of 32 bits (17). -/
abbrev Vec := BitVec 512

/-- One byte of memory. -/
abbrev Byte := BitVec 8

/-- A predicate register, one bit per lane (17 R223). -/
abbrev Mask := BitVec 16

end Sys2Proof
end

