-- ==== Sys2Proof/Config.lean ====
section
/-! DEFINITION. What the part fixes, and the free values: constants without a body, which no proof can see into, so that a claim
holds whatever they are. -/

namespace Sys2Proof

/-- A byte of DRAM that decrypts under another key or version with tags off (26 R350): unrelated to what was written (log 15). -/
opaque Config.garbled : Nat → BitVec 8

/-- A result the spec leaves unspecified: CQMRG, CQBEST and CQCNT on a malformed slot (20 R265, log 15). -/
opaque Config.freeWord : Nat → BitVec 64

/-- The bytes such an instruction leaves in a malformed slot, by the count of free values and the byte's offset (20 R265, log 15). -/
opaque Config.freeByte : Nat → Nat → BitVec 8

/-- The SM3 digest of a measurement log followed by a nonce (28 R376): the cipher is outside the model (log 15). -/
opaque Config.digest : List (BitVec 256) → BitVec 256 → BitVec 256

/-- The SM2 signature under the identity key (28 R376, log 15). -/
opaque Config.signature : BitVec 256 → BitVec 512

/-- The digest of the boot ROM (28 R376, log 15). -/
opaque Config.romDigest : BitVec 256

/-- The digest of the configuration firmware measures in step 4 (28 R374, R376, log 15). -/
opaque Config.configDigest : Nat → BitVec 256

/-- mxwake, the cycles from a grant to an awake slice (14 R208). -/
def Config.mxwake : Nat := 180

/-- Cycles before a returned or held thread-start message is tried again (02 R24, R26). -/
def Config.reemitAfter : Nat := 256

/-- The engine watchdog, 2^24 engine cycles of 1.0 GHz in core cycles of 1.4 GHz (26 R345, 00 R5). -/
def Config.engineWatchdog : Nat := 2 ^ 24 * 7 / 5

/-- Ten microseconds of silence before an Etgus port retrains (28 R370). -/
def Config.etgusSilence : Nat := 14000

/-- Unacknowledged stores a level may count (04 R47). -/
def Config.pendMax : Nat := 4095

end Sys2Proof
end

