-- ==== Sys2Proof/Syntax.lean ====
section
/-! DEFINITION. The instructions and steps of the Dordex: one constructor per row of the opcode table.
Operand fields keep the widths of the encoding tables (11 R126, 26 R338): `d`, `a`, `b` name registers,
`q` is the Q bit, `k` the predicate, `l` the lookahead count LA. A field that the encoding scales keeps its
encoded bits (a register quad `a` names x[4a] to x[4a+3], a pair `b` names x[2b], x[2b+1], VVIS `d` names k[2d], k[2d+1]).
The rows without an encoding are the device's steps and events; their arguments name the item they act on
and carry what comes from outside the model (a page walk's finding, another package's reply, a host write). -/

namespace Sys2Proof

/-- What an access that leaves the package brings back (08 R88): only another package can say it. A read brings, for each element in
order, its 64-byte line with the line's poison marks; an atomic brings its old value at its place in such a line. -/
inductive Reply where
  | none
  | data (ls : List (BitVec 512 × BitVec 8))
  | fault
  deriving DecidableEq, Repr

/-- A register of a thread (13 R184). -/
inductive RegName where
  | x (n : BitVec 5)
  | v (n : BitVec 5)
  | k (n : BitVec 3)
  | qm
  | qd
  | acc (n : BitVec 2)
  | csr (n : BitVec 12)
  | pc
  deriving DecidableEq, Repr

/-- One Etgus flit as the receiver decodes it (28 R369): header fields, valid slots (`true` = reply channel) with their 32 bytes and the
poison marks of their four words, and whether both Reed-Solomon codes and the CRC pass. -/
structure EtgusFlit where
  typ : BitVec 4
  seq : BitVec 12
  ack : BitVec 12
  creq : BitVec 8
  crep : BitVec 8
  slots : List (Bool × BitVec 256 × BitVec 4)
  fecOk : Bool
  crcOk : Bool
  deriving DecidableEq, Repr

/-- The accesses another package's agent asks for through the pod window (08 R88, 15 R212): a thread's, or a copy engine's or load
pipe's, which stall on no watermark (18 R251). -/
inductive PodKind where
  | load
  | store
  | atomic
  | engineLoad
  | engineStore
  | accumulate
  deriving DecidableEq, Repr

/-- Is an access a copy engine's or a load pipe's? -/
def PodKind.ofEngine (k : PodKind) : Bool :=
  match k with
  | .load | .store | .atomic => false
  | .engineLoad | .engineStore | .accumulate => true

/-- The access kind of 08 R107, which is the message's KIND too (15 R212): 0 a load, 1 a store, 2 an atomic or accumulate. -/
def PodKind.code (k : PodKind) : Nat :=
  match k with
  | .load | .engineLoad => 0
  | .store | .engineStore => 1
  | .atomic | .accumulate => 2

/-- A firmware image as verification sees it (28 R374): its digest and version, and whether its signature verifies. -/
structure FwImage where
  digest : BitVec 256
  version : BitVec 32
  secVersion : Nat
  signed : Bool
  deriving DecidableEq, Repr

/-- What the patrol scrubber finds in a block (26 R352): a read that starts holding the block with the words it could
not correct, or the write-back that ends it. -/
inductive ScrubFind where
  | read (badWords : List Nat)
  | write
  deriving DecidableEq, Repr

/-- The facts of the part and of the outside that bring-up finds (01 R2, 28 R374): fused-off units, the channels that retired rows leave with
less than the usable size of 08 R100, tags, link; by which ports the pod lets each package be reached (28 R370), and the active instances
of each scope level in the other packages (04 R43). -/
structure BootFacts where
  retiredCores : List Nat
  retiredChannels : List Nat
  usableCh : List (Nat × Nat)
  activeSlices : Nat
  tagsOn : Bool
  hostAtomics : Bool
  fusedMin : Nat
  hbmAuthFails : List Nat
  podPorts : List (Nat × Nat)
  podCounts : List Nat
  deriving DecidableEq, Repr

/-- Every row of the opcode table. -/
inductive Instr where
  | add (d : BitVec 5) (a : BitVec 5) (b : BitVec 5)
  | sub (d : BitVec 5) (a : BitVec 5) (b : BitVec 5)
  | and (d : BitVec 5) (a : BitVec 5) (b : BitVec 5)
  | or (d : BitVec 5) (a : BitVec 5) (b : BitVec 5)
  | xor (d : BitVec 5) (a : BitVec 5) (b : BitVec 5)
  | andn (d : BitVec 5) (a : BitVec 5) (b : BitVec 5)
  | sll (d : BitVec 5) (a : BitVec 5) (b : BitVec 5)
  | srl (d : BitVec 5) (a : BitVec 5) (b : BitVec 5)
  | sra (d : BitVec 5) (a : BitVec 5) (b : BitVec 5)
  | ror (d : BitVec 5) (a : BitVec 5) (b : BitVec 5)
  | slt (d : BitVec 5) (a : BitVec 5) (b : BitVec 5)
  | sltu (d : BitVec 5) (a : BitVec 5) (b : BitVec 5)
  | min (d : BitVec 5) (a : BitVec 5) (b : BitVec 5)
  | max (d : BitVec 5) (a : BitVec 5) (b : BitVec 5)
  | minu (d : BitVec 5) (a : BitVec 5) (b : BitVec 5)
  | maxu (d : BitVec 5) (a : BitVec 5) (b : BitVec 5)
  | mul (d : BitVec 5) (a : BitVec 5) (b : BitVec 5)
  | mulh (d : BitVec 5) (a : BitVec 5) (b : BitVec 5)
  | mulhu (d : BitVec 5) (a : BitVec 5) (b : BitVec 5)
  | div (d : BitVec 5) (a : BitVec 5) (b : BitVec 5) (l : BitVec 4)
  | divu (d : BitVec 5) (a : BitVec 5) (b : BitVec 5) (l : BitVec 4)
  | rem (d : BitVec 5) (a : BitVec 5) (b : BitVec 5) (l : BitVec 4)
  | remu (d : BitVec 5) (a : BitVec 5) (b : BitVec 5) (l : BitVec 4)
  | clz (d : BitVec 5) (a : BitVec 5)
  | ctz (d : BitVec 5) (a : BitVec 5)
  | popc (d : BitVec 5) (a : BitVec 5)
  | addi (d : BitVec 5) (a : BitVec 5) (i : BitVec 16)
  | andi (d : BitVec 5) (a : BitVec 5) (i : BitVec 16)
  | ori (d : BitVec 5) (a : BitVec 5) (i : BitVec 16)
  | xori (d : BitVec 5) (a : BitVec 5) (i : BitVec 16)
  | slti (d : BitVec 5) (a : BitVec 5) (i : BitVec 16)
  | sltiu (d : BitVec 5) (a : BitVec 5) (i : BitVec 16)
  | shiSll (d : BitVec 5) (a : BitVec 5) (s : BitVec 6)
  | shiSrl (d : BitVec 5) (a : BitVec 5) (s : BitVec 6)
  | shiSra (d : BitVec 5) (a : BitVec 5) (s : BitVec 6)
  | shiRor (d : BitVec 5) (a : BitVec 5) (s : BitVec 6)
  | liw (d : BitVec 5) (h : BitVec 2) (i : BitVec 16)
  | lpc (d : BitVec 5) (i : BitVec 16)
  | beq (a : BitVec 5) (b : BitVec 5) (i : BitVec 16)
  | bne (a : BitVec 5) (b : BitVec 5) (i : BitVec 16)
  | blt (a : BitVec 5) (b : BitVec 5) (i : BitVec 16)
  | bge (a : BitVec 5) (b : BitVec 5) (i : BitVec 16)
  | bltu (a : BitVec 5) (b : BitVec 5) (i : BitVec 16)
  | bgeu (a : BitVec 5) (b : BitVec 5) (i : BitVec 16)
  | jal (d : BitVec 5) (i : BitVec 21)
  | jalr (d : BitVec 5) (a : BitVec 5) (i : BitVec 16)
  | ld8u (d : BitVec 5) (a : BitVec 5) (o : BitVec 12) (l : BitVec 4)
  | ld8s (d : BitVec 5) (a : BitVec 5) (o : BitVec 12) (l : BitVec 4)
  | ld16u (d : BitVec 5) (a : BitVec 5) (o : BitVec 12) (l : BitVec 4)
  | ld16s (d : BitVec 5) (a : BitVec 5) (o : BitVec 12) (l : BitVec 4)
  | ld32u (d : BitVec 5) (a : BitVec 5) (o : BitVec 12) (l : BitVec 4)
  | ld32s (d : BitVec 5) (a : BitVec 5) (o : BitVec 12) (l : BitVec 4)
  | ld64 (d : BitVec 5) (a : BitVec 5) (o : BitVec 12) (l : BitVec 4)
  | st8 (d : BitVec 5) (a : BitVec 5) (o : BitVec 12)
  | st16 (d : BitVec 5) (a : BitVec 5) (o : BitVec 12)
  | st32 (d : BitVec 5) (a : BitVec 5) (o : BitVec 12)
  | st64 (d : BitVec 5) (a : BitVec 5) (o : BitVec 12)
  | prefL1 (a : BitVec 5) (o : BitVec 12)
  | prefSlice (a : BitVec 5) (o : BitVec 12)
  | prefTlb (a : BitVec 5) (o : BitVec 12)
  | at32Add (d : BitVec 5) (a : BitVec 5) (b : BitVec 5) (o : BitVec 1) (s : BitVec 3) (l : BitVec 4)
  | at32And (d : BitVec 5) (a : BitVec 5) (b : BitVec 5) (o : BitVec 1) (s : BitVec 3) (l : BitVec 4)
  | at32Or (d : BitVec 5) (a : BitVec 5) (b : BitVec 5) (o : BitVec 1) (s : BitVec 3) (l : BitVec 4)
  | at32Xor (d : BitVec 5) (a : BitVec 5) (b : BitVec 5) (o : BitVec 1) (s : BitVec 3) (l : BitVec 4)
  | at32Max (d : BitVec 5) (a : BitVec 5) (b : BitVec 5) (o : BitVec 1) (s : BitVec 3) (l : BitVec 4)
  | at32Min (d : BitVec 5) (a : BitVec 5) (b : BitVec 5) (o : BitVec 1) (s : BitVec 3) (l : BitVec 4)
  | at32Swap (d : BitVec 5) (a : BitVec 5) (b : BitVec 5) (o : BitVec 1) (s : BitVec 3) (l : BitVec 4)
  | at32Cas (d : BitVec 5) (a : BitVec 5) (b : BitVec 5) (o : BitVec 1) (s : BitVec 3) (l : BitVec 4)
  | at64Add (d : BitVec 5) (a : BitVec 5) (b : BitVec 5) (o : BitVec 1) (s : BitVec 3) (l : BitVec 4)
  | at64And (d : BitVec 5) (a : BitVec 5) (b : BitVec 5) (o : BitVec 1) (s : BitVec 3) (l : BitVec 4)
  | at64Or (d : BitVec 5) (a : BitVec 5) (b : BitVec 5) (o : BitVec 1) (s : BitVec 3) (l : BitVec 4)
  | at64Xor (d : BitVec 5) (a : BitVec 5) (b : BitVec 5) (o : BitVec 1) (s : BitVec 3) (l : BitVec 4)
  | at64Max (d : BitVec 5) (a : BitVec 5) (b : BitVec 5) (o : BitVec 1) (s : BitVec 3) (l : BitVec 4)
  | at64Min (d : BitVec 5) (a : BitVec 5) (b : BitVec 5) (o : BitVec 1) (s : BitVec 3) (l : BitVec 4)
  | at64Swap (d : BitVec 5) (a : BitVec 5) (b : BitVec 5) (o : BitVec 1) (s : BitVec 3) (l : BitVec 4)
  | at64Cas (d : BitVec 5) (a : BitVec 5) (b : BitVec 5) (o : BitVec 1) (s : BitVec 3) (l : BitVec 4)
  | fenceAcq (s : BitVec 3)
  | fenceAcqReg (a : BitVec 5)
  | fenceRel (s : BitVec 3)
  | fenceRelReg (a : BitVec 5)
  | fenceAr (s : BitVec 3)
  | fenceArReg (a : BitVec 5)
  | fenceSc (s : BitVec 3)
  | fenceScReg (a : BitVec 5)
  | lda32 (d : BitVec 5) (a : BitVec 5) (s : BitVec 3) (l : BitVec 4)
  | lda64 (d : BitVec 5) (a : BitVec 5) (s : BitVec 3) (l : BitVec 4)
  | stl32 (d : BitVec 5) (a : BitVec 5) (s : BitVec 3)
  | stl64 (d : BitVec 5) (a : BitVec 5) (s : BitVec 3)
  | scope (d : BitVec 5) (a : BitVec 5) (b : BitVec 5)
  | ldl (d : BitVec 5) (a : BitVec 5) (l : BitVec 4)
  | stu (d : BitVec 5) (a : BitVec 5) (b : BitVec 5)
  | vld (d : BitVec 5) (a : BitVec 5) (o : BitVec 12) (l : BitVec 4)
  | vst (d : BitVec 5) (a : BitVec 5) (o : BitVec 12)
  | vgather (d : BitVec 5) (a : BitVec 5) (b : BitVec 5) (l : BitVec 4) (q : BitVec 1) (k : BitVec 3)
  | vscatter (d : BitVec 5) (a : BitVec 5) (b : BitVec 5) (q : BitVec 1) (k : BitVec 3)
  | vlds (d : BitVec 5) (a : BitVec 5) (b : BitVec 5) (l : BitVec 4) (q : BitVec 1) (k : BitVec 3)
  | vsts (d : BitVec 5) (a : BitVec 5) (b : BitVec 5) (q : BitVec 1) (k : BitVec 3)
  | vadd (d : BitVec 5) (a : BitVec 5) (b : BitVec 5) (q : BitVec 1) (k : BitVec 3)
  | vsub (d : BitVec 5) (a : BitVec 5) (b : BitVec 5) (q : BitVec 1) (k : BitVec 3)
  | vmul (d : BitVec 5) (a : BitVec 5) (b : BitVec 5) (q : BitVec 1) (k : BitVec 3)
  | vmulh (d : BitVec 5) (a : BitVec 5) (b : BitVec 5) (q : BitVec 1) (k : BitVec 3)
  | vadds (d : BitVec 5) (a : BitVec 5) (b : BitVec 5) (q : BitVec 1) (k : BitVec 3)
  | vsubs (d : BitVec 5) (a : BitVec 5) (b : BitVec 5) (q : BitVec 1) (k : BitVec 3)
  | vand (d : BitVec 5) (a : BitVec 5) (b : BitVec 5) (q : BitVec 1) (k : BitVec 3)
  | vor (d : BitVec 5) (a : BitVec 5) (b : BitVec 5) (q : BitVec 1) (k : BitVec 3)
  | vxor (d : BitVec 5) (a : BitVec 5) (b : BitVec 5) (q : BitVec 1) (k : BitVec 3)
  | vsll (d : BitVec 5) (a : BitVec 5) (b : BitVec 5) (q : BitVec 1) (k : BitVec 3)
  | vsrl (d : BitVec 5) (a : BitVec 5) (b : BitVec 5) (q : BitVec 1) (k : BitVec 3)
  | vsra (d : BitVec 5) (a : BitVec 5) (b : BitVec 5) (q : BitVec 1) (k : BitVec 3)
  | vmin (d : BitVec 5) (a : BitVec 5) (b : BitVec 5) (q : BitVec 1) (k : BitVec 3)
  | vmax (d : BitVec 5) (a : BitVec 5) (b : BitVec 5) (q : BitVec 1) (k : BitVec 3)
  | vminu (d : BitVec 5) (a : BitVec 5) (b : BitVec 5) (q : BitVec 1) (k : BitVec 3)
  | vmaxu (d : BitVec 5) (a : BitVec 5) (b : BitVec 5) (q : BitVec 1) (k : BitVec 3)
  | vsel (d : BitVec 5) (a : BitVec 5) (b : BitVec 5) (q : BitVec 1) (k : BitVec 3)
  | vcmpEq (d : BitVec 3) (a : BitVec 5) (b : BitVec 5) (q : BitVec 1) (k : BitVec 3)
  | vcmpNe (d : BitVec 3) (a : BitVec 5) (b : BitVec 5) (q : BitVec 1) (k : BitVec 3)
  | vcmpLt (d : BitVec 3) (a : BitVec 5) (b : BitVec 5) (q : BitVec 1) (k : BitVec 3)
  | vcmpLe (d : BitVec 3) (a : BitVec 5) (b : BitVec 5) (q : BitVec 1) (k : BitVec 3)
  | vcmpLtu (d : BitVec 3) (a : BitVec 5) (b : BitVec 5) (q : BitVec 1) (k : BitVec 3)
  | vcmpLeu (d : BitVec 3) (a : BitVec 5) (b : BitVec 5) (q : BitVec 1) (k : BitVec 3)
  | vfadd (d : BitVec 5) (a : BitVec 5) (b : BitVec 5) (q : BitVec 1) (k : BitVec 3)
  | vfsub (d : BitVec 5) (a : BitVec 5) (b : BitVec 5) (q : BitVec 1) (k : BitVec 3)
  | vfmul (d : BitVec 5) (a : BitVec 5) (b : BitVec 5) (q : BitVec 1) (k : BitVec 3)
  | vfma (d : BitVec 5) (a : BitVec 5) (b : BitVec 5) (q : BitVec 1) (k : BitVec 3)
  | vfms (d : BitVec 5) (a : BitVec 5) (b : BitVec 5) (q : BitVec 1) (k : BitVec 3)
  | vfdiv (d : BitVec 5) (a : BitVec 5) (b : BitVec 5) (q : BitVec 1) (k : BitVec 3)
  | vfsqrt (d : BitVec 5) (a : BitVec 5) (q : BitVec 1) (k : BitVec 3)
  | vfmin (d : BitVec 5) (a : BitVec 5) (b : BitVec 5) (q : BitVec 1) (k : BitVec 3)
  | vfmax (d : BitVec 5) (a : BitVec 5) (b : BitVec 5) (q : BitVec 1) (k : BitVec 3)
  | vfabs (d : BitVec 5) (a : BitVec 5) (q : BitVec 1) (k : BitVec 3)
  | vfneg (d : BitVec 5) (a : BitVec 5) (q : BitVec 1) (k : BitVec 3)
  | vfcmpEq (d : BitVec 3) (a : BitVec 5) (b : BitVec 5) (q : BitVec 1) (k : BitVec 3)
  | vfcmpNe (d : BitVec 3) (a : BitVec 5) (b : BitVec 5) (q : BitVec 1) (k : BitVec 3)
  | vfcmpLt (d : BitVec 3) (a : BitVec 5) (b : BitVec 5) (q : BitVec 1) (k : BitVec 3)
  | vfcmpLe (d : BitVec 3) (a : BitVec 5) (b : BitVec 5) (q : BitVec 1) (k : BitVec 3)
  | vfcmpUn (d : BitVec 3) (a : BitVec 5) (b : BitVec 5) (q : BitVec 1) (k : BitVec 3)
  | vperm (d : BitVec 5) (a : BitVec 5) (b : BitVec 5) (q : BitVec 1) (k : BitVec 3)
  | vbcast (d : BitVec 5) (a : BitVec 5) (q : BitVec 1) (k : BitVec 3)
  | vextr (d : BitVec 5) (a : BitVec 5) (b : BitVec 5) (q : BitVec 1)
  | vinsr (d : BitVec 5) (a : BitVec 5) (b : BitVec 5) (q : BitVec 1)
  | vsort (d : BitVec 5) (a : BitVec 5) (q : BitVec 1) (k : BitVec 3)
  | vcompr (d : BitVec 5) (a : BitVec 5) (q : BitVec 1) (k : BitVec 3)
  | vdot4 (d : BitVec 5) (a : BitVec 5) (b : BitVec 5) (q : BitVec 1) (k : BitVec 3)
  | vfdot (d : BitVec 5) (a : BitVec 5) (b : BitVec 5) (q : BitVec 1) (k : BitVec 3)
  | kand (d : BitVec 3) (a : BitVec 3) (b : BitVec 3) (q : BitVec 1)
  | kor (d : BitVec 3) (a : BitVec 3) (b : BitVec 3) (q : BitVec 1)
  | kxor (d : BitVec 3) (a : BitVec 3) (b : BitVec 3) (q : BitVec 1)
  | knot (d : BitVec 3) (a : BitVec 3) (q : BitVec 1)
  | klen (d : BitVec 3) (a : BitVec 5) (q : BitVec 1)
  | kpop (d : BitVec 5) (a : BitVec 3) (q : BitVec 1)
  | vredAdd (d : BitVec 5) (a : BitVec 5) (q : BitVec 1) (k : BitVec 3)
  | vredMin (d : BitVec 5) (a : BitVec 5) (q : BitVec 1) (k : BitVec 3)
  | vredMax (d : BitVec 5) (a : BitVec 5) (q : BitVec 1) (k : BitVec 3)
  | vredMinu (d : BitVec 5) (a : BitVec 5) (q : BitVec 1) (k : BitVec 3)
  | vredMaxu (d : BitVec 5) (a : BitVec 5) (q : BitVec 1) (k : BitVec 3)
  | vredAnd (d : BitVec 5) (a : BitVec 5) (q : BitVec 1) (k : BitVec 3)
  | vredOr (d : BitVec 5) (a : BitVec 5) (q : BitVec 1) (k : BitVec 3)
  | vredXor (d : BitVec 5) (a : BitVec 5) (q : BitVec 1) (k : BitVec 3)
  | vredFadd (d : BitVec 5) (a : BitVec 5) (q : BitVec 1) (k : BitVec 3)
  | vredFmin (d : BitVec 5) (a : BitVec 5) (q : BitVec 1) (k : BitVec 3)
  | vredFmax (d : BitVec 5) (a : BitVec 5) (q : BitVec 1) (k : BitVec 3)
  | vscanAdd (d : BitVec 5) (a : BitVec 5) (q : BitVec 1) (k : BitVec 3)
  | vscanMin (d : BitVec 5) (a : BitVec 5) (q : BitVec 1) (k : BitVec 3)
  | vscanMax (d : BitVec 5) (a : BitVec 5) (q : BitVec 1) (k : BitVec 3)
  | vscanFadd (d : BitVec 5) (a : BitVec 5) (q : BitVec 1) (k : BitVec 3)
  | vcvt (d : BitVec 5) (a : BitVec 5) (q : BitVec 1) (k : BitVec 3)
  | vpack (d : BitVec 5) (a : BitVec 5) (b : BitVec 5) (q : BitVec 1)
  | vunpk (d : BitVec 5) (a : BitVec 5) (b : BitVec 5) (q : BitVec 1)
  | fmt (a : BitVec 4) (b : BitVec 4) (c : BitVec 4) (r : BitVec 3) (s : BitVec 1) (m : BitVec 3)
  | spawn (d : BitVec 5) (a : BitVec 5) (b : BitVec 5) (l : BitVec 4)
  | send (d : BitVec 5) (a : BitVec 5) (b : BitVec 5) (l : BitVec 4)
  | launch (d : BitVec 5) (a : BitVec 5) (b : BitVec 5) (l : BitVec 4)
  | exit
  | yield
  | wait (d : BitVec 5) (a : BitVec 5) (b : BitVec 5)
  | join (d : BitVec 5) (a : BitVec 5) (l : BitVec 4)
  | leave (d : BitVec 5) (a : BitVec 5) (l : BitVec 4)
  | bar (d : BitVec 5) (a : BitVec 5)
  | bart (d : BitVec 5) (a : BitVec 5) (b : BitVec 5)
  | hbar (d : BitVec 5) (a : BitVec 5) (b : BitVec 5)
  | trap (a : BitVec 5)
  | eret
  | halt
  | tlbw (d : BitVec 5) (a : BitVec 5) (b : BitVec 5)
  | tlbi (d : BitVec 5) (a : BitVec 5) (b : BitVec 5)
  | csrr (d : BitVec 5) (c : BitVec 12)
  | csrw (d : BitVec 5) (a : BitVec 5) (c : BitVec 12)
  | csrs (d : BitVec 5) (a : BitVec 5) (c : BitVec 12)
  | csrc (d : BitVec 5) (a : BitVec 5) (c : BitVec 12)
  | copy (a : BitVec 3)
  | copyt (d : BitVec 5) (a : BitVec 3)
  | cpbind (d : BitVec 5) (a : BitVec 5) (b : BitVec 5)
  | cpunb (d : BitVec 5) (a : BitVec 5)
  | cppop (d : BitVec 5)
  | cpstat (d : BitVec 5) (a : BitVec 5)
  | tlook (d : BitVec 5) (a : BitVec 5)
  | tins (d : BitVec 5) (a : BitVec 5)
  | tdel (d : BitVec 5) (a : BitVec 5)
  | tstat (d : BitVec 5) (a : BitVec 5)
  | qarr (d : BitVec 5) (a : BitVec 5)
  | qseal (d : BitVec 5) (a : BitVec 5)
  | qdep (a : BitVec 5)
  | qsplit (d : BitVec 5) (a : BitVec 5) (b : BitVec 5)
  | qdef (d : BitVec 5)
  | qidx (d : BitVec 5) (a : BitVec 5)
  | qpop (d : BitVec 5)
  | qfirst (d : BitVec 5)
  | qget (d : BitVec 5) (a : BitVec 5)
  | qput (a : BitVec 5) (b : BitVec 5)
  | qadd (a : BitVec 5)
  | qdel (a : BitVec 5)
  | cqmrg (d : BitVec 5) (a : BitVec 5) (b : BitVec 5)
  | cqbest (d : BitVec 5) (a : BitVec 5) (b : BitVec 5)
  | cqinit (d : BitVec 5) (a : BitVec 5) (b : BitVec 5)
  | cqcnt (d : BitVec 5) (a : BitVec 5)
  | vvis (d : BitVec 2) (a : BitVec 5) (b : BitVec 5)
  | cvenc (d : BitVec 5) (a : BitVec 5)
  | cvdec (d : BitVec 5) (a : BitVec 5)
  | cvadd (d : BitVec 5) (a : BitVec 5) (b : BitVec 5)
  | cvsub (d : BitVec 5) (a : BitVec 5) (b : BitVec 5)
  | cvin (d : BitVec 5) (a : BitVec 5) (b : BitVec 4)
  | cvnext (d : BitVec 5) (a : BitVec 5) (b : BitVec 4)
  | cvprev (d : BitVec 5) (a : BitVec 5) (b : BitVec 4)
  | cvlev (d : BitVec 5) (a : BitVec 5) (b : BitVec 5)
  | cvcell (d : BitVec 5) (a : BitVec 5) (b : BitVec 5)
  | cvsplit (d : BitVec 5) (a : BitVec 3) (b : BitVec 5)
  | vcvadd (d : BitVec 5) (a : BitVec 5) (b : BitVec 5) (q : BitVec 1) (k : BitVec 3)
  | vcvin (d : BitVec 3) (a : BitVec 5) (b : BitVec 4) (q : BitVec 1) (k : BitVec 3)
  | vcvenc (d : BitVec 5) (a : BitVec 5) (q : BitVec 1) (k : BitVec 3)
  | mxgang (d : BitVec 5) (a : BitVec 5)
  | mxleave (d : BitVec 5)
  | mxgo (d : BitVec 2) (a : BitVec 3)
  | mxres (a : BitVec 3)
  | mxmov (d : BitVec 5) (a : BitVec 2) (b : BitVec 5) (l : BitVec 4)
  | mxdrain (d : BitVec 2) (a : BitVec 3)
  | mxzero (d : BitVec 2)
  | pwreq (d : BitVec 5)
  | bkload (d : BitVec 5) (a : BitVec 5) (b : BitVec 5)
  | bkpush (d : BitVec 5) (a : BitVec 3)
  | bkpop (d : BitVec 5)
  | bkstat (d : BitVec 5) (a : BitVec 5) (b : BitVec 5) (l : BitVec 4)
  | bnop
  | bset (d : BitVec 4) (s : BitVec 4) (i : BitVec 20)
  | badd (d : BitVec 4) (a : BitVec 4) (i : BitVec 20)
  | blda (b : BitVec 3) (a : BitVec 4) (l : BitVec 12) (o : BitVec 8)
  | bldaP (b : BitVec 3) (l : BitVec 12) (o : BitVec 8)
  | brow (m : BitVec 8) (a : BitVec 4) (n : BitVec 4) (k : BitVec 4) (r : BitVec 4)
  | bscl (m : BitVec 8) (a : BitVec 4) (n : BitVec 4) (r : BitVec 4)
  | bwr (m : BitVec 8) (a : BitVec 4) (n : BitVec 4) (r : BitVec 4)
  | bloop (c : BitVec 4) (s : BitVec 10)
  | bend
  | bsync (a : BitVec 4) (b : BitVec 4)
  | bwait (m : BitVec 8) (c : BitVec 1)
  | bfmt (a : BitVec 4) (b : BitVec 4) (c : BitVec 4) (r : BitVec 3) (s : BitVec 1) (m : BitVec 3) (n : BitVec 1)
  | bzero (r : BitVec 4) (n : BitVec 4)
  | bcopy (d : BitVec 4) (a : BitVec 4) (b : BitVec 4)
  | bhalt
  | btrap (c : BitVec 16)
  | launchPortWrite (base q off : Nat) (data : List (BitVec 8)) (tlps : Nat)
  | launchRecord (msg : Nat)
  | launchSelect (base : Nat)
  | coresidentStart (base q : Nat)
  | threadStartEmit (base : Nat)
  | threadStartMessage (msg : Nat)
  | returnedThreadStart (msg : Nat)
  | reemitTimeout (msg : Nat)
  | heldMessageRetry (msg : Nat)
  | spawnMessage (msg : Nat)
  | inboundMessageStart (core : Nat)
  | resultLands (core ctx seq : Nat) (reply : Reply)
  | trapEntry (core ctx : Nat)
  | watchdogExpiry (core ctx : Nat)
  | storeWriteAtHome (core id : Nat)
  | storeAck (core id : Nat)
  | bartTimeout (core ctx : Nat)
  | hbarTimeout (core ctx : Nat)
  | wireRelease (base wire idx : Nat)
  | tlbWalk (core miss : Nat) (found : Option (BitVec 64 × BitVec 64))
  | heldPageRequestWrite
  | pageRequestAnswer (value : BitVec 64)
  | copyCommandStart (core chan : Nat)
  | watermarkAdvance (core chan units : Nat)
  | copyCompletion (core chan : Nat)
  | channelAutoUnbind (core chan : Nat)
  | bankCommandStart (ch : Nat)
  | bkloadRun (ch : Nat)
  | bkstatSample (core ctx seq : Nat)
  | bldaComplete (ch id : Nat)
  | bcopyComplete (ch id : Nat)
  | bankRecordPost (ch : Nat)
  | engineWatchdog (ch : Nat)
  | gangStart (core : Nat)
  | kGroupCommit (core : Nat)
  | powerGrant (chiplet : Nat)
  | sliceAwake (core : Nat)
  | sliceGate (core : Nat)
  | grantRevoke (chiplet : Nat)
  | currentSample (amps : BitVec 16)
  | thermalThrottle (celsius : BitVec 8)
  | thermalTrip (celsius : BitVec 8)
  | routeStep (pkt : Nat)
  | routerPowerDown (core : Nat)
  | routerWake (core : Nat)
  | linkFlitRetry (word : Nat) (hbm : Bool)
  | etgusFlitReceive (port : Nat) (flit : EtgusFlit)
  | etgusRetryRequest (port : Nat) (ack : BitVec 12)
  | etgusRetrain (port : Nat)
  | podWindowRequest (kind : PodKind) (va : BitVec 64) (size : Nat) (aop : BitVec 3) (data cmp : BitVec 512)
  | hostLinkDown
  | bar4Read (off : BitVec 39) (size : Nat)
  | bar4Write (off : BitVec 39) (data : List (BitVec 8))
  | launchCompletion (lid : BitVec 32)
  | lcmdPreempt (base : Nat) (lid : BitVec 32)
  | lcmdResume (base : Nat) (lid : BitVec 32)
  | lcmdTerminate (base : Nat) (lid : BitVec 32)
  | preemptHaltComplete (lid : BitVec 32)
  | saveRegionWrite (lid : BitVec 32)
  | resumeRestore (lid : BitVec 32)
  | gangResume (lid : BitVec 32)
  | resumedDistribution (lid : BitVec 32)
  | qctlWrite (base q : Nat) (value : BitVec 64)
  | qcntClear (base q : Nat) (value : BitVec 64)
  | corePark (base i : Nat)
  | coreUnpark (base i : Nat)
  | excuseWrite (base i : Nat) (on : Bool)
  | parkrefClear (base : Nat) (value : BitVec 64)
  | debugContinue (base : Nat) (value : BitVec 64)
  | dbgignClear (base : Nat) (value : BitVec 64)
  | layctlWrite (value : BitVec 64)
  | keyLoad (value : BitVec 64)
  | keyLoadComplete
  | versionBump (id : BitVec 16)
  | versionBumpComplete
  | gcapWrite (value : BitVec 64)
  | ttdataWrite (value : BitVec 128)
  | bar0RegisterWrite (off : BitVec 26) (value : BitVec 64)
  | attestationQuote (nonce : BitVec 256)
  | firmwareImageWrite (image : FwImage)
  | firmwareUpdate (image : FwImage) (interrupted : Bool)
  | scrubBlock (ch blk : Nat) (find : ScrubFind)
  | reset (boot : BootFacts)
  | atomicAtHome (core ctx seq : Nat) (reply : Reply)
  | bankCommandPush (msg : Nat)
  | etgusRetrainDone (port : Nat) (ok : Bool)
  | dirtyLineWriteBack (line : Nat) (evict : Bool)
  | uncorrectableRegisterError (core ctx : Nat) (reg : RegName)
  deriving DecidableEq, Repr

end Sys2Proof
end

