-- ==== Sys2Proof/Machine/State.lean ====
section
/-! DEFINITION. The state of one DX-480 package as plain data: every context, core, controller, bank engine, slice, table,
register and queue that the spec names, the model's tape of turns, and the state right after reset.

A `Map` is a sparse table in one canonical form: keys strictly rising, no entry equal to what an unlisted key reads as.
Cores are numbered y * 32 + x (04 R39), contexts 0 to 63 (02 R15), channels 0 to 1,919 (08 R95).

One location number names every byte the package can reach (log 9): DRAM channel c, offset o is c * 2^28 + o, the numbering of
BAR4 (08 R114); scratch offset o of core n is 2^40 + n * 2^20 + o; host bus address h is 2^64 + h; an address served by another
package is 2^70 + the 60-bit address. -/

namespace Sys2Proof.Machine

/-- A sparse table. -/
abbrev Map (α : Type) := List (Nat × α)

/-! ### What a thread holds -/

/-- The destination of a long-latency result (11 R133). -/
inductive Dest where
  | x (n : BitVec 5)
  | v (n : BitVec 5)
  deriving DecidableEq, Repr

/-- One access after the checks of 08 R107: its address, location and size, whether the requester's L1 may hold it (08 R93),
and the key index and buffer id of its page (08 R98). -/
structure Acc where
  va : Word
  loc : Nat
  size : Nat
  l1 : Bool
  key : Nat
  buf : Nat
  deriving DecidableEq, Repr

/-- A result that has come back: a value, or a fault with its cause, access kind and address (11 R139, 13 R378). -/
inductive Res where
  | val (v : Vec)
  | fault (cause kind : Nat) (addr : Word)
  deriving DecidableEq, Repr

/-- An element of a vector load: its index, its access and, once performed, its value or fault (04 R46). -/
structure VecEl where
  idx : Nat
  acc : Acc
  got : Option Res
  deriving DecidableEq, Repr

/-- What an open window still waits for. A load names its access, its sign extension, the scope of an acquire (LDA) and whether it
is LDL; a vector load its elements and their width in bits; an atomic its operation, operands, .ar scope and
the old value once its home has performed it; JOIN or LEAVE of a word in another package what that package answers (02 R32, 08 R89);
a message the status its destination decides, and whether it is a LAUNCH, whose record is still to be read (14 R194); BKSTAT its address,
the engine and the selector. -/
inductive Pend where
  | none
  | load (a : Acc) (signed : Bool) (acq : Option Nat) (ldl : Bool)
  | vec (els : List VecEl) (w : Nat)
  | atomic (a : Acc) (op : BitVec 3) (b e : Word) (ar : Option Nat) (old : Option Res)
  | group (a : Acc) (join : Bool)
  | message (rec : Bool)
  | bkstat (va : Word) (ch : Nat) (sel : Bool)
  deriving DecidableEq, Repr

/-- An open lookahead window (11 R134 to R138): the access's place in the thread's order, the store-queue position at its issue,
the destination, the lanes it replaces (17 R228), the instructions left, the hold of R137, what it waits for, and its result. -/
structure Window where
  seq : Nat
  qpos : Nat
  dest : Dest
  mask : Mask
  left : Nat
  held : Bool
  pend : Pend
  res : Option Res
  deriving DecidableEq, Repr

/-- A release fence that holds the thread's later stores and releases (04 R48): its place in the thread's order and in the
store queue, and its scope. -/
structure Fence where
  seq : Nat
  qpos : Nat
  scope : Nat
  deriving DecidableEq, Repr

/-- A place of a record queue (18 R242, 26 R329): the command, its channel, its record once posted, and the ranges of locations
(start, length) it wrote, for the pop's L1 invalidation (04 R54). `anyRange`: restored from a save region, ranges unknown. -/
structure RecSlot where
  cmd : Nat
  chan : Nat
  record : Option Word
  ranges : List (Nat × Nat)
  anyRange : Bool
  deriving DecidableEq, Repr

/-- A trap that waits for the thread's pending results (13 R183): cause, kind, etval, epc's instruction,
IMP, DEF and, for IMP, the store's place. -/
structure PendTrap where
  cause : Nat
  kind : Nat
  val : Word
  pc : Word
  imp : Bool
  defer : Bool
  seq : Nat
  deriving DecidableEq, Repr

/-- What a waiting context waits for (02 R15): a word of scratch to differ (14 R197), a group word's phase to change, with the phase
read, a time-out (02 R33, 14 R198) and the store-queue position at its arrival (02 R34), a barrier wire, 0 row, 1 column, 2 mesh, since a
cycle (14 R199), the other members of a gang (22 R291). -/
inductive Wait where
  | word (a : Word) (loc : Nat) (expected : Word) (d : BitVec 5)
  | bar (a : Word) (loc : Nat) (phase : Bool) (d : BitVec 5) (deadline : Option Nat) (qpos : Nat)
  | hbar (kind : Nat) (d : BitVec 5) (since : Nat) (deadline : Option Nat)
  | gang
  deriving DecidableEq, Repr

/-- The context states of 02 R15. A halted context remembers what it waited for (13 R186). -/
inductive Run where
  | idle
  | ready
  | stalled
  | waiting (w : Wait)
  | halted (was : Option Wait)
  | stopped
  deriving DecidableEq, Repr

/-- The lock register (12 R177): the location of the word, the place of its LDL in the thread's order, and whether the word's lock bit
has been taken. -/
structure Lock where
  loc : Nat
  seq : Nat
  taken : Bool
  deriving DecidableEq, Repr

/-- What a thread held before an instruction that it issued past a result that was due and had not landed (11 R134): what a faulted
result brings back, so that its trap stands in place of the write (11 R139). `seq` is the instruction's place in the thread's order. -/
structure Snap where
  pc : Word
  x : Map Word
  v : Map Vec
  k : Map Mask
  regErr : List RegName
  latch : BitVec 19
  latchOn : Bool
  windows : List Window
  seq : Nat
  deriving DecidableEq, Repr

/-- One thread context (02 R15, R16; 14 R205). `past` holds, oldest first, what the thread held before the instructions that it issued
past due results. `poisonDue` holds, by their place in the order, the stores whose trap is due, a poisoned partial store's or a store's
that another package refused, with CAUSE and address (13 R379, 08 R88), `poisonHeld` those that were due at a trap and are due again once
its instruction is retried (13 R181). `stallAt` is the cycle the watchdog counts from, `stallCnt` what it has counted before (13 R182).
`yieldFor` lists, while a YIELD passes the context over, the peers that have issued since (14 R196). `todo` holds the word of
an instruction that has issued and the stores that it has still to retire (04 R47). `idleAt` is the cycle in which the context was idled (21 R282). `stale` lists the L1
lines that the thread may not read (02 R28, log 31). `reqLost` is the place of a group instruction or WAIT whose request a route error
has answered (15 R214). -/
structure Ctx where
  run : Run
  pc : Word
  x : Map Word
  v : Map Vec
  k : Map Mask
  qm : BitVec 256
  qd : BitVec 256
  tid : BitVec 32
  lid : BitVec 32
  spawnno : Word
  rmode : BitVec 3
  vflg0 : Word
  vflg1 : Word
  fmtp : BitVec 19
  space : BitVec 12
  inh : Bool
  pp : Bool
  scnt : BitVec 6
  cls : BitVec 2
  cvd : BitVec 11
  cvf : BitVec 8
  qtb : BitVec 13
  qstr : BitVec 3
  qbat : BitVec 16
  mxprog : Word
  epc : Word
  ecause : Word
  etval : Word
  ehandler : Word
  latch : BitVec 19
  latchOn : Bool
  windows : List Window
  past : List Snap
  fences : List Fence
  lock : Option Lock
  gen : BitVec 32
  copyQ : List RecSlot
  bankQ : List RecSlot
  trapPend : Option PendTrap
  poisonDue : Map (Nat × Word)
  poisonHeld : Map (Nat × Word)
  regErr : List RegName
  stallAt : Option Nat
  stallCnt : Nat
  yieldFor : Option (List Nat)
  todo : Option (BitVec 32 × List (Acc × Word))
  idleAt : Option Nat
  barHeld : Option (Word × Bool)
  stale : List Nat
  reqLost : Option Nat
  seq : Nat
  deriving DecidableEq, Repr

/-- An idle context: every field zero or empty (log 2). -/
def Ctx.reset : Ctx where
  run := .idle
  pc := 0
  x := []
  v := []
  k := []
  qm := 0
  qd := 0
  tid := 0
  lid := 0
  spawnno := 0
  rmode := 0
  vflg0 := 0
  vflg1 := 0
  fmtp := 0
  space := 0
  inh := false
  pp := false
  scnt := 0
  cls := 0
  cvd := 0
  cvf := 0
  qtb := 0
  qstr := 0
  qbat := 0
  mxprog := 0
  epc := 0
  ecause := 0
  etval := 0
  ehandler := 0
  latch := 0
  latchOn := false
  windows := []
  past := []
  fences := []
  lock := none
  gen := 0
  copyQ := []
  bankQ := []
  trapPend := none
  poisonDue := []
  poisonHeld := []
  regErr := []
  stallAt := none
  stallCnt := 0
  yieldFor := none
  todo := none
  idleAt := none
  barHeld := none
  stale := []
  reqLost := none
  seq := 0

/-! ### What a core holds -/

/-- A store (04 R47), kept until its home acknowledges it. `level` is the level it counts at, `rel` the scope an STL must be
released at, `sent` whether it has left the lane group's store queue for its home (log 73), `written` whether its home holds it,
`poisoned` whether it wrote part of a poisoned word (13 R379), `refused` whether another package refused it (08 R88), `unlock` whether it
is a STU (12 R177). -/
structure StoreEnt where
  id : Nat
  lg : Nat
  ctx : Nat
  seq : Nat
  acc : Acc
  data : Word
  level : Nat
  rel : Option Nat
  sent : Bool
  written : Bool
  poisoned : Bool
  refused : Bool
  unlock : Bool
  deriving DecidableEq, Repr

/-- A 64-byte line: its data, the poison mark of each of its 8-byte words (13 R184), whether DRAM lacks its data (08 R96), and the key
index and buffer id it is written back under (08 R98). -/
structure Line where
  data : Vec
  pois : BitVec 8
  dirty : Bool
  key : Nat
  buf : Nat
  deriving DecidableEq, Repr

/-- A TLB entry, the two words of TLBW (08 R98). -/
structure TlbEntry where
  te0 : Word
  te1 : Word
  deriving DecidableEq, Repr

/-- An access that waits on a miss (08 R108, R120): its context, that context's generation, the access's kind and address. -/
structure MissWait where
  ctx : Nat
  gen : BitVec 32
  kind : Nat
  va : Word
  deriving DecidableEq, Repr

/-- An outstanding miss (08 R108): the 64 KiB region, the space, the access kind (0 load, 1 store, 2 atomic, 3 fetch), the context
that sent it (64 + c for copy channel c, 80 for the matrix load pipe) with its generation, the address, whether a prefetch sent it,
whether a page request followed, whether the walk for an engine failed (09 R119), and the accesses that wait on it. -/
structure Miss where
  region : Nat
  space : BitVec 12
  kind : Nat
  ctx : Nat
  gen : BitVec 32
  lid : BitVec 32
  va : Word
  prefetch : Bool
  requested : Bool
  failed : Bool
  waiters : List MissWait
  deriving DecidableEq, Repr

/-- A lock bit that is held (08 R116): bank, bit, and the context holding it. -/
structure LockBit where
  bank : Nat
  bit : Nat
  core : Nat
  ctx : Nat
  deriving DecidableEq, Repr

/-- An operation that found its lock bit held and retries, oldest first (08 R116). -/
structure LockWait where
  bank : Nat
  bit : Nat
  core : Nat
  ctx : Nat
  seq : Nat
  deriving DecidableEq, Repr

/-- A copy channel's binding (18 R251, 23 R306): the thread that made it, the window, and the runs of window bytes written since. -/
structure Binding where
  ctx : Nat
  gen : BitVec 32
  lid : BitVec 32
  base : Nat
  size : Nat
  written : List (Nat × Nat)
  deriving DecidableEq, Repr

/-- A copy channel (18 R242, R257). -/
structure Chan where
  bound : Option Binding
  phase : Bool
  stopAddr : Word
  deriving DecidableEq, Repr

/-- A piece of a copy command that has been translated (08 R105): its role (0 source, 1 destination, 2 list), its row or list element, and
the translation of an address in it. -/
structure CopyPiece where
  role : Nat
  run : Nat
  acc : Acc
  deriving DecidableEq, Repr

/-- A copy command in the request FIFO (18 R242, R243): its pusher, place in the pusher's order, the mode captured at issue, the four
words, the phase at acceptance, and its progress: `done` bytes in the unit of LEN, `entry` the list entry in use (R247), or, for a converting
copy from SS4, that the low nibble of the next byte is done, or, for an accumulate into another package, how many of its adds have been
answered; `words` the aligned source words read and in use, newest first, with their addresses (04 R53), and `pieces` the pieces translated
last in each role (R249). -/
structure CopyCmd where
  id : Nat
  ctx : Nat
  gen : BitVec 32
  lid : BitVec 32
  seq : Nat
  qpos : Nat
  space : BitVec 12
  rmode : BitVec 3
  w0 : Word
  w1 : Word
  w2 : Word
  w3 : Word
  phase : Bool
  running : Bool
  done : Nat
  entry : Option Word
  words : List (Word × Nat)
  pieces : List CopyPiece
  flags : BitVec 5
  malformed : Bool
  stop : Option (Nat × Word)
  ranges : List (Nat × Nat)
  deriving DecidableEq, Repr

/-- An entry of the rendezvous table (20 R266). -/
structure Rendezvous where
  place : Nat
  lid : BitVec 32
  tag : BitVec 16
  node : BitVec 31
  isSealed : Bool
  holder : Nat
  mask : BitVec 256
  count : Nat
  deriving DecidableEq, Repr

/-- A message that starts a thread (02 R16, R26, R28): kind 0 thread-start, 1 spawn, 2 send. `bad` names the registers, `badWords` the
8-byte words of the payload, that come from poisoned words of a save region (13 R184). -/
structure InMsg where
  kind : Nat
  lid : BitVec 32
  pc : Word
  x1 : Word
  x2 : Word
  x3 : Word
  x4 : Word
  spawnno : Word
  tid : BitVec 32
  cls : BitVec 2
  space : BitVec 12
  rmode : BitVec 3
  ehandler : Word
  payload : List Byte
  bad : List RegName
  badWords : List Nat
  deriving DecidableEq, Repr

/-- A matrix operation of one member (22 R289 to R292): its instruction (`res`: MXRES), the captured accumulator, descriptor,
formats and RM code, its flags, and whether it runs. -/
structure MxOp where
  ctx : Nat
  res : Bool
  acc : BitVec 2
  w0 : Word
  w1 : Word
  w2 : Word
  w3 : Word
  fa : BitVec 4
  fb : BitVec 4
  fc : BitVec 4
  rm : BitVec 3
  kdone : Nat
  flags : BitVec 5
  running : Bool
  qpos : Nat
  seq : Nat
  deriving DecidableEq, Repr

/-- A core's matrix slice (22 R283, R285, R303): `op` is the operation that runs, `form` the one in gang wait, `stopped` the descriptor
of the operation that stopped last. -/
structure Slice where
  acc : Map (BitVec 32)
  tags : BitVec 8
  owner : Option Nat
  g : BitVec 3
  op : Option MxOp
  form : Option MxOp
  grant : Bool
  request : Bool
  awake : Bool
  grantAt : Nat
  reqAt : Nat
  idleAt : Nat
  revoking : Bool
  stopped : List Word
  deriving DecidableEq, Repr

/-- The reset slice: elements and tags 0 (22 R283); no owner, no grant, gated (log 7). -/
def Slice.reset : Slice where
  acc := []
  tags := 0
  owner := none
  g := 0
  op := none
  form := none
  grant := false
  request := false
  awake := false
  grantAt := 0
  reqAt := 0
  idleAt := 0
  revoking := false
  stopped := []

/-- A lane group's issue state (02 R30): its place in the 15-slot sequence, the context of each class that issued last, and the cycle
it last issued in. -/
structure IssueSlot where
  slot : Nat
  last : List Nat
  cyc : Option Nat
  deriving DecidableEq, Repr

/-- An arrival at a group word in its current phase (02 R33): the word's location, the thread, and the places of the arrival in its
order and in its store queue. A BART that times out leaves its arrival. -/
structure Arrival where
  loc : Nat
  core : Nat
  ctx : Nat
  seq : Nat
  qpos : Nat
  deriving DecidableEq, Repr

/-- A CSR instruction's change of a per-core CSR, made at the end of its cycle (14 R206): 0 write, 1 set, 2 clear; only one of flgsum sets
or clears (06 R81). -/
structure CsrChange where
  csr : Nat
  how : Nat
  val : Word
  deriving DecidableEq, Repr

/-- One core (01 R6). `excuseDue` is a change of the excuse bit made in the present cycle (15 R219). `csrDue` and `raiseDue` are the changes and flag raises of the present cycle (06 R81, 14 R206); `bankAt`, `bankOps`
the cycle and the (word, rank) of the operations its banks performed in it (05 R60); `arrs` the arrivals at its group words; `handAt` the
cycle and rank of the last context handed out (21 R282). -/
structure Core where
  ctxs : Map Ctx
  flgsum : BitVec 5
  mxidle : BitVec 24
  tagEn : Bool
  tagSize : BitVec 4
  tagSets : BitVec 4
  tagBase : BitVec 12
  tags : Map Word
  tagLru : Map (List Nat)
  tlb : List TlbEntry
  misses : List Miss
  l1 : List (Nat × Line)
  icache : Map (BitVec 32)
  storeQ : List StoreEnt
  nextStore : Nat
  lockBits : List LockBit
  lockWait : List LockWait
  slots : Map IssueSlot
  chans : Map Chan
  copyFifo : List CopyCmd
  nextCmd : Nat
  rvt : List Rendezvous
  inbox : List InMsg
  mx : Slice
  parked : Bool
  excuse : Bool
  excuseDue : Option Bool
  routerGated : Bool
  routerIdle : Nat
  held : List (Nat × BitVec 32)
  csrDue : List CsrChange
  raiseDue : BitVec 5
  bankAt : Nat
  bankOps : List (Nat × Nat)
  arrs : List Arrival
  handAt : Option (Nat × Nat)
  deriving DecidableEq, Repr

/-- A core right after reset: the values of 06 R81, 08 R98, R117, 14 R208, 18 R257; the rest empty (log 2, 4, 8). -/
def Core.reset : Core where
  ctxs := []
  flgsum := 0
  mxidle := 4096
  tagEn := false
  tagSize := 0
  tagSets := 0
  tagBase := 0
  tags := []
  tagLru := []
  tlb := []
  misses := []
  l1 := []
  icache := []
  storeQ := []
  nextStore := 0
  lockBits := []
  lockWait := []
  slots := []
  chans := []
  copyFifo := []
  nextCmd := 0
  rvt := []
  inbox := []
  mx := Slice.reset
  parked := false
  excuse := false
  excuseDue := none
  routerGated := false
  routerIdle := 0
  held := []
  csrDue := []
  raiseDue := 0
  bankAt := 0
  bankOps := []
  arrs := []
  handAt := none

/-! ### Bank engines -/

/-- A page a bank command may touch (26 R329, R332): channel, the page's first offset and length in the channel, the range's offset
and length, key and buffer id, and whether reads and writes are allowed. -/
structure BankPage where
  ch : Nat
  first : Nat
  len : Nat
  off : Nat
  rlen : Nat
  key : Nat
  buf : Nat
  deriving DecidableEq, Repr

/-- A bank command (26 R328, R335): its pusher and place in the pusher's order, the four words, the payload, the captured formats, the
pages once validated (R329); or the words of a BKLOAD. -/
structure BankCmd where
  id : Nat
  core : Nat
  ctx : Nat
  gen : BitVec 32
  lid : BitVec 32
  seq : Nat
  qpos : Nat
  space : BitVec 12
  ch : Nat
  valid : Bool
  load : Bool
  start : Nat
  words : List (BitVec 32)
  w0 : Word
  w1 : Word
  w2 : Word
  w3 : Word
  payload : List Byte
  fa : BitVec 4
  fb : BitVec 4
  fc : BitVec 4
  rm : BitVec 3
  sat : Bool
  scm : BitVec 3
  rd : Option BankPage
  wr : Option BankPage
  deriving DecidableEq, Repr

/-- A transfer of BLDA or BCOPY still in the background (26 R340): its number, its operands and what it has done so far, the lines of a
buffer or the 8-byte words of memory, counted from its start. -/
inductive Xfer where
  | lda (id ab doff len : Nat) (src : Option Nat) (done : List Nat)
  | copy (id a d n : Nat) (done : List Nat)
  deriving DecidableEq, Repr

/-- How a command ended (26 R345): status, cause and code. -/
structure BankEnd where
  status : Nat
  cause : Nat
  code : BitVec 16
  deriving DecidableEq, Repr

/-- The command an engine runs (26 R331): its pc, the start time, its flags and its end while it waits to post. -/
structure BankRun where
  cmd : BankCmd
  pc : Nat
  startAt : Nat
  flags : BitVec 5
  ended : Option BankEnd
  xferFault : Option (Nat × Nat)
  deriving DecidableEq, Repr

/-- A bank engine (26 R325). Activation byte i of buffer v is key 16384 v + i; result entry (r, v) is key 8 r + v; a word of the
instruction store that is not listed is 0xF000_0000, BTRAP with code 0 (26 R326). -/
structure Engine where
  ab : Map Byte
  result : Map (BitVec 32)
  e : Map (BitVec 32)
  istore : Map (BitVec 32)
  payload : List Byte
  fa : BitVec 4
  fb : BitVec 4
  fc : BitVec 4
  rm : BitVec 3
  sat : Bool
  scm : BitVec 3
  loops : List (Nat × BitVec 32)
  fifo : List BankCmd
  run : Option BankRun
  xfers : List Xfer
  nextXfer : Nat
  done : BitVec 32
  deriving DecidableEq, Repr

/-- An engine at reset (26 R326): zeros, every word BTRAP, nothing running; the formats are set at each command (log 11). -/
def Engine.reset : Engine where
  ab := []
  result := []
  e := []
  istore := []
  payload := []
  fa := 0
  fb := 0
  fc := 0
  rm := 0
  sat := false
  scm := 0
  loops := []
  fifo := []
  run := none
  xfers := []
  nextXfer := 0
  done := 0

/-! ### Launches and controllers -/

/-- A launch record in a queue (02 R17 to R23): its lid, words, space and arrival. -/
structure QRec where
  lid : BitVec 32
  words : BitVec 512
  space : BitVec 12
  arrival : Nat
  deriving DecidableEq, Repr

/-- A launch queue and its registers (02 R19, R20; 28 R359). `ovAt` and `ovOld`: the cycle of the last write of QCTL, and the override
before it, which a selection in that cycle still uses (03 R38). -/
structure Queue where
  recs : List QRec
  front : List QRec
  ovclass : BitVec 2
  oven : Bool
  ovAt : Option Nat
  ovOld : BitVec 2 × Bool
  space : BitVec 12
  msivec : BitVec 11
  msien : Bool
  lastStatus : BitVec 3
  lastV : Bool
  lastLid : BitVec 32
  portErr : BitVec 16
  overflow : BitVec 16
  noRecord : BitVec 16
  ended : BitVec 16
  deriving DecidableEq, Repr

/-- A queue at reset: empty, its registers 0 (log 11). -/
def Queue.reset : Queue where
  recs := []
  front := []
  ovclass := 0
  oven := false
  ovAt := none
  ovOld := (0, false)
  space := 0
  msivec := 0
  msien := false
  lastStatus := 0
  lastV := false
  lastLid := 0
  portErr := 0
  overflow := 0
  noRecord := 0
  ended := 0

/-- Where a live launch stands: waiting in its queue, being distributed, distributed, halting for pre-emption, saved, resuming,
or ending with a status (02 R22, R36; 13 R185 to R189, R380). -/
inductive Phase where
  | queued
  | distributing
  | distributed
  | halting
  | halted
  | saved
  | resuming
  | ending (status : Nat)
  deriving DecidableEq, Repr

/-- What the controller keeps of a saved context beside its record (log 22): where it stood (core and context), what it waited for, the
traps of its stores due and held, whether it owned its core's slice, in window order the access kinds of its
faulted results, and the ranges its recorded copy and bank commands wrote. -/
structure SavedCtx where
  place : Nat × Nat
  wait : Option Wait
  due : Map (Nat × Word)
  heldDue : Map (Nat × Word)
  owner : Bool
  kinds : List Nat
  copied : List (List (Nat × Nat))
  banked : List (List (Nat × Nat))
  deriving DecidableEq, Repr

/-- A live launch (02 R23). `next` is the first thread not yet distributed; `lwin`, `lmap` the window list and core map of a command
(28 R360); `msgs` its withdrawn messages with their cores (13 R185); `restored` that a resume has restored it (13 R189). -/
structure Launch where
  lid : BitVec 32
  base : Nat
  queue : Nat
  words : BitVec 512
  space : BitVec 12
  arrival : Nat
  cls : BitVec 2
  next : Nat
  phase : Phase
  waitq : Bool
  restored : Bool
  lsave : Nat
  lwin : List (Nat × Nat × Nat)
  lmap : List (Nat × Nat)
  msgs : List (Nat × InMsg)
  saved : List SavedCtx
  deriving DecidableEq, Repr

/-- A launch controller's registers (02 R23; 28 R360, R361). `emitAt` is the cycle in which it last emitted a thread-start message (02 R25). -/
structure Ctl where
  counter : BitVec 31
  queues : Map Queue
  resumed : List (BitVec 32)
  lsave : Word
  lsize : Word
  lwin : Word
  lmap : Word
  busy : Bool
  result : BitVec 4
  need : BitVec 32
  cmdLid : BitVec 32
  ridle : BitVec 16
  wdlim : BitVec 32
  parkRef : BitVec 16
  parkLast : BitVec 8
  dbgIgn : BitVec 32
  emitAt : Option Nat
  deriving DecidableEq, Repr

/-- A controller at reset: counter 1 (02 R23), RIDLE 1,024 and WDLIM 2^26 (28 R361); the rest 0 (log 11). -/
def Ctl.reset : Ctl where
  counter := 1
  queues := []
  resumed := []
  lsave := 0
  lsize := 0
  lwin := 0
  lmap := 0
  busy := false
  result := 0
  need := 0
  cmdLid := 0
  ridle := 1024
  wdlim := 0x04000000
  parkRef := 0
  parkLast := 0
  dbgIgn := 0
  emitAt := none

/-- Where a thread-start message is (02 R24 to R26): on its route, at the `pos`-th core of it; returned to the controller, or held by
it, since a cycle. -/
inductive StartAt where
  | route (pos : Nat)
  | returned
  | timed (since : Nat)
  | held (since : Nat)
  deriving DecidableEq, Repr

/-- A thread-start message (02 R25). -/
structure StartMsg where
  base : Nat
  lid : BitVec 32
  idx : Nat
  hint : Nat
  place : StartAt
  deriving DecidableEq, Repr

/-- A message on its way from a core (02 R28, 14 R193, R194): SPAWN, SEND, or a LAUNCH record for a device queue. It leaves when its
release holds. -/
structure OutMsg where
  core : Nat
  ctx : Nat
  seq : Nat
  qpos : Nat
  gen : BitVec 32
  scope : Nat
  dest : Nat
  launch : Option (Nat × Nat)
  msg : InMsg
  deriving DecidableEq, Repr

/-! ### Mesh, links, host side -/

/-- The access that a packet carries: a window of a context, a store-queue entry with its context, the fetch of a context, or the group
instruction or WAIT that a context tries, by its place in the thread's order. -/
inductive Own where
  | window (core ctx seq : Nat)
  | store (core ctx id : Nat)
  | fetch (core ctx : Nat)
  | group (core ctx seq : Nat)
  deriving DecidableEq, Repr

/-- A packet in the mesh (15 R211, R213, R216): the node its head is in, the head flit's fields, `left` the turn entries not used up, `fresh`
before it enters the mesh, its data flits with the poison marks of their words (LEN is their number; VC follows from KIND), the order
`ord` in which heads came to their buffers, the buffers that its flits stand in with how many, the head's first, the flits not yet in the
mesh, and the access it carries. -/
structure Packet where
  node : BitVec 12
  dir : BitVec 2
  rem : BitVec 4
  turns : BitVec 112
  skip : Bool
  left : Nat
  fresh : Bool
  kind : BitVec 5
  src : BitVec 12
  dst : BitVec 12
  txn : BitVec 16
  attr : BitVec 24
  addr : Word
  data : List (BitVec 256 × BitVec 4)
  ord : Nat
  chain : List (Nat × Nat)
  rest : Nat
  own : Option Own
  deriving DecidableEq, Repr

/-- The payload of a kind-11 packet that its destination holds until the message with the same SRC and TXN arrives (15 R212). -/
structure Payload where
  dst : BitVec 12
  src : BitVec 12
  txn : BitVec 16
  data : List (BitVec 256 × BitVec 4)
  deriving DecidableEq, Repr

/-- An output's arbiter (15 R216): whether it served the reply channel last, and the input it served last in each channel. -/
structure Arb where
  reply : Bool
  reqIn : Nat
  repIn : Nat
  deriving DecidableEq, Repr

/-- An arbiter that has served nothing: the request channel and input 0 come first. The spec gives an output no first channel or input after
reset (DESIGN CHOICE, log 85). -/
def Arb.reset : Arb :=
  ⟨true, 15, 15⟩

/-- A turn-table entry (15 R213, 28 R362). -/
structure TurnEntry where
  valid : Bool
  dir : BitVec 2
  turns : BitVec 112
  deriving DecidableEq, Repr

/-- An access of another package to this one that its agent performs (08 R88), or one for a third package that it forwards (28 R368):
its number, what it asks for, and, once translated here, the access. -/
structure PodReq where
  id : Nat
  kind : PodKind
  va : Word
  size : Nat
  aop : BitVec 3
  data : BitVec 512
  cmp : BitVec 512
  acc : Option Acc
  port : Nat
  deriving DecidableEq, Repr

/-- An Etgus port (28 R370): sequence numbers, replay buffer with the place of the next resend, credits held and credits to return, and
the state of retry and training; `received` holds the slots delivered in order, each with its channel and poison marks, `wire` the flits it
has sent, oldest first. -/
structure Etgus where
  expect : BitVec 12
  next : BitVec 12
  acked : BitVec 12
  replay : List EtgusFlit
  sendPtr : Nat
  retrySent : Bool
  resends : Nat
  trainFails : Nat
  training : Bool
  down : Bool
  lastValid : Nat
  credReq : Nat
  credRep : Nat
  owedReq : Nat
  owedRep : Nat
  received : List (Bool × BitVec 256 × BitVec 4)
  wire : List EtgusFlit
  deriving DecidableEq, Repr

/-- A port at reset: sequence numbers 0, 64 credits each way (28 R370, log 14). -/
def Etgus.reset : Etgus where
  expect := 0
  next := 0
  acked := 0xFFF
  replay := []
  sendPtr := 0
  retrySent := false
  resends := 0
  trainFails := 0
  training := false
  down := false
  lastValid := 0
  credReq := 64
  credRep := 64
  owedReq := 0
  owedRep := 0
  received := []
  wire := []

/-- A page request (08 R109, 28 R365). -/
structure PageReq where
  va : Word
  lid : BitVec 32
  gen : BitVec 32
  space : BitVec 12
  kind : Nat
  id : BitVec 15
  deriving DecidableEq, Repr

/-- A log entry (28 R367). -/
structure LogEnt where
  addr : Word
  clock : Word
  lid : BitVec 32
  coord : BitVec 17
  ctx : BitVec 7
  kind : BitVec 16
  deriving DecidableEq, Repr

/-- A log ring with its indices (28 R362, R367). -/
structure Log where
  ents : Map LogEnt
  head : BitVec 9
  tail : BitVec 9
  drop : BitVec 32
  deriving DecidableEq, Repr

/-- Which key set and version DRAM data was last written under (26 R348 to R350, R377). -/
structure BlkMeta where
  keyGen : Nat
  ver : BitVec 32
  deriving DecidableEq, Repr

/-- The key set an index holds (26 R348): 0 for none; a loaded set is 2 KEYDAT + 2; the set that the HBM dies generate at the n-th reset
is 2 n + 1, equal to no loaded one (log 10). -/
abbrev KeyGen := Nat

/-- What of a key set ciphers: a loaded set's data and tweak keys, the low 256 bits of KEYDAT; its integrity key, the rest, only tags (26
R348, R349; log 10). -/
def cipherKey (g : KeyGen) : Nat :=
  if g ≠ 0 ∧ g % 2 = 0 then 2 * ((g - 2) / 2 % 2 ^ 256) + 2 else g

/-- The key set generated at a reset. -/
def genKey (resets : Nat) : KeyGen := 2 * resets + 1

/-- Registers and units of the package outside the cores, controllers and engines. `msix` lists the vectors sent, oldest first, `bar4Data`
the bytes of the last BAR4 read with none for a poisoned byte, `podAnswer` the agent's last answer to another package, `podHeld` the accesses of other packages that wait, `podOut` those forwarded,
`podPorts` by which ports the pod lets a package be reached, `podCounts` the active instances of each level in the other packages,
`vbDone` the HBM dies whose copy of the version table already holds a bumped version. -/
structure Pkg where
  stepping : BitVec 8
  fwVersion : BitVec 32
  bootst : BitVec 4
  bootFail : BitVec 8
  activeSlices : Nat
  retired : List Nat
  retiredCh : List Nat
  order : List Nat
  tagsOn : Bool
  usable : Nat
  usableCh : Map Nat
  agentTlb : List TlbEntry
  iglim : BitVec 32
  islim : BitVec 31
  layLock : Bool
  scopeBoot : Bool
  prbase : Word
  prprod : BitVec 16
  prcons : BitVec 16
  prUsed : Nat
  prmsi : BitVec 12
  ansdisc : BitVec 32
  keyIdx : BitVec 6
  keyDat : BitVec 384
  keyBusy : Option (Nat × BitVec 384)
  keys : Map KeyGen
  vbBusy : Bool
  vbLast : BitVec 16
  vbDone : List Nat
  versions : Map (BitVec 32)
  scrub : BitVec 32
  scrubHold : Map (Nat × Nat)
  gcap : BitVec 64
  lastGrant : Map Nat
  lastRevoke : Map Nat
  overRun : Nat
  underRun : Nat
  currentThrottle : Bool
  thermalThrottle : Bool
  temperature : BitVec 8
  amps : BitVec 16
  tripped : Bool
  pkgnum : BitVec 6
  podmap : Word
  podspace : BitVec 12
  route : BitVec 512
  ttsel : BitVec 28
  tt : Map TurnEntry
  ttBoot : Bool
  wtab : Map (BitVec 22)
  linkUp : Bool
  hostAtomics : Bool
  bar4Miss : Nat
  bar4Data : List (Option Byte)
  msix : List (BitVec 11)
  msixTab : Map Word
  msixPend : Map Bool
  flash : FwImage
  fusedMin : Nat
  measured : List (BitVec 256)
  quote : Option (List (BitVec 256) × BitVec 256 × BitVec 512)
  podReplies : List Reply
  podAnswer : Reply
  podHeld : List PodReq
  podOut : List PodReq
  podNext : Nat
  podPorts : List (Nat × Nat)
  podCounts : List Nat
  resets : Nat
  wireDue : List (Nat × Nat × Nat × Nat)
  deriving DecidableEq, Repr

/-- The firmware image the part left the factory with: signed, of version 0 (log 12). -/
def FwImage.factory : FwImage := ⟨0, 0, 0, true⟩

/-- The package right after reset: the values of 28 R358, R362 and 26 R352; BOOTST 0; key index 0 is generated (26 R348);
what firmware writes at boot is not yet there (log 10 to 14). -/
def Pkg.reset : Pkg where
  stepping := 0
  fwVersion := 0
  bootst := 0
  bootFail := 0
  activeSlices := 0
  retired := []
  retiredCh := []
  order := []
  tagsOn := false
  usable := 2 ^ 28
  usableCh := []
  agentTlb := []
  iglim := 0
  islim := 0
  layLock := false
  scopeBoot := false
  prbase := 0
  prprod := 0
  prcons := 0
  prUsed := 0
  prmsi := 0
  ansdisc := 0
  keyIdx := 0
  keyDat := 0
  keyBusy := none
  keys := [(0, genKey 0)]
  vbBusy := false
  vbLast := 0
  vbDone := []
  versions := []
  scrub := 86400
  scrubHold := []
  gcap := 0x4040404040404040
  lastGrant := []
  lastRevoke := []
  overRun := 0
  underRun := 0
  currentThrottle := false
  thermalThrottle := false
  temperature := 0
  amps := 0
  tripped := false
  pkgnum := 0
  podmap := 0
  podspace := 0
  route := 0
  ttsel := 0
  tt := []
  ttBoot := false
  wtab := []
  linkUp := true
  hostAtomics := true
  bar4Miss := 0
  bar4Data := []
  msix := []
  msixTab := []
  msixPend := []
  flash := FwImage.factory
  fusedMin := 0
  measured := []
  quote := none
  podReplies := []
  podAnswer := .none
  podHeld := []
  podOut := []
  podNext := 0
  podPorts := []
  podCounts := []
  resets := 0
  wireDue := []

/-! ### The whole machine -/

/-- An access that may fall between two words of a CQ instruction or VVIS (20 R277): a store of a thread is written, a load of another
thread is performed, a copy channel moves a unit, a bank engine runs a word, or one of its transfers moves a part. -/
inductive Between where
  | store (core id : Nat)
  | load (core ctx seq : Nat)
  | copy (core chan : Nat)
  | bank (ch : Nat)
  | part (ch id k : Nat)
  deriving DecidableEq, Repr

/-- What moves next (log 1): a lane group issues (02 R30), with or without accesses of others between the words of its CQ instruction (20 R277), a store leaves its lane group's store queue for its home (log 73), a bank
engine runs its next word or one of its transfers moves a line or word (26 R340), a step of the opcode table happens, cycles pass, a core starts a queued message (21 R282), a core's instruction cache loses a word (08 R97), the pod agent's firmware gives
it a translation (08 R88), the host stores to its own memory (04 R56), one element
of a vector load is performed ahead of the others (04 R46), another package answers a copy engine or load pipe, reports a poisoned word or refuses a store or a wait, a word of another
package's scratch wakes a thread that waits on it (02 R32, 14 R197), data of a memory fails correction (13 R184), an access's
request, its home's reply or another message enters the mesh (15 R213), the agent performs an access of another package that waited or passes on the answer to
one it forwarded (28 R368), an HBM die raises its copy of a version (26 R350), or an Etgus port sends a flit or hands delivered slots to the agent (28 R370). -/
inductive Turn where
  | issue (core lg : Nat)
  | issueMixed (core lg : Nat) (acts : List (Nat × Between))
  | leave (core id : Nat)
  | engine (ch : Nat)
  | xfer (ch id k : Nat)
  | event (i : Instr)
  | cycles (n : Nat)
  | inbox (core : Nat)
  | icacheDrop (core loc : Nat)
  | agentEntry (te0 te1 : Word)
  | hostStore (addr : Word) (data : List Byte)
  | element (core ctx seq k : Nat) (reply : Reply)
  | podReply (reply : Reply)
  | podWake (core ctx : Nat) (v : Option Word)
  | podPoison (core id : Nat)
  | podFault (core id : Nat)
  | podFail (core ctx : Nat)
  | dataError (loc : Nat)
  | inject (own : Own) (k : Nat) (txn : BitVec 16)
  | reply (own : Own) (k : Nat) (txn : BitVec 16)
  | message (src dst : BitVec 12) (kind : BitVec 5) (txn : BitVec 16) (attr : BitVec 24) (addr : Word) (data : List (BitVec 256 × BitVec 4))
  | podRetry (id : Nat)
  | podRelay (id : Nat) (reply : Reply)
  | bumpDie (die : Nat)
  | etgusSend (port : Nat) (slots : List (Bool × BitVec 256 × BitVec 4))
  | etgusTake (port n : Nat)
  deriving DecidableEq, Repr

/-- What the present turn runs (log 3): the executing core and context, the word fetched, or the engine's channel; `mixed` what falls between
the words of a CQ instruction, each before the word of its number, and `unit` the number of its next word (log 45). -/
structure Cur where
  core : Nat
  ctx : Nat
  word : BitVec 32
  ch : Nat
  mixed : List (Nat × Between)
  unit : Nat
  deriving DecidableEq, Repr

/-- The machine. `mem` holds DRAM, scratch and host memory by location number; `free` counts the free values taken. -/
structure State where
  mem : List Host.Cell
  poison : Map Bool
  blk : Map BlkMeta
  lineMeta : Map BlkMeta
  lines : Map Line
  clock : Word
  cores : Map Core
  ctl : Map Ctl
  launches : List Launch
  starts : List StartMsg
  outs : List OutMsg
  engines : Map Engine
  bankCmds : List BankCmd
  reqs : List PageReq
  heldReqs : List PageReq
  errLog : Log
  dbgLog : Log
  packets : List Packet
  payloads : List Payload
  arbs : Map Arb
  etgus : Map Etgus
  pkg : Pkg
  tape : List Turn
  cur : Cur
  free : Nat
  arrivals : Nat
  deriving DecidableEq, Repr

/-- Why the machine of this model stops. A trap of the machine is a next state, so only the model's own limits stand here. -/
inductive Fault where
  /-- Raised by `turnStops` for every turn but RESET once the package has tripped on heat: its cores are stopped and its state is lost
  (28 R372), so the spec gives no next state: safe. -/
  | stateLost
  deriving DecidableEq, Repr

/-- Why an instruction has no meaning. -/
inductive Refusal where
  /-- Raised by a dispatch arm that has no meaning yet: safe. -/
  | notModelled (mnemonic : String)
  deriving DecidableEq, Repr

/-- An empty log. -/
def Log.reset : Log where
  ents := []
  head := 0
  tail := 0
  drop := 0

/-- The machine right after reset: memory lists nothing, no core, queue or engine holds anything, the clock is 0. -/
def State.reset : State where
  mem := []
  poison := []
  blk := []
  lineMeta := []
  lines := []
  clock := 0
  cores := []
  ctl := []
  launches := []
  starts := []
  outs := []
  engines := []
  bankCmds := []
  reqs := []
  heldReqs := []
  errLog := Log.reset
  dbgLog := Log.reset
  packets := []
  payloads := []
  arbs := []
  etgus := []
  pkg := Pkg.reset
  tape := []
  cur := ⟨0, 0, 0, 0, [], 0⟩
  free := 0
  arrivals := 0

end Sys2Proof.Machine
end

