-- ==== Sys2Proof/Machine/Maps.lean ====
section
/-! DEFINITION. Sparse tables: reading, writing and the canonical form. -/

namespace Sys2Proof.Machine

/-- What a table holds at a key; `d` where nothing is listed. -/
def mget {α : Type} (d : α) (m : Map α) (q : Nat) : α :=
  match m with
  | [] => d
  | (k, v) :: t => if q = k then v else mget d t q

/-- The entry listed at a key, if any. -/
def mfind {α : Type} (m : Map α) (q : Nat) : Option α :=
  match m with
  | [] => none
  | (k, v) :: t => if q = k then some v else mfind t q

/-- List a value at a key, in its place. -/
def mput {α : Type} (m : Map α) (q : Nat) (v : α) : Map α :=
  match m with
  | [] => [(q, v)]
  | (k, u) :: t => if q < k then (q, v) :: (k, u) :: t else if q = k then (q, v) :: t else (k, u) :: mput t q v

/-- Drop a key. -/
def mdel {α : Type} (m : Map α) (q : Nat) : Map α :=
  m.filter fun e => decide (e.1 ≠ q)

/-- Write a key: a value equal to the unlisted one drops the entry, so that equal tables are equal data. -/
def mset {α : Type} [DecidableEq α] (d : α) (m : Map α) (q : Nat) (v : α) : Map α :=
  if v = d then mdel m q else mput m q v

/-- Change one entry. -/
def mmod {α : Type} [DecidableEq α] (d : α) (m : Map α) (q : Nat) (f : α → α) : Map α :=
  mset d m q (f (mget d m q))

/-- Write a list of consecutive entries. -/
def msetList {α : Type} [DecidableEq α] (d : α) (m : Map α) (q : Nat) (vs : List α) : Map α :=
  match vs with
  | [] => m
  | v :: t => msetList d (mset d m q v) (q + 1) t

/-- Keys strictly rise. -/
def msorted {α : Type} (m : Map α) : Bool :=
  match m with
  | [] => true
  | (k, _) :: t => t.all (fun e => decide (k < e.1)) && msorted t

/-- The canonical form: keys strictly rise and no entry equals the unlisted value. -/
def mwf {α : Type} [DecidableEq α] (d : α) (m : Map α) : Bool :=
  msorted m && m.all fun e => decide (e.2 ≠ d)

/-- The canonical form of memory: addresses strictly rise, no byte listed that an unlisted address reads as (log 9). -/
def Memory.wf (m : List Host.Cell) : Bool :=
  mwf (0 : Byte) m

/-- The element at an index, if any. -/
def nth {α : Type} (l : List α) (i : Nat) : Option α :=
  l[i]?

/-- Replace the element at an index. -/
def setNth {α : Type} (l : List α) (i : Nat) (v : α) : List α :=
  l.set i v

/-- Drop the element at an index. -/
def dropNth {α : Type} (l : List α) (i : Nat) : List α :=
  l.eraseIdx i

end Sys2Proof.Machine
end

