-- ==== Sys2Proof/Machine/Num.lean ====
section
/-! DEFINITION. Number formats and arithmetic (06): decoding, exact values, one rounding, conversion and the K-group rule. -/

namespace Sys2Proof.Machine

/-- The five IEEE flags, NV DZ OF UF NX from bit 4 to bit 0 (06 R79). -/
abbrev Flags5 := BitVec 5

def flNV : Flags5 := 0x10
def flDZ : Flags5 := 0x08
def flOF : Flags5 := 0x04
def flUF : Flags5 := 0x02
def flNX : Flags5 := 0x01

/-- The rounding modes by their rmode value (06 R72). -/
inductive Mode where
  | rne
  | rtz
  | rdn
  | rup
  | rna
  deriving DecidableEq, Repr

/-- The mode an rmode value names; 5 to 7 are never held (06 R72). -/
def modeOf (r : BitVec 3) : Mode :=
  match r.toNat with
  | 0 => .rne
  | 1 => .rtz
  | 2 => .rdn
  | 3 => .rup
  | _ => .rna

/-- The governing mode: the RM code of the prefix, or the thread's rmode for code 0 (06 R72, R73). -/
def modeRM (rm rmode : BitVec 3) : Mode :=
  if rm = 0 then modeOf rmode else modeOf (rm - 1)

/-- A floating-point format (06 R63). `inf` is false for E4M3, which has no infinity and one NaN pattern. -/
structure FFmt where
  eb : Nat
  fb : Nat
  bias : Nat
  inf : Bool
  deriving DecidableEq, Repr

def fp32 : FFmt := ⟨8, 23, 127, true⟩
def bf16 : FFmt := ⟨8, 7, 127, true⟩
def fp16 : FFmt := ⟨5, 10, 15, true⟩
def e5m2 : FFmt := ⟨5, 2, 15, true⟩
def e4m3 : FFmt := ⟨4, 3, 7, false⟩

/-- The canonical NaN, sign 0 (06 R63, R64). -/
def FFmt.nan (f : FFmt) : Nat :=
  if f.inf then (2 ^ f.eb - 1) * 2 ^ f.fb + 2 ^ (f.fb - 1) else 2 ^ (f.eb + f.fb) - 1

/-- The bit of the sign. -/
def FFmt.sign (f : FFmt) (neg : Bool) : Nat :=
  if neg then 2 ^ (f.eb + f.fb) else 0

/-- The pattern of an infinity. -/
def FFmt.infBits (f : FFmt) (neg : Bool) : Nat :=
  f.sign neg + (2 ^ f.eb - 1) * 2 ^ f.fb

/-- The pattern of the largest finite value (06 R63). -/
def FFmt.maxBits (f : FFmt) (neg : Bool) : Nat :=
  f.sign neg + (if f.inf then (2 ^ f.eb - 1) * 2 ^ f.fb - 1 else 2 ^ (f.eb + f.fb) - 2)

/-- The largest finite magnitude as m * 2^e. -/
def FFmt.maxMag (f : FFmt) : Nat × Int :=
  if f.inf then (2 ^ (f.fb + 1) - 1, ((2 ^ f.eb - 2 : Nat) : Int) - f.bias - f.fb)
  else (2 ^ (f.fb + 1) - 2, ((2 ^ f.eb - 1 : Nat) : Int) - f.bias - f.fb)

/-- A decoded value: a NaN (signalling or not), an infinity, or (-1)^neg * m * 2^e, whose zero keeps its sign. -/
inductive FVal where
  | nan (signalling : Bool)
  | inf (neg : Bool)
  | fin (neg : Bool) (m : Nat) (e : Int)
  deriving DecidableEq, Repr

/-- Decode a pattern (06 R63, R64). -/
def FFmt.decode (f : FFmt) (bits : Nat) : FVal :=
  let neg := decide (bits / 2 ^ (f.eb + f.fb) % 2 = 1)
  let e := bits / 2 ^ f.fb % 2 ^ f.eb
  let m := bits % 2 ^ f.fb
  if e = 2 ^ f.eb - 1 ∧ f.inf then
    if m = 0 then .inf neg else .nan (decide (m / 2 ^ (f.fb - 1) = 0))
  else if e = 2 ^ f.eb - 1 ∧ m = 2 ^ f.fb - 1 ∧ ¬ f.inf then .nan false
  else if e = 0 then .fin neg m (1 - (f.bias : Int) - f.fb)
  else .fin neg (2 ^ f.fb + m) ((e : Int) - f.bias - f.fb)

/-- Round m * 2^(-sh) to an integer in a mode; also whether it was inexact. A shift below zero is exact. -/
def roundShift (md : Mode) (neg : Bool) (m : Nat) (sh : Int) : Nat × Bool :=
  if sh ≤ 0 then (m * 2 ^ (-sh).toNat, false)
  else
    let k := sh.toNat
    let q := m / 2 ^ k
    let r := m % 2 ^ k
    let half := 2 ^ (k - 1)
    let up : Bool := match md with
      | .rne => decide (half < r ∨ (r = half ∧ q % 2 = 1))
      | .rtz => false
      | .rdn => neg && decide (r ≠ 0)
      | .rup => !neg && decide (r ≠ 0)
      | .rna => decide (half ≤ r)
    (if up then q + 1 else q, decide (r ≠ 0))

/-- Compare a * 2^ea < b * 2^eb. -/
def magLt (a : Nat) (ea : Int) (b : Nat) (eb : Int) : Bool :=
  if ea ≤ eb then decide (a < b * 2 ^ (eb - ea).toNat) else decide (a * 2 ^ (ea - eb).toNat < b)

/-- The overflow result of a mode (06 R65): an infinity, or the canonical NaN where the format has none, or the largest finite. -/
def FFmt.overflow (f : FFmt) (md : Mode) (sat neg : Bool) : Nat :=
  let toMax : Bool := sat || (match md with
    | .rne | .rna => false
    | .rtz => true
    | .rdn => !neg
    | .rup => neg)
  if toMax then f.maxBits neg else if f.inf then f.infBits neg else f.nan

/-- Round a finite magnitude m * 2^e, m not 0, to a format: one rounding, overflow decided on the rounded value with unbounded
exponent, tininess after rounding (06 R64, R65). -/
def FFmt.roundMag (f : FFmt) (md : Mode) (sat neg : Bool) (m : Nat) (e : Int) : Nat × Flags5 :=
  let top : Int := (Nat.log2 m : Int) + e
  let emin : Int := 1 - (f.bias : Int)
  let qu : Int := top - f.fb
  let free := roundShift md neg m (qu - e)
  let big := f.maxMag
  if magLt big.1 big.2 free.1 qu then (f.overflow md sat neg, flOF ||| flNX)
  else
    let qb : Int := (if top < emin then emin else top) - f.fb
    let r := roundShift md neg m (qb - e)
    let tiny := magLt free.1 qu 1 emin
    let bits := if r.1 < 2 ^ f.fb then r.1
      else ((qb + f.fb + f.bias).toNat) * 2 ^ f.fb + (r.1 - 2 ^ f.fb)
    (f.sign neg + bits, (if r.2 then flNX else 0) ||| (if r.2 && tiny then flUF else 0))

/-- Round a decoded value to a format; NaNs and infinities as results of arithmetic. -/
def FFmt.round (f : FFmt) (md : Mode) (sat : Bool) (v : FVal) : Nat × Flags5 :=
  match v with
  | .nan _ => (f.nan, 0)
  | .inf neg => (if f.inf then f.infBits neg else f.nan, 0)
  | .fin neg m e => if m = 0 then (f.sign neg, 0) else f.roundMag md sat neg m e

/-- A signalling NaN operand raises NV (06 R64). -/
def sigNV (v : FVal) : Flags5 :=
  match v with
  | .nan true => flNV
  | _ => 0

/-- Is it a NaN? -/
def FVal.isNan (v : FVal) : Bool :=
  match v with
  | .nan _ => true
  | _ => false

/-- The sign inverted; a NaN stays one. -/
def FVal.neg (v : FVal) : FVal :=
  match v with
  | .nan s => .nan s
  | .inf n => .inf (!n)
  | .fin n m e => .fin (!n) m e

/-- The exact product, with 0 * infinity invalid (06 R64). A quiet NaN stands for every NaN result. -/
def fmulX (a b : FVal) : FVal × Flags5 :=
  let sg := sigNV a ||| sigNV b
  match a, b with
  | .nan _, .inf _ | .inf _, .nan _ | .nan _, .fin _ _ _ | .fin _ _ _, .nan _ | .nan _, .nan _ => (.nan false, sg)
  | .inf n, .inf n' => (.inf (n ^^ n'), 0)
  | .inf n, .fin n' m _ | .fin n' m _, .inf n => if m = 0 then (.nan false, flNV) else (.inf (n ^^ n'), 0)
  | .fin n m e, .fin n' m' e' => (.fin (n ^^ n') (m * m') (e + e'), 0)

/-- The signed integer of a finite value at a common exponent `e0` not above its own. -/
def atExp (v : FVal) (e0 : Int) : Int :=
  match v with
  | .fin n m e => let k : Int := ((m * 2 ^ (e - e0).toNat : Nat) : Int); if n then -k else k
  | _ => 0

/-- The least exponent of the finite values of a list, starting from a bound. -/
def minExp (vs : List FVal) (e0 : Int) : Int :=
  vs.foldl (fun acc v => match v with
    | .fin _ _ e => if e < acc then e else acc
    | _ => acc) e0

/-- The exact sum of a list (06 R64): NaN and opposed infinities, infinities, and the sign of an exact zero, which is minus when every
addend is -0, or when the mode is RDN and the addends are not all +0. -/
def fsumX (md : Mode) (vs : List FVal) : FVal × Flags5 :=
  let sg := vs.foldl (fun acc v => acc ||| sigNV v) 0
  if vs.any FVal.isNan then (.nan false, sg)
  else if vs.any (· == .inf true) && vs.any (· == .inf false) then (.nan false, flNV)
  else if vs.any (· == .inf true) then (.inf true, 0)
  else if vs.any (· == .inf false) then (.inf false, 0)
  else
    let e0 := minExp vs 0
    let t := vs.foldl (fun acc v => acc + atExp v e0) 0
    if t = 0 then
      let zneg := fun v : FVal => match v with
        | .fin true 0 _ => true
        | _ => false
      let zpos := fun v : FVal => match v with
        | .fin false 0 _ => true
        | _ => false
      (.fin (vs.all zneg || (md == .rdn && !vs.all zpos)) 0 0, 0)
    else (.fin (decide (t < 0)) t.natAbs e0, 0)

/-- Round an exact result with its flags joined. -/
def rounded (f : FFmt) (md : Mode) (sat : Bool) (r : FVal × Flags5) : Nat × Flags5 :=
  let q := f.round md sat r.1
  (q.1, q.2 ||| r.2)

/-- a + b, a - b, a * b, a * b + d, d - a * b with one rounding (17 R232). -/
def fadd (f : FFmt) (md : Mode) (sat : Bool) (a b : Nat) : Nat × Flags5 :=
  rounded f md sat (fsumX md [f.decode a, f.decode b])

def fsub (f : FFmt) (md : Mode) (sat : Bool) (a b : Nat) : Nat × Flags5 :=
  rounded f md sat (fsumX md [f.decode a, (f.decode b).neg])

def fmul (f : FFmt) (md : Mode) (sat : Bool) (a b : Nat) : Nat × Flags5 :=
  rounded f md sat (fmulX (f.decode a) (f.decode b))

def fma (f : FFmt) (md : Mode) (sat : Bool) (a b d : Nat) : Nat × Flags5 :=
  let p := fmulX (f.decode a) (f.decode b)
  let s := fsumX md [p.1, f.decode d]
  rounded f md sat (s.1, s.2 ||| p.2)

def fms (f : FFmt) (md : Mode) (sat : Bool) (a b d : Nat) : Nat × Flags5 :=
  let p := fmulX (f.decode a) (f.decode b)
  let s := fsumX md [p.1.neg, f.decode d]
  rounded f md sat (s.1, s.2 ||| p.2)

/-- a / b, one rounding; the quotient carries a sticky bit below every bit a rounding looks at (17 R232, R233). -/
def fdiv (f : FFmt) (md : Mode) (sat : Bool) (a b : Nat) : Nat × Flags5 :=
  let x := f.decode a
  let y := f.decode b
  let sg := sigNV x ||| sigNV y
  match x, y with
  | .nan _, _ | _, .nan _ => (f.nan, sg)
  | .inf _, .inf _ => (f.nan, flNV)
  | .inf n, .fin n' _ _ => (f.infBits (n ^^ n'), 0)
  | .fin n _ _, .inf n' => (f.sign (n ^^ n'), 0)
  | .fin n m e, .fin n' m' e' =>
    if m' = 0 then if m = 0 then (f.nan, flNV) else (f.infBits (n ^^ n'), flDZ)
    else if m = 0 then (f.sign (n ^^ n'), 0)
    else
      let k := 2 * f.fb + 8
      let q := m * 2 ^ k / m'
      let st := if m * 2 ^ k % m' = 0 then 0 else 1
      f.roundMag md sat (n ^^ n') (2 * q + st) (e - e' - k - 1)

/-- The integer square root by bits from `i` down: the largest r with r * r not above n. -/
def isqrtFrom (n : Nat) (i r : Nat) : Nat :=
  match i with
  | 0 => r
  | i + 1 => let c := r + 2 ^ i; isqrtFrom n i (if c * c ≤ n then c else r)

/-- The integer square root. -/
def isqrt (n : Nat) : Nat :=
  isqrtFrom n (Nat.log2 n / 2 + 1) 0

/-- The square root, one rounding (17 R232, R233). -/
def fsqrt (f : FFmt) (md : Mode) (sat : Bool) (a : Nat) : Nat × Flags5 :=
  match f.decode a with
  | .nan s => (f.nan, sigNV (.nan s))
  | .inf true => (f.nan, flNV)
  | .inf false => (f.infBits false, 0)
  | .fin n m e =>
    if m = 0 then (f.sign n, 0)
    else if n then (f.nan, flNV)
    else
      let odd : Bool := decide (e % 2 ≠ 0)
      let m1 := if odd then 2 * m else m
      let e1 := if odd then e - 1 else e
      let k := 2 * f.fb + 8
      let big := m1 * 2 ^ (2 * k)
      let r := isqrt big
      let st := if r * r = big then 0 else 1
      f.roundMag md sat false (2 * r + st) (e1 / 2 - k - 1)

/-- a < b of two numbers, with -0 not below +0 (17 R232). -/
def fltX (a b : FVal) : Bool :=
  match a, b with
  | .inf true, .inf false => true
  | .inf true, .fin _ _ _ => true
  | .fin _ _ _, .inf false => true
  | .fin n m e, .fin n' m' e' =>
    let e0 := if e < e' then e else e'
    decide (atExp (.fin n m e) e0 < atExp (.fin n' m' e') e0)
  | _, _ => false

/-- a = b of two numbers; +0 equals -0. -/
def feqX (a b : FVal) : Bool :=
  !a.isNan && !b.isNan && !fltX a b && !fltX b a

/-- VFMIN and VFMAX (17 R233): -0 below +0, one NaN gives the other operand, two give the canonical NaN. -/
def fminmax (f : FFmt) (mx : Bool) (a b : Nat) : Nat × Flags5 :=
  let x := f.decode a
  let y := f.decode b
  let sg := sigNV x ||| sigNV y
  if x.isNan && y.isNan then (f.nan, sg)
  else if x.isNan then (b, sg)
  else if y.isNan then (a, sg)
  else
    let lt : Bool := if feqX x y then decide (f.sign true ≤ a ∧ b < f.sign true) else fltX x y
    (if lt ^^ mx then a else b, sg)

/-- VFCMP's conditions, by the last three bits of FN: eq ne lt le un (17 R232, R233). -/
def fcmp (f : FFmt) (cc : Nat) (a b : Nat) : Bool × Flags5 :=
  let x := f.decode a
  let y := f.decode b
  let un := x.isNan || y.isNan
  let sg := sigNV x ||| sigNV y
  match cc with
  | 0 => (feqX x y, sg)
  | 1 => (!feqX x y, sg)
  | 2 => (fltX x y, if un then flNV else 0)
  | 3 => (fltX x y || feqX x y, if un then flNV else 0)
  | _ => (un, sg)

/-! ### DS8 and SS4 (06 R66 to R69) -/

/-- t(s, e) in units of 2^-6 (06 R66, R69). -/
def dsTerm (s e : Nat) : Int :=
  if e = 7 then 0 else if s = 1 then -((2 ^ (6 - e) : Nat) : Int) else ((2 ^ (6 - e) : Nat) : Int)

/-- A DS8 byte in units of 2^-6 (06 R66). -/
def ds8Val (b : Nat) : Int :=
  dsTerm (b / 128 % 2) (b / 16 % 8) + dsTerm (b / 8 % 2) (b % 8)

/-- An SS4 nibble in units of 2^-6 (06 R68). -/
def ss4Val (b : Nat) : Int :=
  dsTerm (b / 8 % 2) (b % 8)

/-- The fields (s, e) of one term of value n, where n is one. -/
def termOf (n : Int) : Option (Nat × Nat) :=
  let k := n.natAbs
  let i := Nat.log2 k
  if k = 2 ^ i ∧ i ≤ 6 ∧ k ≠ 0 then some (if n < 0 then 1 else 0, 6 - i) else none

/-- The canonical DS8 byte of a value, where it is one (06 R67): fewest terms, then the smallest E1, zero terms as 0x7 last. -/
def ds8Enc (n : Int) : Option Nat :=
  if n = 0 then some 0x77
  else match termOf n with
    | some (s, e) => some (s * 128 + e * 16 + 7)
    | none => (List.range 14).findSome? fun i =>
        let s := i % 2
        let e := i / 2
        match termOf (n - dsTerm s e) with
        | some (s2, e2) => some (s * 128 + e * 16 + s2 * 8 + e2)
        | none => none

/-- The canonical SS4 nibble of a value (06 R68). -/
def ss4Enc (n : Int) : Option Nat :=
  if n = 0 then some 7 else (termOf n).map fun p => p.1 * 8 + p.2

/-- The magnitudes of the DS8 set in units of 2^-6, ascending (06 R66). -/
def ds8Mags : List Nat :=
  [0, 1, 2, 3, 4, 5, 6, 7, 8, 9, 10, 12, 14, 15, 16, 17, 18, 20, 24, 28, 30, 31, 32, 33, 34, 36, 40, 48, 56, 60, 62, 63, 64, 65, 66,
    68, 72, 80, 96, 128]

/-- The magnitudes of the SS4 set. -/
def ss4Mags : List Nat :=
  [0, 1, 2, 4, 8, 16, 32, 64]

/-- Round a finite magnitude to a set of magnitudes in units of 2^-6 (06 R67): a tie under RNE or RNA goes away from zero; beyond the
last, the last with OF and NX. -/
def roundSet (mags : List Nat) (md : Mode) (neg : Bool) (m : Nat) (e : Int) : Nat × Flags5 :=
  let top := mags.getLastD 0
  if magLt top (-6) m e then (top, flOF ||| flNX)
  else
    let lo := (mags.filter fun n => !magLt m e n (-6)).getLastD 0
    if !magLt lo (-6) m e then (lo, 0)
    else
      let hi := (mags.filter fun n => magLt m e n (-6)).headD top
      let up : Bool := match md with
        | .rne | .rna => !magLt m e (lo + hi) (-7)
        | .rtz => false
        | .rdn => neg
        | .rup => !neg
      (if up then hi else lo, flNX)

/-! ### Conversion (06 R65) -/

/-- What a format code names (06 R61). -/
inductive NumFmt where
  | int (w : Nat) (signed : Bool)
  | flt (f : FFmt)
  | ds8
  | ss4
  deriving DecidableEq, Repr

/-- The formats a conversion or an element may have (06 R61); codes 0, 13 and 15 name none here. -/
def fmtOf (c : Nat) : Option NumFmt :=
  match c with
  | 1 => some (.int 8 true)
  | 2 => some (.int 8 false)
  | 3 => some (.int 16 true)
  | 4 => some (.int 32 true)
  | 5 => some (.int 64 true)
  | 6 => some (.flt fp32)
  | 7 => some (.flt bf16)
  | 8 => some (.flt fp16)
  | 9 => some (.flt e4m3)
  | 10 => some (.flt e5m2)
  | 11 => some .ds8
  | 12 => some .ss4
  | 14 => some (.int 32 false)
  | _ => none

/-- An element's width in bits (17 R223); 32 for a code that names no format. -/
def fmtWidth (c : Nat) : Nat :=
  match fmtOf c with
  | some (.int w _) => w
  | some (.flt f) => 1 + f.eb + f.fb
  | some .ds8 => 8
  | some .ss4 => 4
  | none => 32

/-- A pattern read as a signed or unsigned integer. -/
def intOf (w : Nat) (signed : Bool) (bits : Nat) : Int :=
  if signed ∧ 2 ^ (w - 1) ≤ bits then (bits : Int) - 2 ^ w else bits

/-- The low w bits of an integer. -/
def intBits (w : Nat) (n : Int) : Nat :=
  (n % (2 ^ w : Nat)).toNat

/-- The range of an integer format (06 R62). -/
def intMin (w : Nat) (signed : Bool) : Int := if signed then -((2 ^ (w - 1) : Nat) : Int) else 0
def intMax (w : Nat) (signed : Bool) : Int := if signed then ((2 ^ (w - 1) : Nat) : Int) - 1 else ((2 ^ w : Nat) : Int) - 1

/-- Clamp to the range. -/
def intClamp (w : Nat) (signed : Bool) (n : Int) : Int :=
  if n < intMin w signed then intMin w signed else if intMax w signed < n then intMax w signed else n

/-- The width of an integer format, 0 for any other: an integer that leaves the range of a narrower one raises no flag (06 R65). -/
def intWidth (f : NumFmt) : Nat :=
  match f with
  | .int w _ => w
  | .flt _ | .ds8 | .ss4 => 0

/-- The value of a pattern, and whether it is an integer's. A zero of DS8 or SS4, to which the spec gives no sign, is +0 (DESIGN CHOICE,
log 91). -/
def srcVal (f : NumFmt) (bits : Nat) : FVal × Bool :=
  match f with
  | .int w s => let n := intOf w s bits; (.fin (decide (n < 0)) n.natAbs 0, true)
  | .flt g => (g.decode bits, false)
  | .ds8 => let n := ds8Val bits; (.fin (decide (n < 0)) n.natAbs (-6), false)
  | .ss4 => let n := ss4Val bits; (.fin (decide (n < 0)) n.natAbs (-6), false)

/-- Convert an exact value to an integer format; `src` is the width of an integer source, 0 for any other (06 R65). -/
def toInt (w : Nat) (signed : Bool) (md : Mode) (sat : Bool) (src : Nat) (v : FVal) : Nat × Flags5 :=
  match v with
  | .nan _ => (0, flNV)
  | .inf neg => (intBits w (if neg then intMin w signed else intMax w signed), flNV)
  | .fin neg m e =>
    let r := roundShift md neg m (-e)
    let n : Int := if neg then -(r.1 : Int) else r.1
    if intMin w signed ≤ n ∧ n ≤ intMax w signed then (intBits w n, if r.2 then flNX else 0)
    else (intBits w (if sat then intClamp w signed n else n), if w < src then 0 else flNV)

/-- Convert an exact value to a set of weights (06 R65, R67, R68). -/
def toSet (mags : List Nat) (enc : Int → Option Nat) (md : Mode) (v : FVal) : Nat × Flags5 :=
  match v with
  | .nan _ => ((enc 0).getD 0, flNV)
  | .inf neg => let t : Int := mags.getLastD 0; ((enc (if neg then -t else t)).getD 0, flNV)
  | .fin neg m e =>
    let r := roundSet mags md neg m e
    ((enc (if neg then -(r.1 : Int) else r.1)).getD 0, r.2)

/-- Convert an exact value to a float format; the infinities of a saturating or E4M3 destination (06 R65). -/
def toFlt (f : FFmt) (md : Mode) (sat : Bool) (v : FVal) : Nat × Flags5 :=
  match v with
  | .nan s => (f.nan, sigNV (.nan s))
  | .inf neg =>
    if f.inf then (if sat then f.maxBits neg else f.infBits neg, 0)
    else (if sat then f.maxBits neg else f.nan, flNV)
  | .fin neg m e => if m = 0 then (f.sign neg, 0) else f.roundMag md sat neg m e

/-- Convert an exact value to a format; `src` as for `toInt`. -/
def toFmt (d : NumFmt) (md : Mode) (sat : Bool) (src : Nat) (v : FVal) : Nat × Flags5 :=
  match d with
  | .int w s => toInt w s md sat src v
  | .flt f => toFlt f md sat v
  | .ds8 => toSet ds8Mags ds8Enc md v
  | .ss4 => toSet ss4Mags ss4Enc md v

/-- Convert a pattern from one format to another (06 R65). A conversion to the same format is exact but for its NaNs, SAT or not (17 R241). -/
def convert (s d : NumFmt) (md : Mode) (sat : Bool) (bits : Nat) : Nat × Flags5 :=
  toFmt d md (sat && decide (s ≠ d)) (intWidth s) (srcVal s bits).1

/-! ### Products and groups -/

/-- The exact integer product of an INT8 with a weight, 6 fraction bits for DS8 and SS4 (06 R69, R83). -/
def intProd (fw : NumFmt) (wbits : Nat) (x : Int) : Int :=
  match fw with
  | .ds8 => x * ds8Val wbits
  | .ss4 => x * ss4Val wbits
  | .int w s => x * intOf w s wbits
  | .flt _ => 0

/-- One K-group (06 R82): the accumulator and every product summed exactly, one rounding to FP32; a NaN operand or an invalid product
or sum gives the canonical NaN and NV. -/
def kGroup (md : Mode) (acc : Nat) (ps : List (FVal × FVal)) : Nat × Flags5 :=
  let a := fp32.decode acc
  let prods := ps.map fun p => fmulX p.1 p.2
  let nanIn := a.isNan || ps.any fun p => p.1.isNan || p.2.isNan
  let s := fsumX md (a :: prods.map (·.1))
  if nanIn || s.1.isNan then (fp32.nan, flNV)
  else fp32.round md false s.1

/-- Drain one element (06 R84): the value * 2^-f times the exact product of the scales, one rounding, then 06 R65. -/
def drain (isInt : Bool) (f : Nat) (acc : Nat) (scales : List Nat) (d : NumFmt) (md : Mode) (sat : Bool) : Nat × Flags5 :=
  let v : FVal := if isInt then
      let n := intOf 32 true acc; .fin (decide (n < 0)) n.natAbs (-(f : Int))
    else fp32.decode acc
  let p : FVal × Flags5 := match scales.map fp32.decode with
    | [] => (v, sigNV v)
    | a :: t =>
      let s := t.foldl (fun (r : FVal × Flags5) x => let q := fmulX r.1 x; (q.1, r.2 ||| q.2)) (a, 0)
      let q := fmulX v s.1
      (q.1, s.2 ||| q.2)
  let r := toFmt d md sat (if isInt && scales.isEmpty && f = 0 then 32 else 0) p.1
  (r.1, r.2 ||| p.2)

end Sys2Proof.Machine
end

