-- ==== Sys2Proof/Machine/Ops.lean ====
section
/-! DEFINITION. Named operations over the state: topology, registers, memory at its homes, the L1 and store queues, waiters, and
taking a trap and returning from one. -/

namespace Sys2Proof.Machine

/-- The outcome of an instruction or step. -/
abbrev Out := Host.Outcome State Fault Refusal

/-! ### Bytes -/

/-- Little-endian value of bytes (00 R3). -/
def joinBytes (bs : List Byte) : Nat :=
  match bs with
  | [] => 0
  | b :: t => b.toNat + 256 * joinBytes t

/-- The n low bytes of a value, lowest first. -/
def splitBytes (n w : Nat) : List Byte :=
  match n with
  | 0 => []
  | n + 1 => BitVec.ofNat 8 w :: splitBytes n (w / 256)

/-- Bits a down to b of a word as a number (00 R3). -/
def bits (w : Word) (b n : Nat) : Nat :=
  w.toNat / 2 ^ b % 2 ^ n

/-- A field sign-extended to 64 bits. -/
def sextNat (w : Nat) (n : Nat) : Word :=
  BitVec.ofInt 64 (if w / 2 ^ (n - 1) % 2 = 1 then (w : Int) - 2 ^ n else w)

/-- n bytes of a 512-bit value from byte `off`. -/
def vecGet (v : Vec) (off n : Nat) : Nat :=
  v.toNat / 2 ^ (8 * off) % 2 ^ (8 * n)

/-- Replace n bytes of a 512-bit value from byte `off`. -/
def vecPut (v : Vec) (off n w : Nat) : Vec :=
  (v &&& ~~~(BitVec.ofNat 512 (2 ^ (8 * n) - 1) <<< (8 * off))) ||| (BitVec.ofNat 512 (w % 2 ^ (8 * n)) <<< (8 * off))

/-! ### Topology (01 R7, 04 R39, R41) -/

def coreX (n : Nat) : Nat := n % 32
def coreY (n : Nat) : Nat := n / 32
def coreNo (x y : Nat) : Nat := y * 32 + x
def baseOf (n : Nat) : Nat := coreX n / 16
def chipletOf (n : Nat) : Nat := 4 * baseOf n + 2 * (coreY n / 8) + coreX n % 16 / 8
def groupOf (i : Nat) : Nat := i / 16

/-- A number from 512 up names the translation core of a chiplet, which runs firmware threads like a core's (14 R203, log 17). -/
def isTrans (n : Nat) : Bool := decide (512 ≤ n)

/-- The lowest enclosing scope of two places of one package (04 R41). -/
def scopeOf (n g n' g' : Nat) : Nat :=
  if baseOf n ≠ baseOf n' then 5
  else if chipletOf n ≠ chipletOf n' then 4
  else if coreX n % 2 ≠ coreX n' % 2 then 3
  else if n ≠ n' then 2
  else if g ≠ g' then 1
  else 0

/-! ### Locations (log 9) -/

def chanSize : Nat := 2 ^ 28
def scratchAt (n : Nat) : Nat := 2 ^ 40 + n * 2 ^ 20
def hostAt : Nat := 2 ^ 64
def remoteAt : Nat := 2 ^ 70

def isDram (loc : Nat) : Bool := decide (loc < 2 ^ 40)
def isScratch (loc : Nat) : Bool := decide (2 ^ 40 ≤ loc ∧ loc < 2 ^ 64)
def isHost (loc : Nat) : Bool := decide (2 ^ 64 ≤ loc ∧ loc < 2 ^ 70)
def isRemote (loc : Nat) : Bool := decide (2 ^ 70 ≤ loc)

/-- The core that owns a scratch location, and its offset. -/
def scratchCore (loc : Nat) : Nat := (loc - 2 ^ 40) / 2 ^ 20
def scratchOff (loc : Nat) : Nat := loc % 2 ^ 20

/-- The home slice of a DRAM location (08 R95): base and slice. 00 R2 lets slices be retired, for which R95's function has no case: the model
keeps it as it stands, all 32 slices of a base in use (DESIGN CHOICE, log 91). -/
def homeSlice (loc : Nat) : Nat × Nat :=
  let c := loc / chanSize
  let o := loc % chanSize
  let t := c / 160
  let p := c % 160
  let edge := if t % 6 < 3 then 0 else 1
  (t / 6, edge * 16 + ((p % 16) ^^^ (o / 2 ^ 8 % 16) ^^^ (o / 2 ^ 12 % 16)))

/-- The level a store of a core counts at: the lowest scope that encloses the core and the home, at least core (04 R40, R47). -/
def levelOf (n loc : Nat) : Nat :=
  if isDram loc then (if (homeSlice loc).1 = baseOf n then 4 else 5)
  else if isScratch loc then max 1 (scopeOf n 0 (scratchCore loc) 0)
  else if isHost loc then 7
  else 6

/-- Do two ranges of locations meet? -/
def meets (a n b m : Nat) : Bool :=
  decide (a < b + m ∧ b < a + n)

/-! ### Registers of a thread (02 R16): x0 reads zero and k0 reads all ones; writes to either are discarded. A write ends a register's
uncorrectable error (13 R184). -/

def Ctx.rx (t : Ctx) (n : BitVec 5) : Word :=
  if n = 0 then 0 else mget 0 t.x n.toNat

def Ctx.wx (t : Ctx) (n : BitVec 5) (v : Word) : Ctx :=
  if n = 0 then t else { t with x := mset 0 t.x n.toNat v, regErr := t.regErr.filter fun r => decide (r ≠ .x n) }

def Ctx.rv (t : Ctx) (n : BitVec 5) : Vec :=
  mget 0 t.v n.toNat

def Ctx.wv (t : Ctx) (n : BitVec 5) (v : Vec) : Ctx :=
  { t with v := mset 0 t.v n.toNat v, regErr := t.regErr.filter fun r => decide (r ≠ .v n) }

def Ctx.rk (t : Ctx) (n : BitVec 3) : Mask :=
  if n = 0 then 0xFFFF else mget 0 t.k n.toNat

def Ctx.wk (t : Ctx) (n : BitVec 3) (v : Mask) : Ctx :=
  if n = 0 then t else { t with k := mset 0 t.k n.toNat v, regErr := t.regErr.filter fun r => decide (r ≠ .k n) }

/-! ### Cores and contexts -/

def State.core (s : State) (n : Nat) : Core :=
  mget Core.reset s.cores n

def State.setCore (s : State) (n : Nat) (c : Core) : State :=
  { s with cores := mset Core.reset s.cores n c }

def Core.ctx (c : Core) (i : Nat) : Ctx :=
  mget Ctx.reset c.ctxs i

def Core.setCtx (c : Core) (i : Nat) (t : Ctx) : Core :=
  { c with ctxs := mset Ctx.reset c.ctxs i t }

def State.ctx (s : State) (n i : Nat) : Ctx :=
  (s.core n).ctx i

def State.setCtx (s : State) (n i : Nat) (t : Ctx) : State :=
  s.setCore n ((s.core n).setCtx i t)

/-- The executing context. -/
def State.me (s : State) : Ctx :=
  s.ctx s.cur.core s.cur.ctx

def State.putMe (s : State) (t : Ctx) : State :=
  s.setCtx s.cur.core s.cur.ctx t

/-- The executing core. -/
def State.myCore (s : State) : Core :=
  s.core s.cur.core

def State.putCore (s : State) (c : Core) : State :=
  s.setCore s.cur.core c

/-- A coordinate word (12 R174). -/
def State.coordOf (s : State) (n g : Nat) : Word :=
  BitVec.ofNat 64 (s.pkg.pkgnum.toNat * 2 ^ 11 + coreY n % 16 * 2 ^ 7 + coreX n * 4 + g % 4)

/-- Core number of a coordinate word's Y and X. -/
def coordCore (w : Word) : Nat :=
  coreNo (bits w 2 5) (bits w 7 4)

/-- Is a core active (01 R2)? -/
def State.active (s : State) (n : Nat) : Bool :=
  !s.pkg.retired.contains n

/-- A launch by its id. -/
def State.launchOf (s : State) (lid : BitVec 32) : Option Launch :=
  s.launches.find? fun l => l.lid == lid

/-- Change the live launch of an id. -/
def State.modLaunch (s : State) (lid : BitVec 32) (f : Launch → Launch) : State :=
  { s with launches := s.launches.map fun l => if l.lid = lid then f l else l }

/-- Is a launch held back from issue: halting, halted or ending (13 R185, 02 R36)? -/
def Phase.stops (p : Phase) : Bool :=
  match p with
  | .halting | .halted | .saved | .resuming | .ending _ => true
  | .queued | .distributing | .distributed => false

/-- Is a launch's issue stopped? A thread of no live launch is a firmware or test thread and issues. -/
def State.stopped (s : State) (lid : BitVec 32) : Bool :=
  match s.launchOf lid with
  | some l => l.phase.stops
  | none => false

/-- The contexts that hold threads of a launch: core and context. -/
def State.threadsOf (s : State) (lid : BitVec 32) : List (Nat × Nat) :=
  s.cores.flatMap fun c => c.2.ctxs.filterMap fun t =>
    if t.2.lid = lid ∧ t.2.run ≠ .idle then some (c.1, t.1) else none

/-! ### Moving past an instruction (11 R134) -/

/-- A window counts an instruction that issues unless it is held (11 R134, R137). -/
def tick (w : Window) : Window :=
  if w.held then w else { w with left := w.left - 1 }

/-- The instruction has issued: go on at `p`, the prefix used up, the windows counted, the stall count restarted, a YIELD's effect over
(11 R134, 06 R77, 13 R182, 14 R196). -/
def Ctx.retire (t : Ctx) (p : Word) : Ctx :=
  { t with pc := p, latchOn := false, run := .ready, stallAt := none, stallCnt := 0, yieldFor := none, todo := none,
           windows := t.windows.map tick }

/-- Go on at the next word. -/
def Ctx.next (t : Ctx) : Ctx :=
  t.retire (t.pc + 4)

/-- The executing thread goes on at the next word with its context changed. -/
def State.finish (s : State) (t : Ctx) : Out :=
  .next (s.putMe t.next)

/-- The instruction cannot issue yet: the context is stalled (02 R15), and the watchdog counts from the stall's first cycle (13 R182). -/
def State.stall (s : State) : State :=
  s.putMe { s.me with run := .stalled, stallAt := some (s.me.stallAt.getD s.clock.toNat) }

/-- A free value's number, and the count advanced. -/
def State.takeFree (s : State) : Nat × State :=
  (s.free, { s with free := s.free + 1 })

/-! ### Logs (28 R367) -/

/-- Append an entry; a full log keeps its entries and counts the drop. -/
def Log.push (l : Log) (e : LogEnt) : Log :=
  if (l.head - l.tail).toNat = 256 then { l with drop := l.drop + 1 }
  else { l with ents := mput l.ents (l.head.toNat % 256) e, head := l.head + 1 }

/-- Enter an event in the error log. -/
def State.logErr (s : State) (kind : Nat) (addr : Word) (lid : BitVec 32) (coord : Word) (ctx : Nat) : State :=
  { s with errLog := s.errLog.push ⟨addr, s.clock, lid, coord.setWidth 17, BitVec.ofNat 7 ctx, BitVec.ofNat 16 kind⟩ }

/-! ### Poison marks of memory outside slices (13 R184) -/

/-- Is any 8-byte word of a range marked? -/
def anyPoison (m : Map Bool) (loc n : Nat) : Bool :=
  (List.range ((loc + n - 1) / 8 - loc / 8 + 1)).any fun i => mget false m (loc / 8 + i)

/-- Set the marks of consecutive words. -/
def setPoison (m : Map Bool) (word : Nat) (n : Nat) (b : Bool) : Map Bool :=
  msetList false m word (List.replicate n b)

/-- Clear the marks of the words that a write covers whole. -/
def clearPoison (m : Map Bool) (loc n : Nat) : Map Bool :=
  let lo := (loc + 7) / 8
  let hi := (loc + n) / 8
  setPoison m lo (hi - lo) false

/-- Does a write leave part of a marked word in place? -/
def partPoison (m : Map Bool) (loc n : Nat) : Bool :=
  anyPoison (clearPoison m loc n) loc n

/-! ### DRAM, its keys and versions (26 R348 to R350) and the slices (08 R96) -/

/-- The HBM stack of a line. -/
def stackOf (ln : Nat) : Nat := ln * 64 / chanSize / 160

/-- A buffer's version in the table of a stack's HBM die: while a bump is in progress some dies hold the new one (26 R350). -/
def State.versionAt (s : State) (die buf : Nat) : BitVec 32 :=
  mget 0 s.pkg.versions buf + (if s.pkg.vbDone.contains die && decide (buf = s.pkg.vbLast.toNat) then 1 else 0)

/-- The key set and version that an access to a line under a key index and buffer id uses. -/
def State.metaOf (s : State) (ln key buf : Nat) : BlkMeta :=
  ⟨mget 0 s.pkg.keys key, s.versionAt (stackOf ln) buf⟩

/-- Raw bytes of memory. -/
def State.rawRead (s : State) (loc n : Nat) : Nat :=
  joinBytes ((List.range n).map fun i => mget 0 s.mem (loc + i))

/-- Raw bytes written. -/
def State.rawWrite (s : State) (loc n w : Nat) : State :=
  { s with mem := msetList 0 s.mem loc (splitBytes n w) }

/-- Poison a whole block whose tag fails, and log it (13 R184, 26 R349). -/
def State.failTag (s : State) (blk : Nat) : State :=
  { s with poison := setPoison s.poison (blk * 32) 32 true }.logErr 1 (BitVec.ofNat 64 (blk * 256)) 0 0 0

/-- Read a line from DRAM under a key index and buffer id: with tags on, a block written under another key or version is poisoned whole;
without a failed tag, a line written under another key or version reads as unrelated bytes (26 R349, R350). -/
def State.dramLine (s : State) (ln key buf : Nat) : Line × State :=
  let m := s.metaOf ln key buf
  let b := ln / 4
  let s1 := if s.pkg.tagsOn && (match mfind s.blk b with
    | none => false
    | some q => decide (q ≠ m)) then s.failTag b else s
  let pois : BitVec 8 := BitVec.ofNat 8 (joinBits ((List.range 8).map fun i => mget false s1.poison (ln * 8 + i)))
  let good : Bool := match mfind s.lineMeta ln with
    | none => true
    | some q => decide (q.ver = m.ver ∧ cipherKey q.keyGen = cipherKey m.keyGen)
  if good then (⟨BitVec.ofNat 512 (s1.rawRead (ln * 64) 64), pois, false, key, buf⟩, s1)
  else
    let f := s1.takeFree
    (⟨BitVec.ofNat 512 (joinBytes ((List.range 64).map fun i => Config.garbled (64 * f.1 + i))), pois, false, key, buf⟩, f.2)
where
  /-- Bits to a number, lowest first. -/
  joinBits (bs : List Bool) : Nat :=
    match bs with
    | [] => 0
    | b :: t => b.toNat + 2 * joinBits t

/-- A demand write reaches a block that its scrubber holds (26 R352). -/
def State.noteWrite (s : State) (blk : Nat) : State :=
  let ch := blk * 256 / chanSize
  match mfind s.pkg.scrubHold ch with
  | some (b, k) => if b = blk then { s with pkg := { s.pkg with scrubHold := mput s.pkg.scrubHold ch (b, k + 1) } } else s
  | none => s

/-- Write a line to DRAM under its key index and buffer id; every write sets the tag (26 R349). -/
def State.dramPut (s : State) (ln : Nat) (l : Line) : State :=
  let m := s.metaOf ln l.key l.buf
  ({ s.rawWrite (ln * 64) 64 l.data.toNat with
      poison := msetList false s.poison (ln * 8) ((List.range 8).map fun i => l.pois.getLsbD i),
      blk := mput s.blk (ln / 4) m,
      lineMeta := mput s.lineMeta ln m }).noteWrite (ln / 4)

/-- Write a dirty slice line back; an eviction drops it (08 R96). -/
def State.writeBack (s : State) (ln : Nat) (evict : Bool) : State :=
  match mfind s.lines ln with
  | none => s
  | some l =>
    let s1 := if l.dirty then s.dramPut ln l else s
    { s1 with lines := if evict then mdel s1.lines ln else mput s1.lines ln { l with dirty := false } }

/-- Is a location in a line that meets the write range of a running bank command, whose loads the slice serves without a line (04 R53)? -/
def State.bankWrites (s : State) (loc : Nat) : Bool :=
  match (mget Engine.reset s.engines (loc / chanSize)).run with
  | some r => (match r.cmd.wr with
    | some p => meets (loc / 64 * 64) 64 (p.ch * chanSize + p.off) p.rlen
    | none => false)
  | none => false

/-- The lines of a slice that share a set with a line: 16,384 sets of 16 ways make 16 MiB (01 R6, 08 R96; log 33). -/
def State.sliceSet (s : State) (ln : Nat) : Map Line :=
  s.lines.filter fun e => decide (homeSlice (e.1 * 64) = homeSlice (ln * 64) ∧ e.1 % 16384 = ln % 16384)

/-- Make room for a line: a full set evicts one of its lines, written back first (08 R96). The replacement policy is not specified;
which line leaves is the model's choice (log 33). -/
def State.sliceRoom (s : State) (ln : Nat) : State :=
  match s.sliceSet ln with
  | [] => s
  | e :: r => if r.length < 15 then s else s.writeBack e.1 true

/-- The slice's line, filled from DRAM and, where it is absent, allocated (08 R96). -/
def State.sliceLine (s : State) (ln key buf : Nat) (keep : Bool) : Line × State :=
  match mfind s.lines ln with
  | some l => (l, s)
  | none =>
    let r := (if keep then s.sliceRoom ln else s).dramLine ln key buf
    (r.1, if keep then { r.2 with lines := mput r.2.lines ln r.1 } else r.2)

/-- Read n bytes at their home, within one line: the value and whether a word of it is poisoned. -/
def State.homeRead (s : State) (a : Acc) (loc n : Nat) : (Nat × Bool) × State :=
  if isDram loc then
    let r := s.sliceLine (loc / 64) a.key a.buf (!s.bankWrites loc)
    let o := loc % 64
    ((vecGet r.1.data o n, (List.range 8).any fun i => r.1.pois.getLsbD i && meets (i * 8) 8 o n), r.2)
  else ((s.rawRead loc n, anyPoison s.poison loc n), s)

/-- Keep a written line: in the slice, or, in the write range of a running bank command, which the slice serves from DRAM without a
line, in DRAM (04 R53, 26 R346). -/
def State.keepLine (s : State) (ln : Nat) (l : Line) : State :=
  if s.bankWrites (ln * 64) && (mfind s.lines ln).isNone then s.dramPut ln { l with dirty := false }
  else { s with lines := mput s.lines ln l }

/-- Mark the aligned 8-byte word of a location as poisoned, in its slice line or in memory (13 R184). -/
def State.markPoison (s : State) (loc : Nat) : State :=
  match (if isDram loc then mfind s.lines (loc / 64) else none) with
  | some l => { s with lines := mput s.lines (loc / 64) { l with pois := l.pois ||| (1 <<< (loc / 8 % 8)) } }
  | none => { s with poison := mset false s.poison (loc / 8) true }

/-- Write n bytes at their home, within one line: whole words lose their poison; the flag says that part of a poisoned word was
written (13 R184). -/
def State.homeWrite (s : State) (a : Acc) (loc n w : Nat) : Bool × State :=
  if isDram loc then
    let r := s.sliceLine (loc / 64) a.key a.buf (!s.bankWrites loc)
    let o := loc % 64
    let whole : BitVec 8 := (List.range 8).foldl (fun m i => if decide (o ≤ i * 8 ∧ i * 8 + 8 ≤ o + n) then m ||| (1 <<< i) else m) 0
    let p := r.1.pois &&& ~~~whole
    let l : Line := { r.1 with data := vecPut r.1.data o n w, pois := p, dirty := true, key := a.key, buf := a.buf }
    ((List.range 8).any fun i => p.getLsbD i && meets (i * 8) 8 o n, r.2.keepLine (loc / 64) l)
  else
    let bad := partPoison s.poison loc n
    (bad, { s.rawWrite loc n w with poison := clearPoison s.poison loc n })

/-! ### The L1 data cache (08 R94): lines with the most recent first, 256 sets of 8 ways (log 5) -/

def l1Set (ln : Nat) : Nat := ln % 256

/-- Keep at most `k` lines of a set from the front. -/
def l1Trim (set k : Nat) (ls : List (Nat × Line)) : List (Nat × Line) :=
  match ls with
  | [] => []
  | e :: t => if l1Set e.1 = set then (match k with
      | 0 => l1Trim set 0 t
      | k + 1 => e :: l1Trim set k t) else e :: l1Trim set k t

/-- Put a line in front; the least recently used of its set leaves. -/
def l1Fill (ls : List (Nat × Line)) (ln : Nat) (l : Line) : List (Nat × Line) :=
  l1Trim (l1Set ln) 8 ((ln, l) :: ls.filter fun e => decide (e.1 ≠ ln))

/-- Drop the lines that meet a range of locations. -/
def l1Drop (ls : List (Nat × Line)) (loc n : Nat) : List (Nat × Line) :=
  ls.filter fun e => !meets (e.1 * 64) 64 loc n

/-- Invalidate every line of a core's L1 (04 R48). -/
def State.l1Clear (s : State) (n : Nat) : State :=
  s.setCore n { s.core n with l1 := [] }

/-! ### Orders within a thread (04 R45) -/

/-- Is a window's access a load that has not its value yet? LAUNCH loads its record (14 R194). -/
def Window.openLoad (w : Window) : Bool :=
  w.res.isNone && (match w.pend with
    | .load _ _ _ _ | .vec _ _ | .atomic _ _ _ _ _ _ | .group _ _ | .message true => true
    | .none | .message false | .bkstat _ _ _ => false)

/-- Is an access at a place in the order one of an instruction that issued past a result that may still fault (11 R139)? -/
def Ctx.unsure (t : Ctx) (seq : Nat) : Bool :=
  t.past.any fun p => decide (p.seq ≤ seq)

/-- Have all loads of the thread before a place their values, and does no result still to come undo the access there? -/
def Ctx.loadsDone (t : Ctx) (seq : Nat) : Bool :=
  (t.windows.all fun w => !(w.openLoad && decide (w.seq < seq))) && !t.unsure seq

/-- Has every result pending for the thread landed? -/
def Ctx.landed (t : Ctx) : Bool :=
  t.windows.all fun w => w.res.isSome

/-- Does a window still wait for an access that meets a range? An atomic counts until its result has dropped the L1 line (08 R94). -/
def Window.waits (w : Window) (loc n : Nat) : Bool :=
  w.res.isNone && (match w.pend with
    | .load a _ _ _ => meets a.loc a.size loc n
    | .vec els _ => els.any fun e => e.got.isNone && meets e.acc.loc e.acc.size loc n
    | .atomic a _ _ _ _ _ => meets a.loc a.size loc n
    | .group a _ => meets a.loc a.size loc n
    | .none | .message _ | .bkstat _ _ _ => false)

/-- Does an acquiring access of the thread still wait for its value (04 R48)? -/
def Ctx.acquiring (t : Ctx) : Bool :=
  t.windows.any fun w => w.res.isNone && (match w.pend with
    | .load _ _ (some _) _ => true
    | .atomic _ _ _ _ (some _) _ => true
    | _ => false)

/-- Is a store that is not written in its lane group's store queue? One sent to a home outside the core has left it, and a store to another
core's scratch retires at once (04 R47). One to the core's own scratch stays until it is written: its home is a bank that the lane group's
instance encloses (04 R40, log 67). -/
def StoreEnt.queued (e : StoreEnt) (n : Nat) : Bool :=
  if isScratch e.acc.loc then decide (scratchCore e.acc.loc = n) else !e.sent

/-- A store has left the pipeline once its thread's earlier loads have their values (04 R58). -/
def Core.entered (c : Core) (e : StoreEnt) : Bool :=
  (c.ctx e.ctx).loadsDone e.seq

/-- The unacknowledged stores and atomics of a context at a level, before a place (04 R47, 12 R169). -/
def Core.pendAt (c : Core) (n i l seq : Nat) : Nat :=
  (c.storeQ.filter fun e => e.ctx = i ∧ e.level = l ∧ e.seq < seq).length +
  ((c.ctx i).windows.filter fun w => w.res.isNone && decide (w.seq < seq) && (match w.pend with
    | .atomic a _ _ _ _ _ => decide (levelOf n a.loc = l)
    | _ => false)).length

/-- pend[l] of a thread (04 R47). -/
def State.pend (s : State) (n i l : Nat) : Nat :=
  (s.core n).pendAt n i l (s.ctx n i).seq

/-- Does a store-queue entry hold back a release at scope S (04 R48)? At lane none does; from core up, every entry still in the lane
group's queue that is not written. -/
def StoreEnt.holds (e : StoreEnt) (n S : Nat) : Bool :=
  decide (1 ≤ S) && !e.written && e.queued n

/-- release_ready(S) at a place of a thread's order (04 R48); at lane it waits for nothing. Another thread's store is in the queue once it
has left the pipeline. -/
def State.relReady (s : State) (n i seq qpos S : Nat) : Bool :=
  let c := s.core n
  (c.storeQ.all fun e => !(decide (e.lg = groupOf i ∧ e.id < qpos) && (decide (e.ctx = i) || c.entered e) && e.holds n S)) &&
  (List.range S).all fun l => c.pendAt n i (l + 1) seq = 0

/-- Have the release fences before a place been satisfied (04 R48)? -/
def State.fencesOpen (s : State) (n i seq : Nat) : Bool :=
  (s.ctx n i).fences.all fun f => decide (seq ≤ f.seq) || s.relReady n i f.seq f.qpos f.scope

/-- A release at scope S may be performed. -/
def State.gate (s : State) (n i seq qpos S : Nat) : Bool :=
  s.relReady n i seq qpos S && s.fencesOpen n i seq

/-- Are the thread's stores that a locked operation or an atomic must follow written (04 R45)? -/
def State.storesDone (s : State) (n i seq loc m : Nat) : Bool :=
  (s.core n).storeQ.all fun e => !(decide (e.ctx = i ∧ e.seq < seq) && !e.written && meets e.acc.loc e.acc.size loc m)

/-- What the store queue says to a read (04 R47): nothing meets it; a written store covers it, so its home is read past the L1; it must
wait; or the thread's newest store gives the value. -/
inductive Fwd where
  | mem
  | home
  | wait
  | val (w : Nat)
  deriving DecidableEq, Repr

/-- Does a store write every byte of a read? -/
def StoreEnt.covers (e : StoreEnt) (loc m : Nat) : Bool :=
  decide (e.acc.loc ≤ loc ∧ loc + m ≤ e.acc.loc + e.acc.size)

/-- Forwarding in core n to a read of at most 8 bytes by context i (04 R47): of the thread's own stores at once; another thread's store in
the lane group's queue comes through once its home holds it, so that no thread reads a value that has not reached it (04 R49, R58;
log 67), and until then the read waits. A read that a store meets in part waits for it. -/
def Core.forward (c : Core) (n i seq loc m : Nat) : Fwd :=
  let es := c.storeQ.filter fun e => decide (e.lg = groupOf i) && meets e.acc.loc e.acc.size loc m &&
    (if e.ctx = i then decide (e.seq < seq) else e.written || (c.entered e && e.queued n))
  match (es.filter fun e => !e.written).getLast? with
  | some e =>
    if decide (e.ctx = i) && e.covers loc m && e.queued n && c.entered e then .val (e.data.toNat / 2 ^ (8 * (loc - e.acc.loc)) % 2 ^ (8 * m)) else .wait
  | none =>
    if es.isEmpty then .mem else if es.any (fun e => e.covers loc m) && !isRemote loc then .home else .wait

/-! ### Lock bits (08 R116) -/

def lockBank (loc : Nat) : Nat := scratchOff loc / 8 % 32
def lockIdx (loc : Nat) : Nat :=
  (scratchOff loc / 2 ^ 8 % 8) ^^^ (scratchOff loc / 2 ^ 11 % 8) ^^^ (scratchOff loc / 2 ^ 14 % 8) ^^^ (scratchOff loc / 2 ^ 17 % 8)

/-- Is the lock bit of a word held? -/
def State.lockHeld (s : State) (loc : Nat) : Bool :=
  (s.core (scratchCore loc)).lockBits.any fun b => decide (b.bank = lockBank loc ∧ b.bit = lockIdx loc)

/-- Do two scratch words share a lock bit? -/
def sameBit (a b : Nat) : Bool :=
  decide (scratchCore a = scratchCore b ∧ lockBank a = lockBank b ∧ lockIdx a = lockIdx b)

/-- Does an earlier operation of the thread still need the lock bit of a word? It comes first, being older (08 R116). -/
def Ctx.lockEarlier (t : Ctx) (loc seq : Nat) : Bool :=
  t.windows.any fun w => w.res.isNone && decide (w.seq < seq) && (match w.pend with
    | .atomic a _ _ _ _ none => isScratch a.loc && sameBit a.loc loc
    | .load a _ _ true => sameBit a.loc loc
    | _ => false)

/-- May an operation use the word's lock bit now: it is free, and no older operation waits for it (08 R116)? -/
def State.lockFree (s : State) (loc n i seq : Nat) : Bool :=
  !s.lockHeld loc && !(s.ctx n i).lockEarlier loc seq &&
  match (s.core (scratchCore loc)).lockWait.find? fun b => decide (b.bank = lockBank loc ∧ b.bit = lockIdx loc) with
  | none => true
  | some b => decide (b.core = n ∧ b.ctx = i ∧ b.seq = seq)

/-- An operation that found its bit held retries in its turn. -/
def State.lockQueue (s : State) (loc n i seq : Nat) : State :=
  let o := scratchCore loc
  let c := s.core o
  let b : LockWait := ⟨lockBank loc, lockIdx loc, n, i, seq⟩
  if c.lockWait.contains b then s else s.setCore o { c with lockWait := c.lockWait ++ [b] }

/-- The operation no longer retries. -/
def State.lockUnqueue (s : State) (loc n i seq : Nat) : State :=
  let o := scratchCore loc
  let c := s.core o
  s.setCore o { c with lockWait := c.lockWait.filter fun b => decide (b ≠ ⟨lockBank loc, lockIdx loc, n, i, seq⟩) }

/-- Drop every retry of a context. -/
def State.lockForget (s : State) (n i : Nat) : State :=
  { s with cores := s.cores.map fun e => (e.1, { e.2 with lockWait := e.2.lockWait.filter fun b => !(b.core == n && b.ctx == i) }) }

/-- Take a word's lock bit. -/
def State.lockTake (s : State) (loc n i : Nat) : State :=
  let o := scratchCore loc
  let c := s.core o
  s.setCore o { c with lockBits := ⟨lockBank loc, lockIdx loc, n, i⟩ :: c.lockBits }

/-- Free a word's lock bit that a context holds. -/
def State.lockDrop (s : State) (loc n i : Nat) : State :=
  let o := scratchCore loc
  let c := s.core o
  s.setCore o { c with lockBits := c.lockBits.filter fun b => decide (b ≠ ⟨lockBank loc, lockIdx loc, n, i⟩) }

/-- Clear a thread's lock register, freeing the bit it holds with no write (12 R178). -/
def State.freeLock (s : State) (n i : Nat) : State :=
  match (s.ctx n i).lock with
  | none => s
  | some k =>
    let s1 := if k.taken then s.lockDrop k.loc n i else s
    s1.setCtx n i { s1.ctx n i with lock := none }

/-! ### Deferred writes (11 R134, R139) -/

/-- Replace the lanes that a mask names (17 R228). -/
def mergeLanes (m : Mask) (old new : Vec) : Vec :=
  (List.range 16).foldl (fun v l => if m.getLsbD l then vecPut v (4 * l) 4 (vecGet new (4 * l) 4) else v) old

/-- Write a result to its destination. -/
def Ctx.deliver (t : Ctx) (d : Dest) (m : Mask) (v : Vec) : Ctx :=
  match d with
  | .x n => t.wx n (v.setWidth 64)
  | .v n => if m = 0xFFFF then t.wv n v else { t.wv n (mergeLanes m (t.rv n) v) with regErr := t.regErr }

/-- The fault of a due window (11 R139). -/
structure DueFault where
  cause : Nat
  kind : Nat
  val : Word
  deriving DecidableEq, Repr

/-- Is a window's write due (11 R134)? -/
def Window.isDue (w : Window) : Bool :=
  decide (w.left = 0) && !w.held

/-- The windows in the order in which their writes stand in the program: those that fell due first, and, of those due before one
instruction, in issue order (11 R134). -/
def Ctx.dueFirst (t : Ctx) : Ctx :=
  { t with windows := t.windows.filter Window.isDue ++ t.windows.filter fun w => !w.isDue }

/-- The windows in issue order. -/
def bySeq (ws : List Window) : List Window :=
  ws.foldr insert []
where
  /-- A window put in its place. -/
  insert (w : Window) (l : List Window) : List Window :=
    match l with
    | [] => [w]
    | u :: r => if w.seq ≤ u.seq then w :: u :: r else u :: insert w r

/-- Apply the due writes that have landed, in program order (11 R134). A due write that has not landed keeps its place, and later ones to
its destination stay behind it. At the first fault the walk stops: its window closes without a write (11 R139). -/
def applyDue (t : Ctx) (late : List Dest) (ws : List Window) : Ctx × List Window × Option DueFault :=
  match ws with
  | [] => (t, [], none)
  | w :: r =>
    if w.left = 0 ∧ w.held = false then
      match w.res with
      | none => let q := applyDue t (w.dest :: late) r; (q.1, w :: q.2.1, q.2.2)
      | some (.fault c k a) => (t, r, some ⟨c, k, a⟩)
      | some (.val v) =>
        if late.contains w.dest then let q := applyDue t late r; (q.1, w :: q.2.1, q.2.2)
        else applyDue (t.deliver w.dest w.mask v) late r
    else let q := applyDue t late r; (q.1, w :: q.2.1, q.2.2)

/-! ### Taking a trap and returning from one (13 R179 to R183, R378; 11 R137; 06 R78) -/

/-- ecause (13 R180). -/
def ecauseOf (imp defer nest : Bool) (kind cause : Nat) : Word :=
  BitVec.ofNat 64 (imp.toNat * 2 ^ 15 + defer.toNat * 2 ^ 14 + nest.toNat * 2 ^ 13 + kind % 4 * 2 ^ 10 + cause % 256)

/-- A resumed launch no longer waits for its controller to go on distributing it (13 R380): it is pre-empted again, or ends. -/
def State.dropResumed (s : State) (lid : BitVec 32) : State :=
  let b := ((s.launchOf lid).map (·.base)).getD 0
  let c := mget Ctl.reset s.ctl b
  if c.resumed.contains lid then { s with ctl := mset Ctl.reset s.ctl b { c with resumed := c.resumed.filter fun r => decide (r ≠ lid) } } else s

/-- A launch ends: none of its threads issues again, and its status is entered once what it started has ended (02 R36). A launch already
ending keeps its status (28 R364). -/
def State.endLaunch (s : State) (lid : BitVec 32) (status : Nat) : State :=
  (s.dropResumed lid).modLaunch lid fun l => match l.phase with
    | .ending _ => l
    | _ => { l with phase := .ending status }

/-- A thread's access no longer waits on a miss: it will be made afresh. -/
def State.dropWaits (s : State) (n i : Nat) : State :=
  s.setCore n { s.core n with misses := (s.core n).misses.map fun m => { m with waiters := m.waiters.filter fun w => decide (w.ctx ≠ i) } }

/-- The traps of stores, in the order of the stores. -/
def mergeDue (a b : Map (Nat × Word)) : Map (Nat × Word) :=
  b.foldl (fun m e => mput m e.1 e.2) a

/-- The register errors at a trap entry: those of the registers it writes end, and an error of the pc goes on to epc, one of ehandler to
the pc (13 R184, log 83). -/
def trapErr (l : List RegName) : List RegName :=
  (l.filter fun r => !([.pc, .csr 0x007, .csr 0x040, .csr 0x041, .csr 0x042] : List RegName).contains r) ++
    (if l.contains .pc then [.csr 0x040] else []) ++ if l.contains (.csr 0x043) then [.pc] else []

/-- An error of a register ends. -/
def Ctx.mend (t : Ctx) (r : RegName) : Ctx :=
  { t with regErr := t.regErr.filter fun q => decide (q ≠ r) }

/-- The registers a trap entry writes: windows held, ecause, epc, etval, the prefix saved, the handler entered. The traps of stores
that were due at the trapped instruction are due again when it is retried (13 R181). In the handler of a trap that held no window
LA counts, so its own windows may be open at a second trap; the spec says that a trap inside the handler adds nothing held and also that
every open window is held: the model holds them (DESIGN CHOICE, log 74). -/
def Ctx.enterTrap (t : Ctx) (p : PendTrap) : Ctx :=
  { t with
    run := .ready, stallAt := none, stallCnt := 0, todo := none, trapPend := none,
    poisonHeld := mergeDue t.poisonHeld t.poisonDue, poisonDue := [], reqLost := none,
    ecause := ecauseOf p.imp p.defer t.inh p.kind p.cause, etval := p.val, epc := p.pc &&& ~~~3,
    fmtp := t.latch, pp := t.latchOn, latchOn := false, regErr := trapErr t.regErr,
    windows := (bySeq t.windows).map fun w => { w with held := true },
    inh := true, pc := t.ehandler }

/-- Enter the handler once every result has landed: the due writes are made, and the faulted one that comes first is taken in place of the
trap; the writes of later instructions then stay held with 0 left (13 R181, R183). A store's trap that gives way to it stays due. A thread
with no handler, or whose handler cannot be fetched, ends its launch with status 4 (13 R183, 02 R36). -/
def State.enterTrap (s : State) (n i : Nat) (p : PendTrap) : State :=
  let t := s.ctx n i
  let r := applyDue t [] t.windows
  let t1 : Ctx := { r.1 with
    windows := r.2.1, poisonDue := if r.2.2.isSome && p.imp then mput r.1.poisonDue p.seq (p.cause, p.val) else r.1.poisonDue }
  let p1 : PendTrap := match r.2.2 with
    | none => p
    | some f => { p with cause := f.cause, kind := f.kind, val := f.val, imp := false, defer := true }
  if t.ehandler = 0 ∨ (t.inh = true ∧ p1.pc = t.ehandler ∧ p1.kind = 3) then
    (s.setCtx n i { t1 with trapPend := none, run := .stalled }).endLaunch t.lid 4
  else
    let s1 := (((s.setCtx n i t1).freeLock n i).lockForget n i).dropWaits n i
    s1.setCtx n i ((s1.ctx n i).enterTrap p1)

/-- Take a trap: at once where every result has landed, else the context waits for TRAP_ENTRY (13 R183). -/
def State.trap (s : State) (n i : Nat) (p : PendTrap) : State :=
  let t := s.ctx n i
  if t.landed then s.enterTrap n i p else s.setCtx n i { t with trapPend := some p, run := .stalled }

/-- A trap of the executing instruction. -/
def State.trapMe (s : State) (cause kind : Nat) (val : Word) : State :=
  s.trap s.cur.core s.cur.ctx ⟨cause, kind, val, s.me.pc, false, false, 0⟩

/-- The illegal-instruction trap; etval is the word (11 R131). -/
def State.illegal (s : State) : State :=
  s.trapMe 1 0 (s.cur.word.setWidth 64)

/-- Return from a trap (13 R183, 14 R201): the prefix restored, the windows counted as for any issued
instruction and their hold removed, the handler left, pc at epc. -/
def Ctx.eret (t : Ctx) : Ctx :=
  { t with
    latch := if t.pp then t.fmtp else t.latch, latchOn := t.pp,
    windows := t.windows.map fun w => { tick w with held := false },
    poisonDue := mergeDue t.poisonDue t.poisonHeld, poisonHeld := [],
    inh := false, pc := t.epc, run := .ready, stallAt := none, stallCnt := 0, yieldFor := none, todo := none }

/-- An instruction that takes no format traps as illegal under a pending prefix (06 R76). -/
def State.plain (s : State) (k : Out) : Out :=
  if s.me.latchOn then .next s.illegal else k

/-! ### Threads that wait on scratch words (02 R34, 14 R197) -/

/-- The waiting contexts. -/
def State.waiting (s : State) : List (Nat × Nat × Wait) :=
  s.cores.flatMap fun c => c.2.ctxs.filterMap fun t => match t.2.run with
    | .waiting w => some (c.1, t.1, w)
    | _ => none

/-- A waiting instruction completes: its result is written and the thread goes on. -/
def State.complete (s : State) (n i : Nat) (d : BitVec 5) (v : Word) : State :=
  s.setCtx n i ((s.ctx n i).wx d v).next

/-- Did a wait's time-out fall before this cycle? Then it ended first; in the same cycle the other event wins (14 R198, R199). -/
def State.pastTime (s : State) (dl : Option Nat) : Bool :=
  match dl with
  | some d => decide (d < s.clock.toNat)
  | none => false

/-- One waiter meets a write of its word: BAR and BART wake with status 1, WAIT wakes when the word differs, and a poisoned word
traps (13 R184). The spec settles only a release against a BART's time-out of the same cycle (14 R198); a write of the word by something
else in that cycle also wins here, with status 1 (DESIGN CHOICE, log 89). -/
def State.wakeOne (s : State) (group : Bool) (e : Nat × Nat × Wait) : State :=
  match e.2.2 with
  | .word a loc x d =>
    if anyPoison s.poison loc 8 then s.trap e.1 e.2.1 ⟨5, 0, a, (s.ctx e.1 e.2.1).pc, false, false, 0⟩
    else
      let v := BitVec.ofNat 64 (s.rawRead loc 8)
      if v = x then s else s.complete e.1 e.2.1 d v
  | .bar _ _ _ d dl _ => if group then s else s.complete e.1 e.2.1 d (if s.pastTime dl then 3 else 1)
  | .hbar _ _ _ _ | .gang => s

/-- A group word has been written by something else: the group follows the new value, and earlier arrivals are forgotten (02 R34). -/
def State.dropArrs (s : State) (word : Nat) : State :=
  let o := scratchCore (8 * word)
  let c := s.core o
  if c.arrs.any fun a => decide (a.loc / 8 = word) then
    s.setCore o { c with arrs := c.arrs.filter fun a => decide (a.loc / 8 ≠ word) }
  else s

/-- A scratch word has been written: test every WAIT on it and, unless a group instruction wrote it, wake its group waiters. -/
def State.wakeWord (s : State) (word : Nat) (group : Bool) : State :=
  ((if group then s else s.dropArrs word).waiting.filter fun e => match e.2.2 with
    | .word _ loc _ _ => decide (loc / 8 = word)
    | .bar _ loc _ _ _ _ => decide (loc / 8 = word)
    | .hbar _ _ _ _ | .gang => false).foldl (fun s e => s.wakeOne group e) (if group then s else s.dropArrs word)

/-- Wake along a range of written locations. -/
def State.wakeRange (s : State) (loc n : Nat) : State :=
  if isScratch loc then
    (List.range ((loc + n - 1) / 8 - loc / 8 + 1)).foldl (fun s k => s.wakeWord (loc / 8 + k) false) s
  else s

/-! ### The order of operations that reach a scratch word in one cycle (05 R60)

A rank names what an operation is: 0 a group instruction, 1 an atomic, a STU or a copy-accumulate add, 2 a write that ignores the lock
bit. -/

/-- Has a bank in this cycle performed an operation on a word whose rank is at least `r`? -/
def State.bankHas (s : State) (loc r : Nat) : Bool :=
  isScratch loc && decide ((s.core (scratchCore loc)).bankAt = s.clock.toNat) &&
  (s.core (scratchCore loc)).bankOps.any fun e => decide (e.1 = loc / 8 ∧ r ≤ e.2)

/-- A bank performs an operation on the words of a range in this cycle. -/
def State.bankNote (s : State) (loc n rank : Nat) : State :=
  if isScratch loc then
    let c := s.core (scratchCore loc)
    let old := if c.bankAt = s.clock.toNat then c.bankOps else []
    s.setCore (scratchCore loc) { c with
      bankAt := s.clock.toNat,
      bankOps := old ++ (List.range ((loc + n - 1) / 8 - loc / 8 + 1)).map fun k => (loc / 8 + k, rank) }
  else s

/-- Write at the home, by an operation of a rank, and wake the waiters. -/
def State.storeAt (s : State) (a : Acc) (loc n w rank : Nat) : Bool × State :=
  let r := (s.bankNote loc n rank).homeWrite a loc n w
  (r.1, r.2.wakeRange loc n)

end Sys2Proof.Machine
end

