-- ==== Sys2Proof/Machine/Flags.lean ====
section
/-! DEFINITION. Flags: raising them in a lane and in the core's summary (06 R79 to R81), and the prefix that names formats (06 R74, R77). -/

namespace Sys2Proof.Machine

/-- OR flags into a lane's field (06 R79). -/
def Ctx.raise (t : Ctx) (lane : Nat) (f : Flags5) : Ctx :=
  let b : Word := (f.setWidth 64) <<< (8 * (lane % 8))
  if lane < 8 then { t with vflg0 := t.vflg0 ||| b } else { t with vflg1 := t.vflg1 ||| b }

/-- OR the flags of several lanes. -/
def Ctx.raiseAll (t : Ctx) (fl : List (Nat × Flags5)) : Ctx :=
  fl.foldl (fun t e => t.raise e.1 e.2) t

/-- All flags of a list together. -/
def joinFlags (fl : List (Nat × Flags5)) : Flags5 :=
  fl.foldl (fun a e => a ||| e.2) 0

/-- OR flags into a core's summary (06 R81): they count from the next cycle on (07 R86). -/
def State.raiseSum (s : State) (n : Nat) (f : Flags5) : State :=
  s.setCore n { s.core n with raiseDue := (s.core n).raiseDue ||| f }

/-- The executing instruction completes and raises flags, unless its Q bit is 1 (06 R80). -/
def State.finishFlags (s : State) (t : Ctx) (q : BitVec 1) (fl : List (Nat × Flags5)) : Out :=
  if q = 1 then s.finish t
  else (s.raiseSum s.cur.core (joinFlags fl)).finish (t.raiseAll fl)

/-- The fields of a prefix (06 R74). -/
structure Pfx where
  fa : Nat
  fb : Nat
  fc : Nat
  rm : BitVec 3
  sat : Bool
  scm : Nat
  deriving DecidableEq, Repr

/-- The fields of a latch, FMT bits 25:7 (06 R77). -/
def pfxOf (l : BitVec 19) : Pfx :=
  ⟨(l.extractLsb' 15 4).toNat, (l.extractLsb' 11 4).toNat, (l.extractLsb' 7 4).toNat, l.extractLsb' 4 3, l.getLsbD 3,
    (l.extractLsb' 0 3).toNat⟩

/-- The prefix that governs the executing instruction; all fields 0 with none (17 R224). -/
def Ctx.pfx (t : Ctx) : Pfx :=
  if t.latchOn then pfxOf t.latch else ⟨0, 0, 0, 0, false, 0⟩

/-- A code with its default. -/
def codeOr (c d : Nat) : Nat :=
  if c = 0 then d else c

/-- Is a prefix one that FMT itself accepts (06 R76)? A handler may write another into fmtp (14 R201). -/
def Pfx.legal (p : Pfx) : Bool :=
  decide (p.fa ≠ 15 ∧ p.fb ≠ 15 ∧ p.fc ≠ 15 ∧ p.rm.toNat ≤ 5 ∧ p.scm ≤ 4)

/-- The instruction accepts its prefix, or it traps as illegal (06 R76, 17 R224). -/
def State.accepts (s : State) (ok : Pfx → Bool) (k : Pfx → Out) : Out :=
  if s.me.pfx.legal && ok s.me.pfx then k s.me.pfx else .next s.illegal

/-- The governing mode of an instruction (06 R73). -/
def Ctx.mode (t : Ctx) (p : Pfx) : Mode :=
  modeRM p.rm t.rmode

end Sys2Proof.Machine
end

