-- ==== Sys2Proof/Machine/Operands.lean ====
section
/-! DEFINITION. Operands: address forms, pages, layouts and checks (08 R87 to R107), misses (08 R108), watermarked windows (18 R251),
opening a window for a long-latency result (11 R134), and the elements of a vector register (17 R223). -/

namespace Sys2Proof.Machine

/-! ### Pages and layouts -/

/-- The page shift of PSIZE (08 R98). -/
def pageShift (te0 : Word) : Nat :=
  16 + 6 * bits te0 14 2

/-- Does an entry match (08 R106)? -/
def TlbEntry.hit (e : TlbEntry) (space : BitVec 12) (va : Word) : Bool :=
  let sh := pageShift e.te0
  e.te1.getLsbD 63 && decide (bits e.te0 0 12 = space.toNat ∧ bits e.te0 0 60 / 2 ^ sh = bits va 0 60 / 2 ^ sh)

/-- Is an entry malformed (08 R99)? -/
def TlbEntry.malformed (e : TlbEntry) : Bool :=
  let ps := bits e.te0 14 2
  let sh := pageShift e.te0
  let tier := bits e.te1 58 2
  let lay := bits e.te1 56 2
  let fr := bits e.te1 0 34
  decide (bits e.te0 59 5 ≠ 0 ∨ bits e.te0 12 2 ≠ 0 ∨ tier = 3 ∨ lay = 3 ∨
    bits e.te0 16 (sh - 16) ≠ 0 ∨ fr % 2 ^ (sh - 16) ≠ 0 ∨
    (lay = 2 ∧ 2 ≤ ps) ∨ (lay = 1 ∧ 11 < fr / 2 ^ 30) ∨ (lay = 2 ∧ (fr / 2 ^ 23 ≠ 0 ∨ 1919 < fr / 2 ^ 12 % 2 ^ 11)) ∨
    (tier = 2 ∧ (lay ≠ 0 ∨ bits e.te1 50 6 ≠ 0 ∨ bits e.te1 34 16 ≠ 0)))

/-- A granule of an interleave: stripe and rotated position (08 R101, R102). -/
def stripe (chans : List Nat) (lim first a : Nat) : Option Nat :=
  let p := chans.length
  if p * lim * 4096 ≤ a then none
  else
    let g := a / 4096
    let sp := g / p
    (nth chans ((g + sp) % p)).map fun c => c * chanSize + (first + sp) * 4096 + a % 4096

/-- An offset in the global region (08 R101). -/
def State.globalLoc (s : State) (a : Nat) : Option Nat :=
  stripe s.pkg.order s.pkg.iglim.toNat 0 a

/-- The usable size U(c) of a channel in bytes (08 R100). -/
def State.usableOf (s : State) (c : Nat) : Nat :=
  mget s.pkg.usable s.pkg.usableCh c

/-- The location of an address under an entry (08 R100 to R103); none where it is not valid. -/
def State.place (s : State) (e : TlbEntry) (va : Word) : Option Nat :=
  let sh := pageShift e.te0
  let o := bits va 0 sh
  let fr := bits e.te1 0 34
  if bits e.te1 58 2 = 2 then some (hostAt + fr * 2 ^ 16 + o)
  else match bits e.te1 56 2 with
    | 0 => s.globalLoc (fr * 2 ^ 16 + o)
    | 1 => stripe (s.pkg.order.filter fun c => decide (c / 160 = fr / 2 ^ 30)) s.pkg.islim.toNat s.pkg.iglim.toNat
        (fr % 2 ^ 30 * 2 ^ 16 + o)
    | _ =>
      let c := fr / 2 ^ 12 % 2 ^ 11
      let at0 := fr % 2 ^ 12 * 2 ^ 16
      if s.pkg.order.contains c && decide ((s.pkg.iglim.toNat + s.pkg.islim.toNat) * 4096 ≤ at0 ∧ at0 + 2 ^ sh ≤ s.usableOf c)
      then some (c * chanSize + at0 + o) else none

/-- What looking up an address gives (08 R107). -/
inductive Look where
  | ok (a : Acc)
  | fault (cause : Nat)
  | miss
  deriving DecidableEq, Repr

/-- Steps 4 to 6 of 08 R107 on an entry: permissions, location, key (26 R348) and the host's atomics. -/
def State.checkEntry (s : State) (e : TlbEntry) (pva va : Word) (kind size : Nat) (hostOk : Bool) : Look :=
  let r := e.te1.getLsbD 62
  let w := e.te1.getLsbD 61
  let okp : Bool := match kind with
    | 0 => r
    | 1 => w
    | 2 => r && w
    | _ => e.te1.getLsbD 60
  if okp then match s.place e pva with
    | none => .fault 3
    | some loc =>
      let tier := bits e.te1 58 2
      let key := bits e.te1 50 6
      if tier = 2 then
        if kind = 2 ∧ (hostOk && s.pkg.hostAtomics) = false then .fault 3 else .ok ⟨va, loc, size, false, 0, 0⟩
      else if mget 0 s.pkg.keys key = 0 then .fault 3
      else .ok ⟨va, loc, size, decide (tier = 0), key, bits e.te1 34 16⟩
  else .fault 3

/-- The scratch forms (08 R87, R89, R90): the target, or none where it is retired or outside the mesh. -/
def State.scratchForm (s : State) (n : Nat) (va : Word) : Option Nat :=
  let f := bits va 56 4
  let off := bits va 0 20
  let x := bits va 45 5
  let y := bits va 41 4
  if f = 14 then some (scratchAt n + off)
  else if f = 12 then if s.active (coreNo x y) then some (scratchAt (coreNo x y) + off) else none
  else
    let sx : Int := (coreX n : Int) + (if 16 ≤ x then (x : Int) - 32 else x)
    let sy : Int := (coreY n : Int) + (if 8 ≤ y then (y : Int) - 16 else y)
    if 0 ≤ sx ∧ sx < 32 ∧ 0 ≤ sy ∧ sy < 16 ∧ s.active (coreNo sx.toNat sy.toNat) = true
    then some (scratchAt (coreNo sx.toNat sy.toNat) + off) else none

/-- Step 1 of 08 R107: the form and its zero fields. -/
def formOk (va : Word) : Bool :=
  let f := bits va 56 4
  decide (bits va 60 4 = 0) && (decide (f ≤ 8) ||
    (decide (f = 12) && decide (bits va 20 21 = 0)) ||
    (decide (f = 13) && decide (bits va 20 21 = 0 ∧ bits va 50 6 = 0)) ||
    (decide (f = 14) && decide (bits va 20 36 = 0)))

/-- Is another package present (08 R88)? -/
def State.podHas (s : State) (p : Nat) : Bool :=
  s.pkg.podmap.getLsbD p

/-- A core's TLB entry for an address (08 R106). -/
def State.tlbOf (s : State) (n : Nat) (space : BitVec 12) (va : Word) : Option TlbEntry :=
  (s.core n).tlb.find? fun e => e.hit space va

/-- The checks of 08 R107 for an access of `size` bytes aligned to `al`, of kind 0 load, 1 store, 2 atomic, 3 fetch. -/
def State.resolve (s : State) (n : Nat) (space : BitVec 12) (va : Word) (kind size al : Nat) (hostOk : Bool) : Look :=
  if formOk va = false then .fault 3
  else if va.toNat % al ≠ 0 then .fault 2
  else
    let f := bits va 56 4
    if f < 8 then match s.tlbOf n space va with
      | none => .miss
      | some e => s.checkEntry e va va kind size hostOk
    else if f = 8 then
      let p := bits va 50 6
      if p = s.pkg.pkgnum.toNat then
        match s.pkg.agentTlb.find? fun e => e.hit s.pkg.podspace (va &&& (2 ^ 50 - 1)) with
        | none => .fault 3
        | some e => match s.checkEntry e (va &&& (2 ^ 50 - 1)) va kind size hostOk with
          | .ok a => .ok { a with l1 := isDram a.loc }
          | q => q
      else if s.podHas p then .ok ⟨va, remoteAt + va.toNat, size, true, 0, 0⟩ else .fault 3
    else if f = 12 ∧ bits va 50 6 ≠ s.pkg.pkgnum.toNat then
      if s.podHas (bits va 50 6) then .ok ⟨va, remoteAt + va.toNat, size, false, 0, 0⟩ else .fault 3
    else match s.scratchForm n va with
      | none => .fault 3
      | some loc => .ok ⟨va, loc, size, false, 0, 0⟩

/-- The checks of an access that only a scratch form may make (02 R32, 12 R176, 14 R194, R197); the absolute form may name another
package (08 R89). -/
def State.resolveScratch (s : State) (n : Nat) (va : Word) (size al : Nat) : Look :=
  if formOk va = false ∨ bits va 56 4 < 12 then .fault 3
  else if va.toNat % al ≠ 0 then .fault 2
  else if bits va 56 4 = 12 ∧ bits va 50 6 ≠ s.pkg.pkgnum.toNat then
    if s.podHas (bits va 50 6) then .ok ⟨va, remoteAt + va.toNat, size, false, 0, 0⟩ else .fault 3
  else match s.scratchForm n va with
    | none => .fault 3
    | some loc => .ok ⟨va, loc, size, false, 0, 0⟩

/-- The most recently used entry comes first (08 R106). -/
def State.touchTlb (s : State) (n : Nat) (space : BitVec 12) (va : Word) : State :=
  match s.tlbOf n space va with
  | none => s
  | some e => s.setCore n { s.core n with tlb := e :: (s.core n).tlb.filter fun q => decide (q ≠ e) }

/-! ### Misses (08 R108) -/

/-- The aligned 64 KiB region of an address. -/
def regionOf (va : Word) : Nat :=
  bits va 16 44

/-- Does an outstanding miss cover an address? One whose walk failed for an engine is outstanding no more (09 R119). -/
def Miss.covers (m : Miss) (space : BitVec 12) (va : Word) : Bool :=
  !m.failed && decide (m.region = regionOf va ∧ m.space = space)

/-- May the core send one more miss: fewer than 16 are outstanding? -/
def Core.missRoom (c : Core) : Bool :=
  decide ((c.misses.filter fun m => !m.failed).length < 16)

/-- The watchdog's count stops: what it has counted is kept (13 R182). -/
def Ctx.pauseStall (t : Ctx) (now : Nat) : Ctx :=
  { t with stallCnt := t.stallCnt + (match t.stallAt with
      | some a => now - a
      | none => 0), stallAt := none }

/-- The watchdog counts a stalled context again. -/
def Ctx.resumeStall (t : Ctx) (now : Nat) : Ctx :=
  if t.run = .stalled then { t with stallAt := some (t.stallAt.getD now) } else t

/-- A thread's access misses: it waits on an outstanding miss of its region, or sends one where fewer than 16 are outstanding. The
watchdog does not count a wait on a page request (13 R182). -/
def State.miss (s : State) (n i : Nat) (va : Word) (kind : Nat) : State :=
  let c := s.core n
  let t := s.ctx n i
  let w : MissWait := ⟨i, t.gen, kind, va⟩
  let s1 : State :=
    if c.misses.any (fun m => m.covers t.space va) then
      let join := fun (m : Miss) => if m.covers t.space va && !m.waiters.contains w then { m with waiters := m.waiters ++ [w] } else m
      s.setCore n { c with misses := c.misses.map join }
    else if c.missRoom then
      s.setCore n { c with misses := c.misses ++ [⟨regionOf va, t.space, kind, i, t.gen, t.lid, va, false, false, false, [w]⟩] }
    else s
  let t1 := s1.ctx n i
  s1.setCtx n i (if c.misses.any (fun m => m.covers t.space va && m.requested) then { t1.pauseStall s.clock.toNat with run := .stalled }
    else { t1 with run := .stalled, stallAt := some (t1.stallAt.getD s.clock.toNat) })

/-- A miss that no thread waits on: a prefetch's (12 R165) or an engine's (09 R119). An engine's piece that misses where a thread's miss
is outstanding sends none of its own: it waits for that miss, and for the page request it leads to, and where the host answers that the
page is absent it misses afresh and then faults. The spec does not say which of the two walks such a piece fails with, nor what becomes of
the piece of a second engine (another channel, or the load pipe) that waits on an engine's miss whose walk finds nothing: it misses afresh,
with a walk of its own (DESIGN CHOICE, log 75). -/
def State.missFor (s : State) (n who : Nat) (space : BitVec 12) (va : Word) (kind : Nat) (pref : Bool) : State :=
  let c := s.core n
  if c.misses.any (fun m => m.covers space va || decide (m.ctx = who ∧ m.failed = true ∧ m.region = regionOf va ∧ m.space = space)) then s
  else if c.missRoom then
    s.setCore n { c with misses := c.misses ++ [⟨regionOf va, space, kind, who, 0, 0, va, pref, false, false, []⟩] }
  else s

/-! ### Windows of copy channels (18 R251) -/

/-- Extend a mark over the runs of written bytes, as often as there are runs. -/
def growMark (runs : List (Nat × Nat)) (k cur : Nat) : Nat :=
  match k with
  | 0 => cur
  | k + 1 => growMark runs k (match runs.find? fun r => decide (r.1 ≤ cur ∧ cur < r.1 + r.2) with
    | some r => r.1 + r.2
    | none => cur)

/-- WM: the first byte of the window not yet written, from its base. -/
def Binding.wm (b : Binding) : Nat :=
  min b.size (growMark b.written b.written.length 0)

/-- Does an access to scratch wait for a watermark? -/
def State.belowMark (s : State) (loc size : Nat) : Bool :=
  !isScratch loc || (s.core (scratchCore loc)).chans.all fun e => match e.2.bound with
    | none => true
    | some b => !meets (scratchOff loc) size b.base b.size ||
      decide (min (scratchOff loc + size) (b.base + b.size) ≤ b.base + b.wm)

/-! ### Accesses of the executing instruction -/

/-- What a check that fails does: the trap of its cause and kind, or the miss. -/
def State.failMe (s : State) (l : Look) (kind : Nat) (va : Word) : State :=
  match l with
  | .fault c => s.trapMe c kind va
  | .miss => s.miss s.cur.core s.cur.ctx va kind
  | .ok _ => s

/-- Make the checks of one access of the executing thread, then go on. An access waits for an earlier acquire (04 R48) and for a
watermark (18 R251). -/
def State.withAcc (s : State) (kind size : Nat) (va : Word) (hostOk : Bool) (k : Acc → State → Out) : Out :=
  if s.me.acquiring then .next s.stall
  else match s.resolve s.cur.core s.me.space va kind size size hostOk with
    | .ok a => if s.belowMark a.loc size then k a (s.touchTlb s.cur.core s.me.space va) else .next s.stall
    | l => .next (s.failMe l kind va)

/-- The same for an access that only a scratch form may make, of kind `kind` (13 R378). -/
def State.withScratch (s : State) (kind size al : Nat) (va : Word) (k : Acc → Out) : Out :=
  if s.me.acquiring then .next s.stall
  else match s.resolveScratch s.cur.core va size al with
    | .ok a => if s.belowMark a.loc size then k a else .next s.stall
    | l => .next (s.failMe l kind va)

/-- Check a list of elements in order; the first failure decides. -/
def State.lookAll (s : State) (kind size : Nat) (es : List (Nat × Word)) : Except (Look × Word) (List (Nat × Acc)) :=
  match es with
  | [] => .ok []
  | (i, va) :: r => match s.resolve s.cur.core s.me.space va kind size size false with
    | .ok a => match s.lookAll kind size r with
      | .ok as => .ok ((i, a) :: as)
      | .error e => .error e
    | l => .error (l, va)

/-- Check every element; the first that fails decides. -/
def State.checkElems (s : State) (kind size : Nat) (es : List (Nat × Word)) (k : List (Nat × Acc) → State → Out) : Out :=
  match s.lookAll kind size es with
  | .error (l, va) => .next (s.failMe l kind va)
  | .ok as => k as (es.foldl (fun s e => s.touchTlb s.cur.core s.me.space e.2) s)

/-- Does every element lie below the watermarks (18 R251)? -/
def State.allBelow (s : State) (as : List (Nat × Acc)) : Bool :=
  as.all fun e => s.belowMark e.2.loc e.2.size

/-- Check every element before any is accessed (17 R228). -/
def State.withElems (s : State) (kind size : Nat) (es : List (Nat × Word)) (k : List (Nat × Acc) → State → Out) : Out :=
  if s.me.acquiring then .next s.stall
  else s.checkElems kind size es fun as s1 => if s1.allBelow as then k as s1 else .next s.stall

/-- The place of a new access in the thread's order, and the order advanced. -/
def Ctx.take (t : Ctx) : Ctx :=
  { t with seq := t.seq + 1 }

/-- LA, read as 0 while a window is held (11 R137). -/
def Ctx.la (t : Ctx) (l : BitVec 4) : Nat :=
  if t.windows.any fun w => w.held then 0 else l.toNat

/-- The executing long-latency instruction issues and opens its window (11 R134). -/
def Ctx.openWin (t : Ctx) (q : Nat) (d : Dest) (m : Mask) (l : BitVec 4) (p : Pend) (r : Option Res) : Ctx :=
  let la := t.la l
  let u := t.next
  { u with windows := u.windows ++ [⟨t.seq, q, d, m, la, false, p, r⟩], seq := t.seq + 1 }

/-- The same, to the state. -/
def State.openWin (s : State) (t : Ctx) (d : Dest) (m : Mask) (l : BitVec 4) (p : Pend) (r : Option Res) : State :=
  s.putMe (t.openWin s.myCore.nextStore d m l p r)

/-- A value for an x register as a result. -/
def xRes (w : Word) : Option Res :=
  some (.val (w.setWidth 512))

/-- Append a store of the executing thread to its lane group's queue (04 R47). -/
def State.queueStore (s : State) (a : Acc) (data : Word) (rel : Option Nat) (unlock : Bool) : State :=
  let c := s.myCore
  let i := s.cur.ctx
  let e : StoreEnt := ⟨c.nextStore, groupOf i, i, s.me.seq, a, data, levelOf s.cur.core a.loc, rel, false, false, false, false, unlock⟩
  (s.putCore { c with storeQ := c.storeQ ++ [e], nextStore := c.nextStore + 1 }).putMe s.me.take

end Sys2Proof.Machine
end

