-- ==== Sys2Proof/Machine/Memory.lean ====
section
/-! DEFINITION. Scalar loads, stores and prefetches (12 R163 to R165), whole-vector and element access (17 R226 to R229). A load
issues here and is performed at its landing; a store issues here, and reaches its home and is acknowledged by steps of its own. -/

namespace Sys2Proof.Machine

/-- The effective address of format M (12 R163). -/
def State.ea (s : State) (a : BitVec 5) (o : BitVec 12) (size : Nat) : Word :=
  s.me.rx a + o.signExtend 64 * BitVec.ofNat 64 size

/-- A scalar load (12 R164). -/
def State.load (s : State) (size : Nat) (sg : Bool) (d a : BitVec 5) (o : BitVec 12) (l : BitVec 4) : Out :=
  s.plain (s.withAcc 0 size (s.ea a o size) false fun acc s =>
    .next (s.openWin s.me (.x d) 0xFFFF l (.load acc sg none false) none))

/-- Would one more store exceed its level's count (04 R47)? -/
def State.pendFull (s : State) (a : Acc) : Bool :=
  decide (Config.pendMax ≤ s.pend s.cur.core s.cur.ctx (levelOf s.cur.core a.loc))

/-- A checked store retires into the store queue (12 R164). -/
def State.retireStore (s : State) (a : Acc) (data : Word) (rel : Option Nat) : Out :=
  if s.pendFull a then .next s.stall
  else
    let s := s.queueStore a data rel false
    s.finish s.me

/-- A scalar store. -/
def State.store (s : State) (size : Nat) (d a : BitVec 5) (o : BitVec 12) : Out :=
  s.plain (s.withAcc 1 size (s.ea a o size) false fun acc s => s.retireStore acc (s.me.rx d) none)

def execLd8u (d a : BitVec 5) (o : BitVec 12) (l : BitVec 4) (s : State) : Out := s.load 1 false d a o l
def execLd8s (d a : BitVec 5) (o : BitVec 12) (l : BitVec 4) (s : State) : Out := s.load 1 true d a o l
def execLd16u (d a : BitVec 5) (o : BitVec 12) (l : BitVec 4) (s : State) : Out := s.load 2 false d a o l
def execLd16s (d a : BitVec 5) (o : BitVec 12) (l : BitVec 4) (s : State) : Out := s.load 2 true d a o l
def execLd32u (d a : BitVec 5) (o : BitVec 12) (l : BitVec 4) (s : State) : Out := s.load 4 false d a o l
def execLd32s (d a : BitVec 5) (o : BitVec 12) (l : BitVec 4) (s : State) : Out := s.load 4 true d a o l
def execLd64 (d a : BitVec 5) (o : BitVec 12) (l : BitVec 4) (s : State) : Out := s.load 8 false d a o l
def execSt8 (d a : BitVec 5) (o : BitVec 12) (s : State) : Out := s.store 1 d a o
def execSt16 (d a : BitVec 5) (o : BitVec 12) (s : State) : Out := s.store 2 d a o
def execSt32 (d a : BitVec 5) (o : BitVec 12) (s : State) : Out := s.store 4 d a o
def execSt64 (d a : BitVec 5) (o : BitVec 12) (s : State) : Out := s.store 8 d a o

/-! ### Prefetch: a hint that never traps (12 R165) -/

/-- The line of the L1 that a context may read: one left from before its thread's start counts as a miss (02 R28, log 31). -/
def Core.l1Line (c : Core) (i ln : Nat) : Option Line :=
  if (c.ctx i).stale.contains ln then none else mfind c.l1 ln

/-- A miss fills a line from its home: it is new to every thread (08 R94). -/
def Core.l1Put (c : Core) (ln : Nat) (l : Line) : Core :=
  { c with
    l1 := l1Fill c.l1 ln l,
    ctxs := c.ctxs.map fun e => (e.1, { e.2 with stale := e.2.stale.filter fun k => decide (k ≠ ln) }) }

/-- Fill a line into its home slice and, where context i may cache it there, into the L1. -/
def State.fillLine (s : State) (n i : Nat) (a : Acc) (l1 : Bool) : State :=
  let ln := a.loc / 64
  let r := s.sliceLine ln a.key a.buf (!s.bankWrites a.loc)
  let c := r.2.core n
  if l1 && a.l1 && (c.l1Line i ln).isNone then r.2.setCore n (c.l1Put ln { r.1 with dirty := false }) else r.2

/-- The prefetch of a kind: 0 the L1, 1 the slice, 2 the translation alone. Its lookup does not count as a use of the TLB entry: whether a
hint is one the spec does not say (DESIGN CHOICE, log 76). -/
def State.prefetch (s : State) (kind : Nat) (a : BitVec 5) (o : BitVec 12) : Out :=
  s.plain (
    let va := s.ea a o 64 &&& ~~~63
    let n := s.cur.core
    if bits va 59 5 ≠ 0 then s.finish s.me
    else match s.tlbOf n s.me.space va with
      | none => let s := s.missFor n s.cur.ctx s.me.space va 0 true; s.finish s.me
      | some e => match s.checkEntry e va va 0 64 false with
        | .ok acc =>
          let s := if isDram acc.loc ∧ kind ≠ 2 then s.fillLine n s.cur.ctx acc (decide (kind = 0)) else s
          s.finish s.me
        | _ => s.finish s.me)

def execPrefL1 (a : BitVec 5) (o : BitVec 12) (s : State) : Out := s.prefetch 0 a o
def execPrefSlice (a : BitVec 5) (o : BitVec 12) (s : State) : Out := s.prefetch 1 a o
def execPrefTlb (a : BitVec 5) (o : BitVec 12) (s : State) : Out := s.prefetch 2 a o

/-! ### Whole vectors -/

/-- The eight words of a whole-vector access (17 R226), each an access at its own address. -/
def wordsOf (a : Acc) : List (Nat × Acc) :=
  (List.range 8).map fun k => (k, { a with va := a.va + 8 * k, loc := a.loc + 8 * k, size := 8 })

/-- The elements of an open vector load, none performed. -/
def freshEls (es : List (Nat × Acc)) : List VecEl :=
  es.map fun e => ⟨e.1, e.2, none⟩

def execVld (d a : BitVec 5) (o : BitVec 12) (l : BitVec 4) (s : State) : Out :=
  s.plain (s.withAcc 0 64 (s.ea a o 64) false fun acc s =>
    .next (s.openWin s.me (.v d) 0xFFFF l (.vec (freshEls (wordsOf acc)) 64) none))

/-- Queue the stores of several elements in order (17 R226, R229), as far as their levels' counts allow: those left over, and the state. -/
def State.queueAll (s : State) (es : List (Acc × Word)) : List (Acc × Word) × State :=
  match es with
  | [] => ([], s)
  | e :: r => if s.pendFull e.1 then (e :: r, s) else (s.queueStore e.1 e.2 none false).queueAll r

/-- An instruction stores several elements: each counts, and one that would pass its level's count stalls the instruction, which goes on
with it once the count has fallen (04 R47). -/
def State.storeAll (s : State) (es : List (Acc × Word)) (k : State → Out) : Out :=
  let r := s.queueAll es
  if r.1.isEmpty then k r.2 else .next (r.2.putMe { r.2.me with todo := some (s.cur.word, r.1) }).stall

/-- An instruction that stalled with stores left goes on with them; its checks are made once, before its first store (08 R106, 17 R228,
24 R318). -/
def State.storing (s : State) (k : State → Out) (first : Out) : Out :=
  match s.me.todo with
  | some q => s.storeAll q.2 k
  | none => first

def execVst (d a : BitVec 5) (o : BitVec 12) (s : State) : Out :=
  s.plain (s.storing (fun s => s.finish s.me) (s.withAcc 1 64 (s.ea a o 64) false fun acc s =>
    s.storeAll ((wordsOf acc).map fun e => (e.2, (s.me.rv d).extractLsb' (64 * e.1) 64)) fun s => s.finish s.me))

/-! ### Elements (17 R223, R227 to R229) -/

/-- Element i of width w. -/
def elGet (v : Vec) (w i : Nat) : Nat :=
  v.toNat / 2 ^ (w * i) % 2 ^ w

/-- Replace element i of width w. -/
def elPut (v : Vec) (w i x : Nat) : Vec :=
  (v &&& ~~~(BitVec.ofNat 512 (2 ^ w - 1) <<< (w * i))) ||| (BitVec.ofNat 512 (x % 2 ^ w) <<< (w * i))

/-- The lane that governs element i of width w. -/
def laneOf (w i : Nat) : Nat :=
  w * i / 32

/-- The active elements of width w under a predicate. -/
def activeEls (w : Nat) (m : Mask) : List Nat :=
  (List.range (512 / w)).filter fun i => m.getLsbD (laneOf w i)

/-- The lanes that active elements of 32 or 64 bits occupy. -/
def lanesOf (w : Nat) (m : Mask) : Mask :=
  if w = 64 then (List.range 8).foldl (fun r i => if m.getLsbD (2 * i) then r ||| (3 <<< (2 * i)) else r) 0 else m

/-- The row of 17 R224 for VMEM; FC's width is the element's. -/
def vmemFmt (p : Pfx) : Bool :=
  decide (p.fa = 0 ∧ p.fb = 0 ∧ (p.fc = 0 ∨ p.fc = 4 ∨ p.fc = 6 ∨ p.fc = 14 ∨ p.fc = 5) ∧ p.rm = 0 ∧ p.sat = false ∧ p.scm = 0)

/-- The element width in bits. -/
def vmemWidth (p : Pfx) : Nat :=
  if p.fc = 5 then 64 else 32

/-- Addresses by an index vector and by a stride (17 R228). -/
def State.gatherEas (s : State) (a b : BitVec 5) (w : Nat) (m : Mask) : List (Nat × Word) :=
  (activeEls w m).map fun i => (i, s.me.rx a + sextNat (elGet (s.me.rv b) w i) w * BitVec.ofNat 64 (w / 8))

def State.strideEas (s : State) (a b : BitVec 5) (w : Nat) (m : Mask) : List (Nat × Word) :=
  (activeEls w m).map fun i => (i, s.me.rx a + BitVec.ofNat 64 i * s.me.rx b)

/-- A gather or strided load. -/
def State.vloadEls (s : State) (d : BitVec 5) (l : BitVec 4) (k : BitVec 3) (eas : Nat → Mask → List (Nat × Word)) : Out :=
  s.accepts vmemFmt fun p =>
    let w := vmemWidth p
    let m := s.me.rk k
    s.withElems 0 (w / 8) (eas w m) fun es s =>
      .next (s.openWin s.me (.v d) (lanesOf w m) l (.vec (freshEls es) w) none)

/-- A scatter or strided store. -/
def State.vstoreEls (s : State) (d : BitVec 5) (k : BitVec 3) (eas : Nat → Mask → List (Nat × Word)) : Out :=
  s.accepts vmemFmt fun p =>
    let w := vmemWidth p
    s.storing (fun s => s.finish s.me) (s.withElems 1 (w / 8) (eas w (s.me.rk k)) fun es s =>
      s.storeAll (es.map fun e => (e.2, BitVec.ofNat 64 (elGet (s.me.rv d) w e.1))) fun s => s.finish s.me)

def execVgather (d a b : BitVec 5) (l : BitVec 4) (_q : BitVec 1) (k : BitVec 3) (s : State) : Out := s.vloadEls d l k (s.gatherEas a b)
def execVscatter (d a b : BitVec 5) (_q : BitVec 1) (k : BitVec 3) (s : State) : Out := s.vstoreEls d k (s.gatherEas a b)
def execVlds (d a b : BitVec 5) (l : BitVec 4) (_q : BitVec 1) (k : BitVec 3) (s : State) : Out := s.vloadEls d l k (s.strideEas a b)
def execVsts (d a b : BitVec 5) (_q : BitVec 1) (k : BitVec 3) (s : State) : Out := s.vstoreEls d k (s.strideEas a b)

end Sys2Proof.Machine
end

