-- ==== Sys2Proof/Machine/Atomic.lean ====
section
/-! DEFINITION. Atomics (12 R166 to R170): they issue here, are performed at their home by ATOMIC_AT_HOME, and land by RESULT_LANDS. -/

namespace Sys2Proof.Machine

/-- An atomic of operation `op` and `size` bytes; only add, swap and cas are permitted at the host (08 R113). -/
def State.atomic (s : State) (size : Nat) (op : BitVec 3) (d a b : BitVec 5) (o : BitVec 1) (sc : BitVec 3) (l : BitVec 4) : Out :=
  s.plain (s.withAcc 2 size (s.me.rx a) (decide (op = 0 ∨ op = 6 ∨ op = 7)) fun acc s =>
    if s.pendFull acc then .next s.stall
    else .next (s.openWin s.me (.x d) 0xFFFF l
      (.atomic acc op (s.me.rx b) (s.me.rx d) (if o = 1 then some sc.toNat else none) none) none))

def execAt32Add (d a b : BitVec 5) (o : BitVec 1) (sc : BitVec 3) (l : BitVec 4) (s : State) : Out := s.atomic 4 0 d a b o sc l
def execAt32And (d a b : BitVec 5) (o : BitVec 1) (sc : BitVec 3) (l : BitVec 4) (s : State) : Out := s.atomic 4 1 d a b o sc l
def execAt32Or (d a b : BitVec 5) (o : BitVec 1) (sc : BitVec 3) (l : BitVec 4) (s : State) : Out := s.atomic 4 2 d a b o sc l
def execAt32Xor (d a b : BitVec 5) (o : BitVec 1) (sc : BitVec 3) (l : BitVec 4) (s : State) : Out := s.atomic 4 3 d a b o sc l
def execAt32Max (d a b : BitVec 5) (o : BitVec 1) (sc : BitVec 3) (l : BitVec 4) (s : State) : Out := s.atomic 4 4 d a b o sc l
def execAt32Min (d a b : BitVec 5) (o : BitVec 1) (sc : BitVec 3) (l : BitVec 4) (s : State) : Out := s.atomic 4 5 d a b o sc l
def execAt32Swap (d a b : BitVec 5) (o : BitVec 1) (sc : BitVec 3) (l : BitVec 4) (s : State) : Out := s.atomic 4 6 d a b o sc l
def execAt32Cas (d a b : BitVec 5) (o : BitVec 1) (sc : BitVec 3) (l : BitVec 4) (s : State) : Out := s.atomic 4 7 d a b o sc l
def execAt64Add (d a b : BitVec 5) (o : BitVec 1) (sc : BitVec 3) (l : BitVec 4) (s : State) : Out := s.atomic 8 0 d a b o sc l
def execAt64And (d a b : BitVec 5) (o : BitVec 1) (sc : BitVec 3) (l : BitVec 4) (s : State) : Out := s.atomic 8 1 d a b o sc l
def execAt64Or (d a b : BitVec 5) (o : BitVec 1) (sc : BitVec 3) (l : BitVec 4) (s : State) : Out := s.atomic 8 2 d a b o sc l
def execAt64Xor (d a b : BitVec 5) (o : BitVec 1) (sc : BitVec 3) (l : BitVec 4) (s : State) : Out := s.atomic 8 3 d a b o sc l
def execAt64Max (d a b : BitVec 5) (o : BitVec 1) (sc : BitVec 3) (l : BitVec 4) (s : State) : Out := s.atomic 8 4 d a b o sc l
def execAt64Min (d a b : BitVec 5) (o : BitVec 1) (sc : BitVec 3) (l : BitVec 4) (s : State) : Out := s.atomic 8 5 d a b o sc l
def execAt64Swap (d a b : BitVec 5) (o : BitVec 1) (sc : BitVec 3) (l : BitVec 4) (s : State) : Out := s.atomic 8 6 d a b o sc l
def execAt64Cas (d a b : BitVec 5) (o : BitVec 1) (sc : BitVec 3) (l : BitVec 4) (s : State) : Out := s.atomic 8 7 d a b o sc l

/-- The value an atomic writes, or none where it writes nothing (12 R166, R170). -/
def atomicNew (size : Nat) (op : BitVec 3) (old b e : Nat) : Option Nat :=
  let w := 8 * size
  let m := 2 ^ w
  let b := b % m
  let e := e % m
  let sg := fun x : Nat => if m / 2 ≤ x then (x : Int) - m else (x : Int)
  match op.toNat with
  | 0 => some ((old + b) % m)
  | 1 => some (old &&& b)
  | 2 => some (old ||| b)
  | 3 => some (old ^^^ b)
  | 4 => some (if sg old < sg b then b else old)
  | 5 => some (if sg b < sg old then b else old)
  | 6 => some b
  | _ => if old = e then some b else none

end Sys2Proof.Machine
end

