-- ==== Sys2Proof/WellFormed.lean ====
section
/-! DEFINITION. The operand limits of an instruction beyond its fixed bits (11 R127, R130 and the owning chapters):
a word that breaks one is illegal. The CSR map is 14 R205. -/

namespace Sys2Proof

/-- The access of a CSR number: none where no CSR occupies it (14 R205). -/
inductive CsrAccess where
  | none
  | r
  | rw
  | ri
  deriving DecidableEq, Repr

/-- The access column of the CSR map (14 R205). -/
def csrAccess (n : BitVec 12) : CsrAccess :=
  match n.toNat with
  | 0x000 | 0x001 | 0x002 | 0x003 | 0x101 | 0x103 => .r
  | 0x004 | 0x005 | 0x006 | 0x007 | 0x008 | 0x009 | 0x00A | 0x00B | 0x00C | 0x00D | 0x00E => .rw
  | 0x040 | 0x041 | 0x042 | 0x043 | 0x100 | 0x102 | 0x104 => .rw
  | 0x110 | 0x111 | 0x112 | 0x113 | 0x114 | 0x115 | 0x116 | 0x117 => .ri
  | _ => .none

/-- A write, set or clear is legal on RW and RI CSRs (14 R204). -/
def csrWritable (n : BitVec 12) : Bool :=
  csrAccess n = .rw ∨ csrAccess n = .ri

/-- BSET shifts by at most 12 (26 R338). -/
def bsetOk (s : BitVec 4) : Bool := s.toNat ≤ 12

/-- BLDA: 1 to 256 lines, inside the buffer (26 R338). -/
def bldaOk (l : BitVec 12) (o : BitVec 8) : Bool := l ≠ 0 ∧ o.toNat + l.toNat ≤ 256

/-- BLDA.p: at most the four lines of the payload (26 R338). -/
def bldaPOk (l : BitVec 12) (o : BitVec 8) : Bool := l ≠ 0 ∧ l.toNat ≤ 4 ∧ o.toNat + l.toNat ≤ 256

/-- BFMT's legal codes; SCM and NOSC exclude each other (26 R338, R339). -/
def bfmtOk (a b c : BitVec 4) (r m : BitVec 3) (n : BitVec 1) : Bool :=
  (a = 0 ∨ a = 1 ∨ a = 11 ∨ a = 12) ∧ (b = 0 ∨ b = 1 ∨ b = 7) ∧ (c.toNat ≤ 11 ∨ c = 14) ∧ r.toNat ≤ 5 ∧
    m.toNat ≤ 4 ∧ (m = 0 ∨ n = 0)

/-- The operand limits, instruction by instruction: an atomic without .ar has SC = 0 (12 R169); a register fence names a
register (12 R172); quads are x4 to x28 (18 R253, 22 R286, 26 R327, 24 R311); pairs are x2 to x30 (24 R311); CVSPLIT's
result lies outside its quad (24 R311); VVIS writes k2, k4 or k6 (20 R271); CSR numbers (11 R130, 14 R204); the FMT codes
(06 R76); the bank-code limits (26 R337 to R339). -/
def Instr.wf (i : Instr) : Bool :=
  match i with
  | .at32Add _ _ _ o s _ => o = 1 ∨ s = 0
  | .at32And _ _ _ o s _ => o = 1 ∨ s = 0
  | .at32Or _ _ _ o s _ => o = 1 ∨ s = 0
  | .at32Xor _ _ _ o s _ => o = 1 ∨ s = 0
  | .at32Max _ _ _ o s _ => o = 1 ∨ s = 0
  | .at32Min _ _ _ o s _ => o = 1 ∨ s = 0
  | .at32Swap _ _ _ o s _ => o = 1 ∨ s = 0
  | .at32Cas _ _ _ o s _ => o = 1 ∨ s = 0
  | .at64Add _ _ _ o s _ => o = 1 ∨ s = 0
  | .at64And _ _ _ o s _ => o = 1 ∨ s = 0
  | .at64Or _ _ _ o s _ => o = 1 ∨ s = 0
  | .at64Xor _ _ _ o s _ => o = 1 ∨ s = 0
  | .at64Max _ _ _ o s _ => o = 1 ∨ s = 0
  | .at64Min _ _ _ o s _ => o = 1 ∨ s = 0
  | .at64Swap _ _ _ o s _ => o = 1 ∨ s = 0
  | .at64Cas _ _ _ o s _ => o = 1 ∨ s = 0
  | .fenceAcqReg a => a ≠ 0
  | .fenceRelReg a => a ≠ 0
  | .fenceArReg a => a ≠ 0
  | .fenceScReg a => a ≠ 0
  | .copy a | .mxres a => a ≠ 0
  | .copyt _ a | .bkpush _ a | .mxgo _ a | .mxdrain _ a => a ≠ 0
  | .cvsplit d a _ => a ≠ 0 ∧ d.toNat / 4 ≠ a.toNat
  | .cvin _ _ b | .cvnext _ _ b | .cvprev _ _ b => b ≠ 0
  | .vcvin _ _ b _ _ => b ≠ 0
  | .vvis d _ _ => d ≠ 0
  | .csrr _ c => csrAccess c ≠ .none
  | .csrw _ _ c | .csrs _ _ c | .csrc _ _ c => csrWritable c
  | .fmt a b c r _ m => a ≠ 15 ∧ b ≠ 15 ∧ c ≠ 15 ∧ r ≠ 6 ∧ r ≠ 7 ∧ m.toNat ≤ 4
  | .bset _ s _ => bsetOk s
  | .blda _ _ l o => bldaOk l o
  | .bldaP _ l o => bldaPOk l o
  | .brow m _ _ _ _ => m ≠ 0
  | .bscl m _ _ _ => m ≠ 0
  | .bwr m _ _ _ => m ≠ 0
  | .bloop _ s => s ≠ 0
  | .bfmt a b c r _ m n => bfmtOk a b c r m n
  | _ => true

end Sys2Proof
end

