-- ==== Sys2Proof/Decode.lean ====
section
/-! DEFINITION. Decoding and encoding. A Jihar instruction is one little-endian 32-bit word whose major is bits 31:26
(11 R125, R126, R129); a word that no row assigns, or with a nonzero reserved field, is refused (11 R130), here `none`.
A bank-code word is decoded by its own table (26 R337, R338) and is never a Jihar word (11 R154). -/

namespace Sys2Proof

/-- Major 0x00, selected by bits 10:4 (R156, R157). -/
def decodeAlu (w : BitVec 32) : Option Instr :=
  match (w.extractLsb' 4 7).toNat with
  | 1 => if w.extractLsb' 0 4 = 0 then some (.add (w.extractLsb' 21 5) (w.extractLsb' 16 5) (w.extractLsb' 11 5)) else none
  | 2 => if w.extractLsb' 0 4 = 0 then some (.sub (w.extractLsb' 21 5) (w.extractLsb' 16 5) (w.extractLsb' 11 5)) else none
  | 3 => if w.extractLsb' 0 4 = 0 then some (.and (w.extractLsb' 21 5) (w.extractLsb' 16 5) (w.extractLsb' 11 5)) else none
  | 4 => if w.extractLsb' 0 4 = 0 then some (.or (w.extractLsb' 21 5) (w.extractLsb' 16 5) (w.extractLsb' 11 5)) else none
  | 5 => if w.extractLsb' 0 4 = 0 then some (.xor (w.extractLsb' 21 5) (w.extractLsb' 16 5) (w.extractLsb' 11 5)) else none
  | 6 => if w.extractLsb' 0 4 = 0 then some (.andn (w.extractLsb' 21 5) (w.extractLsb' 16 5) (w.extractLsb' 11 5)) else none
  | 7 => if w.extractLsb' 0 4 = 0 then some (.sll (w.extractLsb' 21 5) (w.extractLsb' 16 5) (w.extractLsb' 11 5)) else none
  | 8 => if w.extractLsb' 0 4 = 0 then some (.srl (w.extractLsb' 21 5) (w.extractLsb' 16 5) (w.extractLsb' 11 5)) else none
  | 9 => if w.extractLsb' 0 4 = 0 then some (.sra (w.extractLsb' 21 5) (w.extractLsb' 16 5) (w.extractLsb' 11 5)) else none
  | 10 => if w.extractLsb' 0 4 = 0 then some (.ror (w.extractLsb' 21 5) (w.extractLsb' 16 5) (w.extractLsb' 11 5)) else none
  | 11 => if w.extractLsb' 0 4 = 0 then some (.slt (w.extractLsb' 21 5) (w.extractLsb' 16 5) (w.extractLsb' 11 5)) else none
  | 12 => if w.extractLsb' 0 4 = 0 then some (.sltu (w.extractLsb' 21 5) (w.extractLsb' 16 5) (w.extractLsb' 11 5)) else none
  | 13 => if w.extractLsb' 0 4 = 0 then some (.min (w.extractLsb' 21 5) (w.extractLsb' 16 5) (w.extractLsb' 11 5)) else none
  | 14 => if w.extractLsb' 0 4 = 0 then some (.max (w.extractLsb' 21 5) (w.extractLsb' 16 5) (w.extractLsb' 11 5)) else none
  | 15 => if w.extractLsb' 0 4 = 0 then some (.minu (w.extractLsb' 21 5) (w.extractLsb' 16 5) (w.extractLsb' 11 5)) else none
  | 16 => if w.extractLsb' 0 4 = 0 then some (.maxu (w.extractLsb' 21 5) (w.extractLsb' 16 5) (w.extractLsb' 11 5)) else none
  | 17 => if w.extractLsb' 0 4 = 0 then some (.mul (w.extractLsb' 21 5) (w.extractLsb' 16 5) (w.extractLsb' 11 5)) else none
  | 18 => if w.extractLsb' 0 4 = 0 then some (.mulh (w.extractLsb' 21 5) (w.extractLsb' 16 5) (w.extractLsb' 11 5)) else none
  | 19 => if w.extractLsb' 0 4 = 0 then some (.mulhu (w.extractLsb' 21 5) (w.extractLsb' 16 5) (w.extractLsb' 11 5)) else none
  | 20 => some (.div (w.extractLsb' 21 5) (w.extractLsb' 16 5) (w.extractLsb' 11 5) (w.extractLsb' 0 4))
  | 21 => some (.divu (w.extractLsb' 21 5) (w.extractLsb' 16 5) (w.extractLsb' 11 5) (w.extractLsb' 0 4))
  | 22 => some (.rem (w.extractLsb' 21 5) (w.extractLsb' 16 5) (w.extractLsb' 11 5) (w.extractLsb' 0 4))
  | 23 => some (.remu (w.extractLsb' 21 5) (w.extractLsb' 16 5) (w.extractLsb' 11 5) (w.extractLsb' 0 4))
  | 24 => if w.extractLsb' 0 4 = 0 ∧ w.extractLsb' 11 5 = 0 then some (.clz (w.extractLsb' 21 5) (w.extractLsb' 16 5)) else none
  | 25 => if w.extractLsb' 0 4 = 0 ∧ w.extractLsb' 11 5 = 0 then some (.ctz (w.extractLsb' 21 5) (w.extractLsb' 16 5)) else none
  | 26 => if w.extractLsb' 0 4 = 0 ∧ w.extractLsb' 11 5 = 0 then some (.popc (w.extractLsb' 21 5) (w.extractLsb' 16 5)) else none
  | _ => none

/-- Major 0x07, selected by bits 7:6 (R159). -/
def decodeShi (w : BitVec 32) : Option Instr :=
  match (w.extractLsb' 6 2).toNat with
  | 0 => if w.extractLsb' 8 8 = 0 then some (.shiSll (w.extractLsb' 21 5) (w.extractLsb' 16 5) (w.extractLsb' 0 6)) else none
  | 1 => if w.extractLsb' 8 8 = 0 then some (.shiSrl (w.extractLsb' 21 5) (w.extractLsb' 16 5) (w.extractLsb' 0 6)) else none
  | 2 => if w.extractLsb' 8 8 = 0 then some (.shiSra (w.extractLsb' 21 5) (w.extractLsb' 16 5) (w.extractLsb' 0 6)) else none
  | 3 => if w.extractLsb' 8 8 = 0 then some (.shiRor (w.extractLsb' 21 5) (w.extractLsb' 16 5) (w.extractLsb' 0 6)) else none
  | _ => none

/-- Major 0x1F, selected by bits 10:8 (R228). -/
def decodeVmem (w : BitVec 32) : Option Instr :=
  match (w.extractLsb' 8 3).toNat with
  | 0 => some (.vgather (w.extractLsb' 21 5) (w.extractLsb' 16 5) (w.extractLsb' 11 5) (w.extractLsb' 4 4) (w.extractLsb' 3 1) (w.extractLsb' 0 3))
  | 1 => if w.extractLsb' 4 4 = 0 then some (.vscatter (w.extractLsb' 21 5) (w.extractLsb' 16 5) (w.extractLsb' 11 5) (w.extractLsb' 3 1) (w.extractLsb' 0 3)) else none
  | 2 => some (.vlds (w.extractLsb' 21 5) (w.extractLsb' 16 5) (w.extractLsb' 11 5) (w.extractLsb' 4 4) (w.extractLsb' 3 1) (w.extractLsb' 0 3))
  | 3 => if w.extractLsb' 4 4 = 0 then some (.vsts (w.extractLsb' 21 5) (w.extractLsb' 16 5) (w.extractLsb' 11 5) (w.extractLsb' 3 1) (w.extractLsb' 0 3)) else none
  | _ => none

/-- Major 0x20, selected by bits 10:8 (R167). -/
def decodeAt32 (w : BitVec 32) : Option Instr :=
  match (w.extractLsb' 8 3).toNat with
  | 0 => some (.at32Add (w.extractLsb' 21 5) (w.extractLsb' 16 5) (w.extractLsb' 11 5) (w.extractLsb' 7 1) (w.extractLsb' 4 3) (w.extractLsb' 0 4))
  | 1 => some (.at32And (w.extractLsb' 21 5) (w.extractLsb' 16 5) (w.extractLsb' 11 5) (w.extractLsb' 7 1) (w.extractLsb' 4 3) (w.extractLsb' 0 4))
  | 2 => some (.at32Or (w.extractLsb' 21 5) (w.extractLsb' 16 5) (w.extractLsb' 11 5) (w.extractLsb' 7 1) (w.extractLsb' 4 3) (w.extractLsb' 0 4))
  | 3 => some (.at32Xor (w.extractLsb' 21 5) (w.extractLsb' 16 5) (w.extractLsb' 11 5) (w.extractLsb' 7 1) (w.extractLsb' 4 3) (w.extractLsb' 0 4))
  | 4 => some (.at32Max (w.extractLsb' 21 5) (w.extractLsb' 16 5) (w.extractLsb' 11 5) (w.extractLsb' 7 1) (w.extractLsb' 4 3) (w.extractLsb' 0 4))
  | 5 => some (.at32Min (w.extractLsb' 21 5) (w.extractLsb' 16 5) (w.extractLsb' 11 5) (w.extractLsb' 7 1) (w.extractLsb' 4 3) (w.extractLsb' 0 4))
  | 6 => some (.at32Swap (w.extractLsb' 21 5) (w.extractLsb' 16 5) (w.extractLsb' 11 5) (w.extractLsb' 7 1) (w.extractLsb' 4 3) (w.extractLsb' 0 4))
  | 7 => some (.at32Cas (w.extractLsb' 21 5) (w.extractLsb' 16 5) (w.extractLsb' 11 5) (w.extractLsb' 7 1) (w.extractLsb' 4 3) (w.extractLsb' 0 4))
  | _ => none

/-- Major 0x21, selected by bits 10:8 (R167). -/
def decodeAt64 (w : BitVec 32) : Option Instr :=
  match (w.extractLsb' 8 3).toNat with
  | 0 => some (.at64Add (w.extractLsb' 21 5) (w.extractLsb' 16 5) (w.extractLsb' 11 5) (w.extractLsb' 7 1) (w.extractLsb' 4 3) (w.extractLsb' 0 4))
  | 1 => some (.at64And (w.extractLsb' 21 5) (w.extractLsb' 16 5) (w.extractLsb' 11 5) (w.extractLsb' 7 1) (w.extractLsb' 4 3) (w.extractLsb' 0 4))
  | 2 => some (.at64Or (w.extractLsb' 21 5) (w.extractLsb' 16 5) (w.extractLsb' 11 5) (w.extractLsb' 7 1) (w.extractLsb' 4 3) (w.extractLsb' 0 4))
  | 3 => some (.at64Xor (w.extractLsb' 21 5) (w.extractLsb' 16 5) (w.extractLsb' 11 5) (w.extractLsb' 7 1) (w.extractLsb' 4 3) (w.extractLsb' 0 4))
  | 4 => some (.at64Max (w.extractLsb' 21 5) (w.extractLsb' 16 5) (w.extractLsb' 11 5) (w.extractLsb' 7 1) (w.extractLsb' 4 3) (w.extractLsb' 0 4))
  | 5 => some (.at64Min (w.extractLsb' 21 5) (w.extractLsb' 16 5) (w.extractLsb' 11 5) (w.extractLsb' 7 1) (w.extractLsb' 4 3) (w.extractLsb' 0 4))
  | 6 => some (.at64Swap (w.extractLsb' 21 5) (w.extractLsb' 16 5) (w.extractLsb' 11 5) (w.extractLsb' 7 1) (w.extractLsb' 4 3) (w.extractLsb' 0 4))
  | 7 => some (.at64Cas (w.extractLsb' 21 5) (w.extractLsb' 16 5) (w.extractLsb' 11 5) (w.extractLsb' 7 1) (w.extractLsb' 4 3) (w.extractLsb' 0 4))
  | _ => none

/-- Major 0x22: the SYNC functions; a fence with A = 0 takes its scope from B, else from x[A] (12 R171, R172). -/
def decodeSync (w : BitVec 32) : Option Instr :=
  match (w.extractLsb' 4 7).toNat with
  | 1 => if w.extractLsb' 16 5 = 0 then if w.extractLsb' 0 4 = 0 ∧ w.extractLsb' 14 2 = 0 ∧ w.extractLsb' 21 5 = 0 then some (.fenceAcq (w.extractLsb' 11 3)) else none
         else if w.extractLsb' 0 4 = 0 ∧ w.extractLsb' 11 5 = 0 ∧ w.extractLsb' 21 5 = 0 then some (.fenceAcqReg (w.extractLsb' 16 5)) else none
  | 2 => if w.extractLsb' 16 5 = 0 then if w.extractLsb' 0 4 = 0 ∧ w.extractLsb' 14 2 = 0 ∧ w.extractLsb' 21 5 = 0 then some (.fenceRel (w.extractLsb' 11 3)) else none
         else if w.extractLsb' 0 4 = 0 ∧ w.extractLsb' 11 5 = 0 ∧ w.extractLsb' 21 5 = 0 then some (.fenceRelReg (w.extractLsb' 16 5)) else none
  | 3 => if w.extractLsb' 16 5 = 0 then if w.extractLsb' 0 4 = 0 ∧ w.extractLsb' 14 2 = 0 ∧ w.extractLsb' 21 5 = 0 then some (.fenceAr (w.extractLsb' 11 3)) else none
         else if w.extractLsb' 0 4 = 0 ∧ w.extractLsb' 11 5 = 0 ∧ w.extractLsb' 21 5 = 0 then some (.fenceArReg (w.extractLsb' 16 5)) else none
  | 4 => if w.extractLsb' 16 5 = 0 then if w.extractLsb' 0 4 = 0 ∧ w.extractLsb' 14 2 = 0 ∧ w.extractLsb' 21 5 = 0 then some (.fenceSc (w.extractLsb' 11 3)) else none
         else if w.extractLsb' 0 4 = 0 ∧ w.extractLsb' 11 5 = 0 ∧ w.extractLsb' 21 5 = 0 then some (.fenceScReg (w.extractLsb' 16 5)) else none
  | 5 => if w.extractLsb' 14 2 = 0 then some (.lda32 (w.extractLsb' 21 5) (w.extractLsb' 16 5) (w.extractLsb' 11 3) (w.extractLsb' 0 4)) else none
  | 6 => if w.extractLsb' 14 2 = 0 then some (.lda64 (w.extractLsb' 21 5) (w.extractLsb' 16 5) (w.extractLsb' 11 3) (w.extractLsb' 0 4)) else none
  | 7 => if w.extractLsb' 0 4 = 0 ∧ w.extractLsb' 14 2 = 0 then some (.stl32 (w.extractLsb' 21 5) (w.extractLsb' 16 5) (w.extractLsb' 11 3)) else none
  | 8 => if w.extractLsb' 0 4 = 0 ∧ w.extractLsb' 14 2 = 0 then some (.stl64 (w.extractLsb' 21 5) (w.extractLsb' 16 5) (w.extractLsb' 11 3)) else none
  | 9 => if w.extractLsb' 0 4 = 0 then some (.scope (w.extractLsb' 21 5) (w.extractLsb' 16 5) (w.extractLsb' 11 5)) else none
  | _ => none

/-- Major 0x23, selected by bits 10:4 (R177). -/
def decodeLock (w : BitVec 32) : Option Instr :=
  match (w.extractLsb' 4 7).toNat with
  | 1 => if w.extractLsb' 11 5 = 0 then some (.ldl (w.extractLsb' 21 5) (w.extractLsb' 16 5) (w.extractLsb' 0 4)) else none
  | 2 => if w.extractLsb' 0 4 = 0 then some (.stu (w.extractLsb' 21 5) (w.extractLsb' 16 5) (w.extractLsb' 11 5)) else none
  | _ => none

/-- Major 0x24, selected by bits 10:4 (R230, R231). -/
def decodeVint (w : BitVec 32) : Option Instr :=
  match (w.extractLsb' 4 7).toNat with
  | 1 => some (.vadd (w.extractLsb' 21 5) (w.extractLsb' 16 5) (w.extractLsb' 11 5) (w.extractLsb' 3 1) (w.extractLsb' 0 3))
  | 2 => some (.vsub (w.extractLsb' 21 5) (w.extractLsb' 16 5) (w.extractLsb' 11 5) (w.extractLsb' 3 1) (w.extractLsb' 0 3))
  | 3 => some (.vmul (w.extractLsb' 21 5) (w.extractLsb' 16 5) (w.extractLsb' 11 5) (w.extractLsb' 3 1) (w.extractLsb' 0 3))
  | 4 => some (.vmulh (w.extractLsb' 21 5) (w.extractLsb' 16 5) (w.extractLsb' 11 5) (w.extractLsb' 3 1) (w.extractLsb' 0 3))
  | 5 => some (.vadds (w.extractLsb' 21 5) (w.extractLsb' 16 5) (w.extractLsb' 11 5) (w.extractLsb' 3 1) (w.extractLsb' 0 3))
  | 6 => some (.vsubs (w.extractLsb' 21 5) (w.extractLsb' 16 5) (w.extractLsb' 11 5) (w.extractLsb' 3 1) (w.extractLsb' 0 3))
  | 7 => some (.vand (w.extractLsb' 21 5) (w.extractLsb' 16 5) (w.extractLsb' 11 5) (w.extractLsb' 3 1) (w.extractLsb' 0 3))
  | 8 => some (.vor (w.extractLsb' 21 5) (w.extractLsb' 16 5) (w.extractLsb' 11 5) (w.extractLsb' 3 1) (w.extractLsb' 0 3))
  | 9 => some (.vxor (w.extractLsb' 21 5) (w.extractLsb' 16 5) (w.extractLsb' 11 5) (w.extractLsb' 3 1) (w.extractLsb' 0 3))
  | 10 => some (.vsll (w.extractLsb' 21 5) (w.extractLsb' 16 5) (w.extractLsb' 11 5) (w.extractLsb' 3 1) (w.extractLsb' 0 3))
  | 11 => some (.vsrl (w.extractLsb' 21 5) (w.extractLsb' 16 5) (w.extractLsb' 11 5) (w.extractLsb' 3 1) (w.extractLsb' 0 3))
  | 12 => some (.vsra (w.extractLsb' 21 5) (w.extractLsb' 16 5) (w.extractLsb' 11 5) (w.extractLsb' 3 1) (w.extractLsb' 0 3))
  | 13 => some (.vmin (w.extractLsb' 21 5) (w.extractLsb' 16 5) (w.extractLsb' 11 5) (w.extractLsb' 3 1) (w.extractLsb' 0 3))
  | 14 => some (.vmax (w.extractLsb' 21 5) (w.extractLsb' 16 5) (w.extractLsb' 11 5) (w.extractLsb' 3 1) (w.extractLsb' 0 3))
  | 15 => some (.vminu (w.extractLsb' 21 5) (w.extractLsb' 16 5) (w.extractLsb' 11 5) (w.extractLsb' 3 1) (w.extractLsb' 0 3))
  | 16 => some (.vmaxu (w.extractLsb' 21 5) (w.extractLsb' 16 5) (w.extractLsb' 11 5) (w.extractLsb' 3 1) (w.extractLsb' 0 3))
  | 17 => some (.vsel (w.extractLsb' 21 5) (w.extractLsb' 16 5) (w.extractLsb' 11 5) (w.extractLsb' 3 1) (w.extractLsb' 0 3))
  | 24 => if w.extractLsb' 24 2 = 0 then some (.vcmpEq (w.extractLsb' 21 3) (w.extractLsb' 16 5) (w.extractLsb' 11 5) (w.extractLsb' 3 1) (w.extractLsb' 0 3)) else none
  | 25 => if w.extractLsb' 24 2 = 0 then some (.vcmpNe (w.extractLsb' 21 3) (w.extractLsb' 16 5) (w.extractLsb' 11 5) (w.extractLsb' 3 1) (w.extractLsb' 0 3)) else none
  | 26 => if w.extractLsb' 24 2 = 0 then some (.vcmpLt (w.extractLsb' 21 3) (w.extractLsb' 16 5) (w.extractLsb' 11 5) (w.extractLsb' 3 1) (w.extractLsb' 0 3)) else none
  | 27 => if w.extractLsb' 24 2 = 0 then some (.vcmpLe (w.extractLsb' 21 3) (w.extractLsb' 16 5) (w.extractLsb' 11 5) (w.extractLsb' 3 1) (w.extractLsb' 0 3)) else none
  | 28 => if w.extractLsb' 24 2 = 0 then some (.vcmpLtu (w.extractLsb' 21 3) (w.extractLsb' 16 5) (w.extractLsb' 11 5) (w.extractLsb' 3 1) (w.extractLsb' 0 3)) else none
  | 29 => if w.extractLsb' 24 2 = 0 then some (.vcmpLeu (w.extractLsb' 21 3) (w.extractLsb' 16 5) (w.extractLsb' 11 5) (w.extractLsb' 3 1) (w.extractLsb' 0 3)) else none
  | _ => none

/-- Major 0x25, selected by bits 10:4 (R232, R233). -/
def decodeVflt (w : BitVec 32) : Option Instr :=
  match (w.extractLsb' 4 7).toNat with
  | 1 => some (.vfadd (w.extractLsb' 21 5) (w.extractLsb' 16 5) (w.extractLsb' 11 5) (w.extractLsb' 3 1) (w.extractLsb' 0 3))
  | 2 => some (.vfsub (w.extractLsb' 21 5) (w.extractLsb' 16 5) (w.extractLsb' 11 5) (w.extractLsb' 3 1) (w.extractLsb' 0 3))
  | 3 => some (.vfmul (w.extractLsb' 21 5) (w.extractLsb' 16 5) (w.extractLsb' 11 5) (w.extractLsb' 3 1) (w.extractLsb' 0 3))
  | 4 => some (.vfma (w.extractLsb' 21 5) (w.extractLsb' 16 5) (w.extractLsb' 11 5) (w.extractLsb' 3 1) (w.extractLsb' 0 3))
  | 5 => some (.vfms (w.extractLsb' 21 5) (w.extractLsb' 16 5) (w.extractLsb' 11 5) (w.extractLsb' 3 1) (w.extractLsb' 0 3))
  | 6 => some (.vfdiv (w.extractLsb' 21 5) (w.extractLsb' 16 5) (w.extractLsb' 11 5) (w.extractLsb' 3 1) (w.extractLsb' 0 3))
  | 7 => if w.extractLsb' 11 5 = 0 then some (.vfsqrt (w.extractLsb' 21 5) (w.extractLsb' 16 5) (w.extractLsb' 3 1) (w.extractLsb' 0 3)) else none
  | 8 => some (.vfmin (w.extractLsb' 21 5) (w.extractLsb' 16 5) (w.extractLsb' 11 5) (w.extractLsb' 3 1) (w.extractLsb' 0 3))
  | 9 => some (.vfmax (w.extractLsb' 21 5) (w.extractLsb' 16 5) (w.extractLsb' 11 5) (w.extractLsb' 3 1) (w.extractLsb' 0 3))
  | 10 => if w.extractLsb' 11 5 = 0 then some (.vfabs (w.extractLsb' 21 5) (w.extractLsb' 16 5) (w.extractLsb' 3 1) (w.extractLsb' 0 3)) else none
  | 11 => if w.extractLsb' 11 5 = 0 then some (.vfneg (w.extractLsb' 21 5) (w.extractLsb' 16 5) (w.extractLsb' 3 1) (w.extractLsb' 0 3)) else none
  | 16 => if w.extractLsb' 24 2 = 0 then some (.vfcmpEq (w.extractLsb' 21 3) (w.extractLsb' 16 5) (w.extractLsb' 11 5) (w.extractLsb' 3 1) (w.extractLsb' 0 3)) else none
  | 17 => if w.extractLsb' 24 2 = 0 then some (.vfcmpNe (w.extractLsb' 21 3) (w.extractLsb' 16 5) (w.extractLsb' 11 5) (w.extractLsb' 3 1) (w.extractLsb' 0 3)) else none
  | 18 => if w.extractLsb' 24 2 = 0 then some (.vfcmpLt (w.extractLsb' 21 3) (w.extractLsb' 16 5) (w.extractLsb' 11 5) (w.extractLsb' 3 1) (w.extractLsb' 0 3)) else none
  | 19 => if w.extractLsb' 24 2 = 0 then some (.vfcmpLe (w.extractLsb' 21 3) (w.extractLsb' 16 5) (w.extractLsb' 11 5) (w.extractLsb' 3 1) (w.extractLsb' 0 3)) else none
  | 20 => if w.extractLsb' 24 2 = 0 then some (.vfcmpUn (w.extractLsb' 21 3) (w.extractLsb' 16 5) (w.extractLsb' 11 5) (w.extractLsb' 3 1) (w.extractLsb' 0 3)) else none
  | _ => none

/-- Major 0x26, selected by bits 10:4 (R235, R236, R237, R238, R239, R240). -/
def decodeVxl (w : BitVec 32) : Option Instr :=
  match (w.extractLsb' 4 7).toNat with
  | 1 => some (.vperm (w.extractLsb' 21 5) (w.extractLsb' 16 5) (w.extractLsb' 11 5) (w.extractLsb' 3 1) (w.extractLsb' 0 3))
  | 2 => if w.extractLsb' 11 5 = 0 then some (.vbcast (w.extractLsb' 21 5) (w.extractLsb' 16 5) (w.extractLsb' 3 1) (w.extractLsb' 0 3)) else none
  | 3 => if w.extractLsb' 0 3 = 0 then some (.vextr (w.extractLsb' 21 5) (w.extractLsb' 16 5) (w.extractLsb' 11 5) (w.extractLsb' 3 1)) else none
  | 4 => if w.extractLsb' 0 3 = 0 then some (.vinsr (w.extractLsb' 21 5) (w.extractLsb' 16 5) (w.extractLsb' 11 5) (w.extractLsb' 3 1)) else none
  | 5 => if w.extractLsb' 11 5 = 0 then some (.vsort (w.extractLsb' 21 5) (w.extractLsb' 16 5) (w.extractLsb' 3 1) (w.extractLsb' 0 3)) else none
  | 6 => if w.extractLsb' 11 5 = 0 then some (.vcompr (w.extractLsb' 21 5) (w.extractLsb' 16 5) (w.extractLsb' 3 1) (w.extractLsb' 0 3)) else none
  | 7 => some (.vdot4 (w.extractLsb' 21 5) (w.extractLsb' 16 5) (w.extractLsb' 11 5) (w.extractLsb' 3 1) (w.extractLsb' 0 3))
  | 8 => some (.vfdot (w.extractLsb' 21 5) (w.extractLsb' 16 5) (w.extractLsb' 11 5) (w.extractLsb' 3 1) (w.extractLsb' 0 3))
  | 9 => if w.extractLsb' 0 3 = 0 ∧ w.extractLsb' 14 2 = 0 ∧ w.extractLsb' 19 2 = 0 ∧ w.extractLsb' 24 2 = 0 then some (.kand (w.extractLsb' 21 3) (w.extractLsb' 16 3) (w.extractLsb' 11 3) (w.extractLsb' 3 1)) else none
  | 10 => if w.extractLsb' 0 3 = 0 ∧ w.extractLsb' 14 2 = 0 ∧ w.extractLsb' 19 2 = 0 ∧ w.extractLsb' 24 2 = 0 then some (.kor (w.extractLsb' 21 3) (w.extractLsb' 16 3) (w.extractLsb' 11 3) (w.extractLsb' 3 1)) else none
  | 11 => if w.extractLsb' 0 3 = 0 ∧ w.extractLsb' 14 2 = 0 ∧ w.extractLsb' 19 2 = 0 ∧ w.extractLsb' 24 2 = 0 then some (.kxor (w.extractLsb' 21 3) (w.extractLsb' 16 3) (w.extractLsb' 11 3) (w.extractLsb' 3 1)) else none
  | 12 => if w.extractLsb' 0 3 = 0 ∧ w.extractLsb' 11 5 = 0 ∧ w.extractLsb' 19 2 = 0 ∧ w.extractLsb' 24 2 = 0 then some (.knot (w.extractLsb' 21 3) (w.extractLsb' 16 3) (w.extractLsb' 3 1)) else none
  | 13 => if w.extractLsb' 0 3 = 0 ∧ w.extractLsb' 11 5 = 0 ∧ w.extractLsb' 24 2 = 0 then some (.klen (w.extractLsb' 21 3) (w.extractLsb' 16 5) (w.extractLsb' 3 1)) else none
  | 14 => if w.extractLsb' 0 3 = 0 ∧ w.extractLsb' 11 5 = 0 ∧ w.extractLsb' 19 2 = 0 then some (.kpop (w.extractLsb' 21 5) (w.extractLsb' 16 3) (w.extractLsb' 3 1)) else none
  | 16 => if w.extractLsb' 11 5 = 0 then some (.vredAdd (w.extractLsb' 21 5) (w.extractLsb' 16 5) (w.extractLsb' 3 1) (w.extractLsb' 0 3)) else none
  | 17 => if w.extractLsb' 11 5 = 0 then some (.vredMin (w.extractLsb' 21 5) (w.extractLsb' 16 5) (w.extractLsb' 3 1) (w.extractLsb' 0 3)) else none
  | 18 => if w.extractLsb' 11 5 = 0 then some (.vredMax (w.extractLsb' 21 5) (w.extractLsb' 16 5) (w.extractLsb' 3 1) (w.extractLsb' 0 3)) else none
  | 19 => if w.extractLsb' 11 5 = 0 then some (.vredMinu (w.extractLsb' 21 5) (w.extractLsb' 16 5) (w.extractLsb' 3 1) (w.extractLsb' 0 3)) else none
  | 20 => if w.extractLsb' 11 5 = 0 then some (.vredMaxu (w.extractLsb' 21 5) (w.extractLsb' 16 5) (w.extractLsb' 3 1) (w.extractLsb' 0 3)) else none
  | 21 => if w.extractLsb' 11 5 = 0 then some (.vredAnd (w.extractLsb' 21 5) (w.extractLsb' 16 5) (w.extractLsb' 3 1) (w.extractLsb' 0 3)) else none
  | 22 => if w.extractLsb' 11 5 = 0 then some (.vredOr (w.extractLsb' 21 5) (w.extractLsb' 16 5) (w.extractLsb' 3 1) (w.extractLsb' 0 3)) else none
  | 23 => if w.extractLsb' 11 5 = 0 then some (.vredXor (w.extractLsb' 21 5) (w.extractLsb' 16 5) (w.extractLsb' 3 1) (w.extractLsb' 0 3)) else none
  | 24 => if w.extractLsb' 11 5 = 0 then some (.vredFadd (w.extractLsb' 21 5) (w.extractLsb' 16 5) (w.extractLsb' 3 1) (w.extractLsb' 0 3)) else none
  | 25 => if w.extractLsb' 11 5 = 0 then some (.vredFmin (w.extractLsb' 21 5) (w.extractLsb' 16 5) (w.extractLsb' 3 1) (w.extractLsb' 0 3)) else none
  | 26 => if w.extractLsb' 11 5 = 0 then some (.vredFmax (w.extractLsb' 21 5) (w.extractLsb' 16 5) (w.extractLsb' 3 1) (w.extractLsb' 0 3)) else none
  | 32 => if w.extractLsb' 11 5 = 0 then some (.vscanAdd (w.extractLsb' 21 5) (w.extractLsb' 16 5) (w.extractLsb' 3 1) (w.extractLsb' 0 3)) else none
  | 33 => if w.extractLsb' 11 5 = 0 then some (.vscanMin (w.extractLsb' 21 5) (w.extractLsb' 16 5) (w.extractLsb' 3 1) (w.extractLsb' 0 3)) else none
  | 34 => if w.extractLsb' 11 5 = 0 then some (.vscanMax (w.extractLsb' 21 5) (w.extractLsb' 16 5) (w.extractLsb' 3 1) (w.extractLsb' 0 3)) else none
  | 35 => if w.extractLsb' 11 5 = 0 then some (.vscanFadd (w.extractLsb' 21 5) (w.extractLsb' 16 5) (w.extractLsb' 3 1) (w.extractLsb' 0 3)) else none
  | _ => none

/-- Major 0x27, selected by bits 10:4 (R241). -/
def decodeVconv (w : BitVec 32) : Option Instr :=
  match (w.extractLsb' 4 7).toNat with
  | 1 => if w.extractLsb' 11 5 = 0 then some (.vcvt (w.extractLsb' 21 5) (w.extractLsb' 16 5) (w.extractLsb' 3 1) (w.extractLsb' 0 3)) else none
  | 2 => if w.extractLsb' 0 3 = 0 then some (.vpack (w.extractLsb' 21 5) (w.extractLsb' 16 5) (w.extractLsb' 11 5) (w.extractLsb' 3 1)) else none
  | 3 => if w.extractLsb' 0 3 = 0 then some (.vunpk (w.extractLsb' 21 5) (w.extractLsb' 16 5) (w.extractLsb' 11 5) (w.extractLsb' 3 1)) else none
  | _ => none

/-- Major 0x29, selected by bits 10:4 (R193, R194, R195, R196, R197). -/
def decodeThr (w : BitVec 32) : Option Instr :=
  match (w.extractLsb' 4 7).toNat with
  | 1 => some (.spawn (w.extractLsb' 21 5) (w.extractLsb' 16 5) (w.extractLsb' 11 5) (w.extractLsb' 0 4))
  | 2 => some (.send (w.extractLsb' 21 5) (w.extractLsb' 16 5) (w.extractLsb' 11 5) (w.extractLsb' 0 4))
  | 3 => some (.launch (w.extractLsb' 21 5) (w.extractLsb' 16 5) (w.extractLsb' 11 5) (w.extractLsb' 0 4))
  | 4 => if w.extractLsb' 0 4 = 0 ∧ w.extractLsb' 11 15 = 0 then some .exit else none
  | 5 => if w.extractLsb' 0 4 = 0 ∧ w.extractLsb' 11 15 = 0 then some .yield else none
  | 6 => if w.extractLsb' 0 4 = 0 then some (.wait (w.extractLsb' 21 5) (w.extractLsb' 16 5) (w.extractLsb' 11 5)) else none
  | _ => none

/-- Major 0x2A, selected by bits 10:4 (R198, R199, R33). -/
def decodeGrp (w : BitVec 32) : Option Instr :=
  match (w.extractLsb' 4 7).toNat with
  | 1 => if w.extractLsb' 11 5 = 0 then some (.join (w.extractLsb' 21 5) (w.extractLsb' 16 5) (w.extractLsb' 0 4)) else none
  | 2 => if w.extractLsb' 11 5 = 0 then some (.leave (w.extractLsb' 21 5) (w.extractLsb' 16 5) (w.extractLsb' 0 4)) else none
  | 3 => if w.extractLsb' 0 4 = 0 ∧ w.extractLsb' 11 5 = 0 then some (.bar (w.extractLsb' 21 5) (w.extractLsb' 16 5)) else none
  | 4 => if w.extractLsb' 0 4 = 0 then some (.bart (w.extractLsb' 21 5) (w.extractLsb' 16 5) (w.extractLsb' 11 5)) else none
  | 5 => if w.extractLsb' 0 4 = 0 then some (.hbar (w.extractLsb' 21 5) (w.extractLsb' 16 5) (w.extractLsb' 11 5)) else none
  | _ => none

/-- Major 0x2B, selected by bits 10:4 (R200, R201, R202, R203). -/
def decodeSys (w : BitVec 32) : Option Instr :=
  match (w.extractLsb' 4 7).toNat with
  | 1 => if w.extractLsb' 0 4 = 0 ∧ w.extractLsb' 11 5 = 0 ∧ w.extractLsb' 21 5 = 0 then some (.trap (w.extractLsb' 16 5)) else none
  | 2 => if w.extractLsb' 0 4 = 0 ∧ w.extractLsb' 11 15 = 0 then some .eret else none
  | 3 => if w.extractLsb' 0 4 = 0 ∧ w.extractLsb' 11 15 = 0 then some .halt else none
  | 4 => if w.extractLsb' 0 4 = 0 then some (.tlbw (w.extractLsb' 21 5) (w.extractLsb' 16 5) (w.extractLsb' 11 5)) else none
  | 5 => if w.extractLsb' 0 4 = 0 then some (.tlbi (w.extractLsb' 21 5) (w.extractLsb' 16 5) (w.extractLsb' 11 5)) else none
  | _ => none

/-- Major 0x2C, selected by bits 10:4 (R254, R255, R256, R257). -/
def decodeCpy (w : BitVec 32) : Option Instr :=
  match (w.extractLsb' 4 7).toNat with
  | 1 => if w.extractLsb' 0 4 = 0 ∧ w.extractLsb' 11 7 = 0 ∧ w.extractLsb' 21 5 = 0 then some (.copy (w.extractLsb' 18 3)) else none
  | 2 => if w.extractLsb' 0 4 = 0 ∧ w.extractLsb' 11 7 = 0 then some (.copyt (w.extractLsb' 21 5) (w.extractLsb' 18 3)) else none
  | 3 => if w.extractLsb' 0 4 = 0 then some (.cpbind (w.extractLsb' 21 5) (w.extractLsb' 16 5) (w.extractLsb' 11 5)) else none
  | 4 => if w.extractLsb' 0 4 = 0 ∧ w.extractLsb' 11 5 = 0 then some (.cpunb (w.extractLsb' 21 5) (w.extractLsb' 16 5)) else none
  | 5 => if w.extractLsb' 0 4 = 0 ∧ w.extractLsb' 11 10 = 0 then some (.cppop (w.extractLsb' 21 5)) else none
  | 6 => if w.extractLsb' 0 4 = 0 ∧ w.extractLsb' 11 5 = 0 then some (.cpstat (w.extractLsb' 21 5) (w.extractLsb' 16 5)) else none
  | _ => none

/-- Major 0x2D, selected by bits 10:4 (R258). -/
def decodeTag (w : BitVec 32) : Option Instr :=
  match (w.extractLsb' 4 7).toNat with
  | 1 => if w.extractLsb' 0 4 = 0 ∧ w.extractLsb' 11 5 = 0 then some (.tlook (w.extractLsb' 21 5) (w.extractLsb' 16 5)) else none
  | 2 => if w.extractLsb' 0 4 = 0 ∧ w.extractLsb' 11 5 = 0 then some (.tins (w.extractLsb' 21 5) (w.extractLsb' 16 5)) else none
  | 3 => if w.extractLsb' 0 4 = 0 ∧ w.extractLsb' 11 5 = 0 then some (.tdel (w.extractLsb' 21 5) (w.extractLsb' 16 5)) else none
  | 4 => if w.extractLsb' 0 4 = 0 ∧ w.extractLsb' 11 5 = 0 then some (.tstat (w.extractLsb' 21 5) (w.extractLsb' 16 5)) else none
  | _ => none

/-- Major 0x2E, selected by bits 10:4 (R267, R268, R270, R272). -/
def decodeQs (w : BitVec 32) : Option Instr :=
  match (w.extractLsb' 4 7).toNat with
  | 1 => if w.extractLsb' 0 4 = 0 ∧ w.extractLsb' 11 5 = 0 then some (.qarr (w.extractLsb' 21 5) (w.extractLsb' 16 5)) else none
  | 2 => if w.extractLsb' 0 4 = 0 ∧ w.extractLsb' 11 5 = 0 then some (.qseal (w.extractLsb' 21 5) (w.extractLsb' 16 5)) else none
  | 3 => if w.extractLsb' 0 4 = 0 ∧ w.extractLsb' 11 5 = 0 ∧ w.extractLsb' 21 5 = 0 then some (.qdep (w.extractLsb' 16 5)) else none
  | 4 => if w.extractLsb' 0 4 = 0 then some (.qsplit (w.extractLsb' 21 5) (w.extractLsb' 16 5) (w.extractLsb' 11 5)) else none
  | 5 => if w.extractLsb' 0 4 = 0 ∧ w.extractLsb' 11 10 = 0 then some (.qdef (w.extractLsb' 21 5)) else none
  | 6 => if w.extractLsb' 0 4 = 0 ∧ w.extractLsb' 11 5 = 0 then some (.qidx (w.extractLsb' 21 5) (w.extractLsb' 16 5)) else none
  | 7 => if w.extractLsb' 0 4 = 0 ∧ w.extractLsb' 11 10 = 0 then some (.qpop (w.extractLsb' 21 5)) else none
  | 8 => if w.extractLsb' 0 4 = 0 ∧ w.extractLsb' 11 10 = 0 then some (.qfirst (w.extractLsb' 21 5)) else none
  | 9 => if w.extractLsb' 0 4 = 0 ∧ w.extractLsb' 11 5 = 0 then some (.qget (w.extractLsb' 21 5) (w.extractLsb' 16 5)) else none
  | 10 => if w.extractLsb' 0 4 = 0 ∧ w.extractLsb' 21 5 = 0 then some (.qput (w.extractLsb' 16 5) (w.extractLsb' 11 5)) else none
  | 11 => if w.extractLsb' 0 4 = 0 ∧ w.extractLsb' 11 5 = 0 ∧ w.extractLsb' 21 5 = 0 then some (.qadd (w.extractLsb' 16 5)) else none
  | 12 => if w.extractLsb' 0 4 = 0 ∧ w.extractLsb' 11 5 = 0 ∧ w.extractLsb' 21 5 = 0 then some (.qdel (w.extractLsb' 16 5)) else none
  | _ => none

/-- Major 0x2F, selected by bits 10:4 (R273, R274, R275, R276). -/
def decodeCq (w : BitVec 32) : Option Instr :=
  match (w.extractLsb' 4 7).toNat with
  | 1 => if w.extractLsb' 0 4 = 0 then some (.cqmrg (w.extractLsb' 21 5) (w.extractLsb' 16 5) (w.extractLsb' 11 5)) else none
  | 2 => if w.extractLsb' 0 4 = 0 then some (.cqbest (w.extractLsb' 21 5) (w.extractLsb' 16 5) (w.extractLsb' 11 5)) else none
  | 3 => if w.extractLsb' 0 4 = 0 then some (.cqinit (w.extractLsb' 21 5) (w.extractLsb' 16 5) (w.extractLsb' 11 5)) else none
  | 4 => if w.extractLsb' 0 4 = 0 ∧ w.extractLsb' 11 5 = 0 then some (.cqcnt (w.extractLsb' 21 5) (w.extractLsb' 16 5)) else none
  | 5 => if w.extractLsb' 0 4 = 0 ∧ w.extractLsb' 21 1 = 0 ∧ w.extractLsb' 24 2 = 0 then some (.vvis (w.extractLsb' 22 2) (w.extractLsb' 16 5) (w.extractLsb' 11 5)) else none
  | _ => none

/-- Major 0x30, selected by bits 10:4 (R313, R314, R315, R316, R317, R320). -/
def decodeCv (w : BitVec 32) : Option Instr :=
  match (w.extractLsb' 4 7).toNat with
  | 1 => if w.extractLsb' 0 4 = 0 ∧ w.extractLsb' 11 5 = 0 then some (.cvenc (w.extractLsb' 21 5) (w.extractLsb' 16 5)) else none
  | 2 => if w.extractLsb' 0 4 = 0 ∧ w.extractLsb' 11 5 = 0 then some (.cvdec (w.extractLsb' 21 5) (w.extractLsb' 16 5)) else none
  | 3 => if w.extractLsb' 0 4 = 0 then some (.cvadd (w.extractLsb' 21 5) (w.extractLsb' 16 5) (w.extractLsb' 11 5)) else none
  | 4 => if w.extractLsb' 0 4 = 0 then some (.cvsub (w.extractLsb' 21 5) (w.extractLsb' 16 5) (w.extractLsb' 11 5)) else none
  | 5 => if w.extractLsb' 0 4 = 0 ∧ w.extractLsb' 11 1 = 0 then some (.cvin (w.extractLsb' 21 5) (w.extractLsb' 16 5) (w.extractLsb' 12 4)) else none
  | 6 => if w.extractLsb' 0 4 = 0 ∧ w.extractLsb' 11 1 = 0 then some (.cvnext (w.extractLsb' 21 5) (w.extractLsb' 16 5) (w.extractLsb' 12 4)) else none
  | 7 => if w.extractLsb' 0 4 = 0 ∧ w.extractLsb' 11 1 = 0 then some (.cvprev (w.extractLsb' 21 5) (w.extractLsb' 16 5) (w.extractLsb' 12 4)) else none
  | 8 => if w.extractLsb' 0 4 = 0 then some (.cvlev (w.extractLsb' 21 5) (w.extractLsb' 16 5) (w.extractLsb' 11 5)) else none
  | 9 => if w.extractLsb' 0 4 = 0 then some (.cvcell (w.extractLsb' 21 5) (w.extractLsb' 16 5) (w.extractLsb' 11 5)) else none
  | 10 => if w.extractLsb' 0 4 = 0 ∧ w.extractLsb' 16 2 = 0 then some (.cvsplit (w.extractLsb' 21 5) (w.extractLsb' 18 3) (w.extractLsb' 11 5)) else none
  | _ => none

/-- Major 0x31, selected by bits 10:4 (R321). -/
def decodeVcv (w : BitVec 32) : Option Instr :=
  match (w.extractLsb' 4 7).toNat with
  | 1 => some (.vcvadd (w.extractLsb' 21 5) (w.extractLsb' 16 5) (w.extractLsb' 11 5) (w.extractLsb' 3 1) (w.extractLsb' 0 3))
  | 2 => if w.extractLsb' 11 1 = 0 ∧ w.extractLsb' 24 2 = 0 then some (.vcvin (w.extractLsb' 21 3) (w.extractLsb' 16 5) (w.extractLsb' 12 4) (w.extractLsb' 3 1) (w.extractLsb' 0 3)) else none
  | 3 => if w.extractLsb' 11 5 = 0 then some (.vcvenc (w.extractLsb' 21 5) (w.extractLsb' 16 5) (w.extractLsb' 3 1) (w.extractLsb' 0 3)) else none
  | _ => none

/-- Major 0x32, selected by bits 10:4 (R287, R291, R296, R298, R299, R300, R304). -/
def decodeMx (w : BitVec 32) : Option Instr :=
  match (w.extractLsb' 4 7).toNat with
  | 1 => if w.extractLsb' 0 4 = 0 ∧ w.extractLsb' 11 5 = 0 then some (.mxgang (w.extractLsb' 21 5) (w.extractLsb' 16 5)) else none
  | 2 => if w.extractLsb' 0 4 = 0 ∧ w.extractLsb' 11 10 = 0 then some (.mxleave (w.extractLsb' 21 5)) else none
  | 3 => if w.extractLsb' 0 4 = 0 ∧ w.extractLsb' 11 7 = 0 ∧ w.extractLsb' 23 3 = 0 then some (.mxgo (w.extractLsb' 21 2) (w.extractLsb' 18 3)) else none
  | 4 => if w.extractLsb' 0 4 = 0 ∧ w.extractLsb' 11 7 = 0 ∧ w.extractLsb' 21 5 = 0 then some (.mxres (w.extractLsb' 18 3)) else none
  | 5 => if w.extractLsb' 18 3 = 0 then some (.mxmov (w.extractLsb' 21 5) (w.extractLsb' 16 2) (w.extractLsb' 11 5) (w.extractLsb' 0 4)) else none
  | 6 => if w.extractLsb' 0 4 = 0 ∧ w.extractLsb' 11 7 = 0 ∧ w.extractLsb' 23 3 = 0 then some (.mxdrain (w.extractLsb' 21 2) (w.extractLsb' 18 3)) else none
  | 7 => if w.extractLsb' 0 4 = 0 ∧ w.extractLsb' 11 10 = 0 ∧ w.extractLsb' 23 3 = 0 then some (.mxzero (w.extractLsb' 21 2)) else none
  | 8 => if w.extractLsb' 0 4 = 0 ∧ w.extractLsb' 11 10 = 0 then some (.pwreq (w.extractLsb' 21 5)) else none
  | _ => none

/-- Major 0x33, selected by bits 10:4 (R329, R334, R335, R336). -/
def decodeBk (w : BitVec 32) : Option Instr :=
  match (w.extractLsb' 4 7).toNat with
  | 1 => if w.extractLsb' 0 4 = 0 then some (.bkload (w.extractLsb' 21 5) (w.extractLsb' 16 5) (w.extractLsb' 11 5)) else none
  | 2 => if w.extractLsb' 0 4 = 0 ∧ w.extractLsb' 11 7 = 0 then some (.bkpush (w.extractLsb' 21 5) (w.extractLsb' 18 3)) else none
  | 3 => if w.extractLsb' 0 4 = 0 ∧ w.extractLsb' 11 10 = 0 then some (.bkpop (w.extractLsb' 21 5)) else none
  | 4 => some (.bkstat (w.extractLsb' 21 5) (w.extractLsb' 16 5) (w.extractLsb' 11 5) (w.extractLsb' 0 4))
  | _ => none

/-- Major 0x34, selected by bits 25:21 (R165). -/
def decodePref (w : BitVec 32) : Option Instr :=
  match (w.extractLsb' 21 5).toNat with
  | 0 => if w.extractLsb' 0 4 = 0 then some (.prefL1 (w.extractLsb' 16 5) (w.extractLsb' 4 12)) else none
  | 1 => if w.extractLsb' 0 4 = 0 then some (.prefSlice (w.extractLsb' 16 5) (w.extractLsb' 4 12)) else none
  | 2 => if w.extractLsb' 0 4 = 0 then some (.prefTlb (w.extractLsb' 16 5) (w.extractLsb' 4 12)) else none
  | _ => none

/-- Major 0x35, selected by bits 15:14 (R204). -/
def decodeCsr (w : BitVec 32) : Option Instr :=
  match (w.extractLsb' 14 2).toNat with
  | 0 => if w.extractLsb' 12 2 = 0 ∧ w.extractLsb' 16 5 = 0 then some (.csrr (w.extractLsb' 21 5) (w.extractLsb' 0 12)) else none
  | 1 => if w.extractLsb' 12 2 = 0 then some (.csrw (w.extractLsb' 21 5) (w.extractLsb' 16 5) (w.extractLsb' 0 12)) else none
  | 2 => if w.extractLsb' 12 2 = 0 then some (.csrs (w.extractLsb' 21 5) (w.extractLsb' 16 5) (w.extractLsb' 0 12)) else none
  | 3 => if w.extractLsb' 12 2 = 0 then some (.csrc (w.extractLsb' 21 5) (w.extractLsb' 16 5) (w.extractLsb' 0 12)) else none
  | _ => none

/-- The row a Jihar word names, its reserved fields checked, before the operand limits of `Instr.wf` (11 R130). -/
def decodeRow (w : BitVec 32) : Option Instr :=
  match (w.extractLsb' 26 6).toNat with
  | 0 => decodeAlu w
  | 1 => some (.addi (w.extractLsb' 21 5) (w.extractLsb' 16 5) (w.extractLsb' 0 16))
  | 2 => some (.andi (w.extractLsb' 21 5) (w.extractLsb' 16 5) (w.extractLsb' 0 16))
  | 3 => some (.ori (w.extractLsb' 21 5) (w.extractLsb' 16 5) (w.extractLsb' 0 16))
  | 4 => some (.xori (w.extractLsb' 21 5) (w.extractLsb' 16 5) (w.extractLsb' 0 16))
  | 5 => some (.slti (w.extractLsb' 21 5) (w.extractLsb' 16 5) (w.extractLsb' 0 16))
  | 6 => some (.sltiu (w.extractLsb' 21 5) (w.extractLsb' 16 5) (w.extractLsb' 0 16))
  | 7 => decodeShi w
  | 8 => if w.extractLsb' 18 3 = 0 then some (.liw (w.extractLsb' 21 5) (w.extractLsb' 16 2) (w.extractLsb' 0 16)) else none
  | 9 => if w.extractLsb' 16 5 = 0 then some (.lpc (w.extractLsb' 21 5) (w.extractLsb' 0 16)) else none
  | 10 => some (.beq (w.extractLsb' 21 5) (w.extractLsb' 16 5) (w.extractLsb' 0 16))
  | 11 => some (.bne (w.extractLsb' 21 5) (w.extractLsb' 16 5) (w.extractLsb' 0 16))
  | 12 => some (.blt (w.extractLsb' 21 5) (w.extractLsb' 16 5) (w.extractLsb' 0 16))
  | 13 => some (.bge (w.extractLsb' 21 5) (w.extractLsb' 16 5) (w.extractLsb' 0 16))
  | 14 => some (.bltu (w.extractLsb' 21 5) (w.extractLsb' 16 5) (w.extractLsb' 0 16))
  | 15 => some (.bgeu (w.extractLsb' 21 5) (w.extractLsb' 16 5) (w.extractLsb' 0 16))
  | 16 => some (.jal (w.extractLsb' 21 5) (w.extractLsb' 0 21))
  | 17 => some (.jalr (w.extractLsb' 21 5) (w.extractLsb' 16 5) (w.extractLsb' 0 16))
  | 18 => some (.ld8u (w.extractLsb' 21 5) (w.extractLsb' 16 5) (w.extractLsb' 4 12) (w.extractLsb' 0 4))
  | 19 => some (.ld8s (w.extractLsb' 21 5) (w.extractLsb' 16 5) (w.extractLsb' 4 12) (w.extractLsb' 0 4))
  | 20 => some (.ld16u (w.extractLsb' 21 5) (w.extractLsb' 16 5) (w.extractLsb' 4 12) (w.extractLsb' 0 4))
  | 21 => some (.ld16s (w.extractLsb' 21 5) (w.extractLsb' 16 5) (w.extractLsb' 4 12) (w.extractLsb' 0 4))
  | 22 => some (.ld32u (w.extractLsb' 21 5) (w.extractLsb' 16 5) (w.extractLsb' 4 12) (w.extractLsb' 0 4))
  | 23 => some (.ld32s (w.extractLsb' 21 5) (w.extractLsb' 16 5) (w.extractLsb' 4 12) (w.extractLsb' 0 4))
  | 24 => some (.ld64 (w.extractLsb' 21 5) (w.extractLsb' 16 5) (w.extractLsb' 4 12) (w.extractLsb' 0 4))
  | 25 => if w.extractLsb' 0 4 = 0 then some (.st8 (w.extractLsb' 21 5) (w.extractLsb' 16 5) (w.extractLsb' 4 12)) else none
  | 26 => if w.extractLsb' 0 4 = 0 then some (.st16 (w.extractLsb' 21 5) (w.extractLsb' 16 5) (w.extractLsb' 4 12)) else none
  | 27 => if w.extractLsb' 0 4 = 0 then some (.st32 (w.extractLsb' 21 5) (w.extractLsb' 16 5) (w.extractLsb' 4 12)) else none
  | 28 => if w.extractLsb' 0 4 = 0 then some (.st64 (w.extractLsb' 21 5) (w.extractLsb' 16 5) (w.extractLsb' 4 12)) else none
  | 29 => some (.vld (w.extractLsb' 21 5) (w.extractLsb' 16 5) (w.extractLsb' 4 12) (w.extractLsb' 0 4))
  | 30 => if w.extractLsb' 0 4 = 0 then some (.vst (w.extractLsb' 21 5) (w.extractLsb' 16 5) (w.extractLsb' 4 12)) else none
  | 31 => decodeVmem w
  | 32 => decodeAt32 w
  | 33 => decodeAt64 w
  | 34 => decodeSync w
  | 35 => decodeLock w
  | 36 => decodeVint w
  | 37 => decodeVflt w
  | 38 => decodeVxl w
  | 39 => decodeVconv w
  | 40 => if w.extractLsb' 0 7 = 0 then some (.fmt (w.extractLsb' 22 4) (w.extractLsb' 18 4) (w.extractLsb' 14 4) (w.extractLsb' 11 3) (w.extractLsb' 10 1) (w.extractLsb' 7 3)) else none
  | 41 => decodeThr w
  | 42 => decodeGrp w
  | 43 => decodeSys w
  | 44 => decodeCpy w
  | 45 => decodeTag w
  | 46 => decodeQs w
  | 47 => decodeCq w
  | 48 => decodeCv w
  | 49 => decodeVcv w
  | 50 => decodeMx w
  | 51 => decodeBk w
  | 52 => decodePref w
  | 53 => decodeCsr w
  | _ => none

/-- The Jihar decoder, total on any word: the row, kept when its operand limits hold (11 R130, R131). -/
def decode (w : BitVec 32) : Option Instr :=
  (decodeRow w).filter Instr.wf

/-- What a reader of bank code supplies: an answer for each row. The engine supplies the rows' meanings, `decodeBank` the rows themselves. -/
structure BankAlg (α : Type) where
  bnop : α
  bset : BitVec 4 → BitVec 4 → BitVec 20 → α
  badd : BitVec 4 → BitVec 4 → BitVec 20 → α
  blda : BitVec 3 → BitVec 4 → BitVec 12 → BitVec 8 → α
  bldaP : BitVec 3 → BitVec 12 → BitVec 8 → α
  brow : BitVec 8 → BitVec 4 → BitVec 4 → BitVec 4 → BitVec 4 → α
  bscl : BitVec 8 → BitVec 4 → BitVec 4 → BitVec 4 → α
  bwr : BitVec 8 → BitVec 4 → BitVec 4 → BitVec 4 → α
  bloop : BitVec 4 → BitVec 10 → α
  bend : α
  bsync : BitVec 4 → BitVec 4 → α
  bwait : BitVec 8 → BitVec 1 → α
  bfmt : BitVec 4 → BitVec 4 → BitVec 4 → BitVec 3 → BitVec 1 → BitVec 3 → BitVec 1 → α
  bzero : BitVec 4 → BitVec 4 → α
  bcopy : BitVec 4 → BitVec 4 → BitVec 4 → α
  bhalt : α
  btrap : BitVec 16 → α

/-- The bank-code decoder (26 R337, R338): the operation is bits 31:28, BLDA and BLDA.p differ in bit 24; a nonzero reserved field
or a forbidden field value refuses the word. -/
def decodeBankWith {α : Type} (A : BankAlg α) (w : BitVec 32) : Option α :=
  match (w.extractLsb' 28 4).toNat with
  | 0 => if w.extractLsb' 0 28 = 0 then some (A.bnop) else none
  | 1 => if bsetOk (w.extractLsb' 20 4) then some (A.bset (w.extractLsb' 24 4) (w.extractLsb' 20 4) (w.extractLsb' 0 20)) else none
  | 2 => some (A.badd (w.extractLsb' 24 4) (w.extractLsb' 20 4) (w.extractLsb' 0 20))
  | 3 =>
    if w.extractLsb' 24 1 = 0 then if bldaOk (w.extractLsb' 8 12) (w.extractLsb' 0 8) then some (A.blda (w.extractLsb' 25 3) (w.extractLsb' 20 4) (w.extractLsb' 8 12) (w.extractLsb' 0 8)) else none
    else if w.extractLsb' 20 4 = 0 ∧ bldaPOk (w.extractLsb' 8 12) (w.extractLsb' 0 8) then some (A.bldaP (w.extractLsb' 25 3) (w.extractLsb' 8 12) (w.extractLsb' 0 8)) else none
  | 4 => if w.extractLsb' 0 4 = 0 ∧ w.extractLsb' 20 8 ≠ 0 then some (A.brow (w.extractLsb' 20 8) (w.extractLsb' 16 4) (w.extractLsb' 12 4) (w.extractLsb' 8 4) (w.extractLsb' 4 4)) else none
  | 5 => if w.extractLsb' 0 8 = 0 ∧ w.extractLsb' 20 8 ≠ 0 then some (A.bscl (w.extractLsb' 20 8) (w.extractLsb' 16 4) (w.extractLsb' 12 4) (w.extractLsb' 8 4)) else none
  | 6 => if w.extractLsb' 0 8 = 0 ∧ w.extractLsb' 20 8 ≠ 0 then some (A.bwr (w.extractLsb' 20 8) (w.extractLsb' 16 4) (w.extractLsb' 12 4) (w.extractLsb' 8 4)) else none
  | 7 => if w.extractLsb' 10 14 = 0 ∧ w.extractLsb' 0 10 ≠ 0 then some (A.bloop (w.extractLsb' 24 4) (w.extractLsb' 0 10)) else none
  | 8 => if w.extractLsb' 0 28 = 0 then some (A.bend) else none
  | 9 => if w.extractLsb' 0 20 = 0 then some (A.bsync (w.extractLsb' 24 4) (w.extractLsb' 20 4)) else none
  | 10 => if w.extractLsb' 0 19 = 0 then some (A.bwait (w.extractLsb' 20 8) (w.extractLsb' 19 1)) else none
  | 11 => if w.extractLsb' 0 8 = 0 ∧ bfmtOk (w.extractLsb' 24 4) (w.extractLsb' 20 4) (w.extractLsb' 16 4) (w.extractLsb' 13 3) (w.extractLsb' 9 3) (w.extractLsb' 8 1) then some (A.bfmt (w.extractLsb' 24 4) (w.extractLsb' 20 4) (w.extractLsb' 16 4) (w.extractLsb' 13 3) (w.extractLsb' 12 1) (w.extractLsb' 9 3) (w.extractLsb' 8 1)) else none
  | 12 => if w.extractLsb' 0 20 = 0 then some (A.bzero (w.extractLsb' 24 4) (w.extractLsb' 20 4)) else none
  | 13 => if w.extractLsb' 0 16 = 0 then some (A.bcopy (w.extractLsb' 24 4) (w.extractLsb' 20 4) (w.extractLsb' 16 4)) else none
  | 14 => if w.extractLsb' 0 28 = 0 then some (A.bhalt) else none
  | 15 => if w.extractLsb' 16 12 = 0 then some (A.btrap (w.extractLsb' 0 16)) else none
  | _ => none

/-- The rows themselves. (`noncomputable` here and below only because Lean's compiler gives no object tag above 244
to a constructor; the kernel evaluates these definitions as any other.) -/
noncomputable def instrAlg : BankAlg Instr where
  bnop := .bnop
  bset := .bset
  badd := .badd
  blda := .blda
  bldaP := .bldaP
  brow := .brow
  bscl := .bscl
  bwr := .bwr
  bloop := .bloop
  bend := .bend
  bsync := .bsync
  bwait := .bwait
  bfmt := .bfmt
  bzero := .bzero
  bcopy := .bcopy
  bhalt := .bhalt
  btrap := .btrap

/-- The bank-code instruction a word stands for. -/
noncomputable def decodeBank (w : BitVec 32) : Option Instr :=
  decodeBankWith instrAlg w

/-- Format T and V: OP, D, A, B, FN and the low four bits MD, or Q and K (11 R126). -/
def encT (op : BitVec 6) (d a b : BitVec 5) (fn : BitVec 7) (md : BitVec 4) : BitVec 32 :=
  op ++ d ++ a ++ b ++ fn ++ md

/-- Formats I, B and, with two halves, CSR (11 R126). -/
def encI (op : BitVec 6) (d a : BitVec 5) (imm : BitVec 16) : BitVec 32 :=
  op ++ d ++ a ++ imm

/-- Format M (11 R126). -/
def encM (op : BitVec 6) (d a : BitVec 5) (off : BitVec 12) (la : BitVec 4) : BitVec 32 :=
  op ++ d ++ a ++ off ++ la

/-- Format A (11 R126). -/
def encA (op : BitVec 6) (d a b : BitVec 5) (aop : BitVec 3) (ord : BitVec 1) (sc : BitVec 3) (la : BitVec 4) : BitVec 32 :=
  op ++ d ++ a ++ b ++ aop ++ ord ++ sc ++ la

/-- Format J (11 R126). -/
def encJ (op : BitVec 6) (d : BitVec 5) (disp : BitVec 21) : BitVec 32 :=
  op ++ d ++ disp

/-- Format P, the FMT prefix (06 R74). -/
def encP (fa fb fc : BitVec 4) (rm : BitVec 3) (sat : BitVec 1) (scm : BitVec 3) : BitVec 32 :=
  0x28#6 ++ fa ++ fb ++ fc ++ rm ++ sat ++ scm ++ 0#7

/-- The word of an instruction, from the same encoding tables; a step that has no encoding has none. -/
def encode : Instr → Option (BitVec 32)
  | .add d a b => some (encT 0x0#6 d a b 0x1#7 0x0#4)
  | .sub d a b => some (encT 0x0#6 d a b 0x2#7 0x0#4)
  | .and d a b => some (encT 0x0#6 d a b 0x3#7 0x0#4)
  | .or d a b => some (encT 0x0#6 d a b 0x4#7 0x0#4)
  | .xor d a b => some (encT 0x0#6 d a b 0x5#7 0x0#4)
  | .andn d a b => some (encT 0x0#6 d a b 0x6#7 0x0#4)
  | .sll d a b => some (encT 0x0#6 d a b 0x7#7 0x0#4)
  | .srl d a b => some (encT 0x0#6 d a b 0x8#7 0x0#4)
  | .sra d a b => some (encT 0x0#6 d a b 0x9#7 0x0#4)
  | .ror d a b => some (encT 0x0#6 d a b 0xA#7 0x0#4)
  | .slt d a b => some (encT 0x0#6 d a b 0xB#7 0x0#4)
  | .sltu d a b => some (encT 0x0#6 d a b 0xC#7 0x0#4)
  | .min d a b => some (encT 0x0#6 d a b 0xD#7 0x0#4)
  | .max d a b => some (encT 0x0#6 d a b 0xE#7 0x0#4)
  | .minu d a b => some (encT 0x0#6 d a b 0xF#7 0x0#4)
  | .maxu d a b => some (encT 0x0#6 d a b 0x10#7 0x0#4)
  | .mul d a b => some (encT 0x0#6 d a b 0x11#7 0x0#4)
  | .mulh d a b => some (encT 0x0#6 d a b 0x12#7 0x0#4)
  | .mulhu d a b => some (encT 0x0#6 d a b 0x13#7 0x0#4)
  | .div d a b l => some (encT 0x0#6 d a b 0x14#7 l)
  | .divu d a b l => some (encT 0x0#6 d a b 0x15#7 l)
  | .rem d a b l => some (encT 0x0#6 d a b 0x16#7 l)
  | .remu d a b l => some (encT 0x0#6 d a b 0x17#7 l)
  | .clz d a => some (encT 0x0#6 d a 0x0#5 0x18#7 0x0#4)
  | .ctz d a => some (encT 0x0#6 d a 0x0#5 0x19#7 0x0#4)
  | .popc d a => some (encT 0x0#6 d a 0x0#5 0x1A#7 0x0#4)
  | .addi d a i => some (encI 0x1#6 d a i)
  | .andi d a i => some (encI 0x2#6 d a i)
  | .ori d a i => some (encI 0x3#6 d a i)
  | .xori d a i => some (encI 0x4#6 d a i)
  | .slti d a i => some (encI 0x5#6 d a i)
  | .sltiu d a i => some (encI 0x6#6 d a i)
  | .shiSll d a s => some (encI 0x7#6 d a (0x0#10 ++ s))
  | .shiSrl d a s => some (encI 0x7#6 d a (0x1#10 ++ s))
  | .shiSra d a s => some (encI 0x7#6 d a (0x2#10 ++ s))
  | .shiRor d a s => some (encI 0x7#6 d a (0x3#10 ++ s))
  | .liw d h i => some (encI 0x8#6 d (0x0#3 ++ h) i)
  | .lpc d i => some (encI 0x9#6 d 0x0#5 i)
  | .beq a b i => some (encI 0xA#6 a b i)
  | .bne a b i => some (encI 0xB#6 a b i)
  | .blt a b i => some (encI 0xC#6 a b i)
  | .bge a b i => some (encI 0xD#6 a b i)
  | .bltu a b i => some (encI 0xE#6 a b i)
  | .bgeu a b i => some (encI 0xF#6 a b i)
  | .jal d i => some (encJ 0x10#6 d i)
  | .jalr d a i => some (encI 0x11#6 d a i)
  | .ld8u d a o l => some (encM 0x12#6 d a o l)
  | .ld8s d a o l => some (encM 0x13#6 d a o l)
  | .ld16u d a o l => some (encM 0x14#6 d a o l)
  | .ld16s d a o l => some (encM 0x15#6 d a o l)
  | .ld32u d a o l => some (encM 0x16#6 d a o l)
  | .ld32s d a o l => some (encM 0x17#6 d a o l)
  | .ld64 d a o l => some (encM 0x18#6 d a o l)
  | .st8 d a o => some (encM 0x19#6 d a o 0x0#4)
  | .st16 d a o => some (encM 0x1A#6 d a o 0x0#4)
  | .st32 d a o => some (encM 0x1B#6 d a o 0x0#4)
  | .st64 d a o => some (encM 0x1C#6 d a o 0x0#4)
  | .prefL1 a o => some (encM 0x34#6 0x0#5 a o 0x0#4)
  | .prefSlice a o => some (encM 0x34#6 0x1#5 a o 0x0#4)
  | .prefTlb a o => some (encM 0x34#6 0x2#5 a o 0x0#4)
  | .at32Add d a b o s l => some (encA 0x20#6 d a b 0x0#3 o s l)
  | .at32And d a b o s l => some (encA 0x20#6 d a b 0x1#3 o s l)
  | .at32Or d a b o s l => some (encA 0x20#6 d a b 0x2#3 o s l)
  | .at32Xor d a b o s l => some (encA 0x20#6 d a b 0x3#3 o s l)
  | .at32Max d a b o s l => some (encA 0x20#6 d a b 0x4#3 o s l)
  | .at32Min d a b o s l => some (encA 0x20#6 d a b 0x5#3 o s l)
  | .at32Swap d a b o s l => some (encA 0x20#6 d a b 0x6#3 o s l)
  | .at32Cas d a b o s l => some (encA 0x20#6 d a b 0x7#3 o s l)
  | .at64Add d a b o s l => some (encA 0x21#6 d a b 0x0#3 o s l)
  | .at64And d a b o s l => some (encA 0x21#6 d a b 0x1#3 o s l)
  | .at64Or d a b o s l => some (encA 0x21#6 d a b 0x2#3 o s l)
  | .at64Xor d a b o s l => some (encA 0x21#6 d a b 0x3#3 o s l)
  | .at64Max d a b o s l => some (encA 0x21#6 d a b 0x4#3 o s l)
  | .at64Min d a b o s l => some (encA 0x21#6 d a b 0x5#3 o s l)
  | .at64Swap d a b o s l => some (encA 0x21#6 d a b 0x6#3 o s l)
  | .at64Cas d a b o s l => some (encA 0x21#6 d a b 0x7#3 o s l)
  | .fenceAcq s => some (encT 0x22#6 0x0#5 0x0#5 (0x0#2 ++ s) 0x1#7 0x0#4)
  | .fenceAcqReg a => some (encT 0x22#6 0x0#5 a 0x0#5 0x1#7 0x0#4)
  | .fenceRel s => some (encT 0x22#6 0x0#5 0x0#5 (0x0#2 ++ s) 0x2#7 0x0#4)
  | .fenceRelReg a => some (encT 0x22#6 0x0#5 a 0x0#5 0x2#7 0x0#4)
  | .fenceAr s => some (encT 0x22#6 0x0#5 0x0#5 (0x0#2 ++ s) 0x3#7 0x0#4)
  | .fenceArReg a => some (encT 0x22#6 0x0#5 a 0x0#5 0x3#7 0x0#4)
  | .fenceSc s => some (encT 0x22#6 0x0#5 0x0#5 (0x0#2 ++ s) 0x4#7 0x0#4)
  | .fenceScReg a => some (encT 0x22#6 0x0#5 a 0x0#5 0x4#7 0x0#4)
  | .lda32 d a s l => some (encT 0x22#6 d a (0x0#2 ++ s) 0x5#7 l)
  | .lda64 d a s l => some (encT 0x22#6 d a (0x0#2 ++ s) 0x6#7 l)
  | .stl32 d a s => some (encT 0x22#6 d a (0x0#2 ++ s) 0x7#7 0x0#4)
  | .stl64 d a s => some (encT 0x22#6 d a (0x0#2 ++ s) 0x8#7 0x0#4)
  | .scope d a b => some (encT 0x22#6 d a b 0x9#7 0x0#4)
  | .ldl d a l => some (encT 0x23#6 d a 0x0#5 0x1#7 l)
  | .stu d a b => some (encT 0x23#6 d a b 0x2#7 0x0#4)
  | .vld d a o l => some (encM 0x1D#6 d a o l)
  | .vst d a o => some (encM 0x1E#6 d a o 0x0#4)
  | .vgather d a b l q k => some (encT 0x1F#6 d a b (0x0#3 ++ l) (q ++ k))
  | .vscatter d a b q k => some (encT 0x1F#6 d a b 0x10#7 (q ++ k))
  | .vlds d a b l q k => some (encT 0x1F#6 d a b (0x2#3 ++ l) (q ++ k))
  | .vsts d a b q k => some (encT 0x1F#6 d a b 0x30#7 (q ++ k))
  | .vadd d a b q k => some (encT 0x24#6 d a b 0x1#7 (q ++ k))
  | .vsub d a b q k => some (encT 0x24#6 d a b 0x2#7 (q ++ k))
  | .vmul d a b q k => some (encT 0x24#6 d a b 0x3#7 (q ++ k))
  | .vmulh d a b q k => some (encT 0x24#6 d a b 0x4#7 (q ++ k))
  | .vadds d a b q k => some (encT 0x24#6 d a b 0x5#7 (q ++ k))
  | .vsubs d a b q k => some (encT 0x24#6 d a b 0x6#7 (q ++ k))
  | .vand d a b q k => some (encT 0x24#6 d a b 0x7#7 (q ++ k))
  | .vor d a b q k => some (encT 0x24#6 d a b 0x8#7 (q ++ k))
  | .vxor d a b q k => some (encT 0x24#6 d a b 0x9#7 (q ++ k))
  | .vsll d a b q k => some (encT 0x24#6 d a b 0xA#7 (q ++ k))
  | .vsrl d a b q k => some (encT 0x24#6 d a b 0xB#7 (q ++ k))
  | .vsra d a b q k => some (encT 0x24#6 d a b 0xC#7 (q ++ k))
  | .vmin d a b q k => some (encT 0x24#6 d a b 0xD#7 (q ++ k))
  | .vmax d a b q k => some (encT 0x24#6 d a b 0xE#7 (q ++ k))
  | .vminu d a b q k => some (encT 0x24#6 d a b 0xF#7 (q ++ k))
  | .vmaxu d a b q k => some (encT 0x24#6 d a b 0x10#7 (q ++ k))
  | .vsel d a b q k => some (encT 0x24#6 d a b 0x11#7 (q ++ k))
  | .vcmpEq d a b q k => some (encT 0x24#6 (0x0#2 ++ d) a b 0x18#7 (q ++ k))
  | .vcmpNe d a b q k => some (encT 0x24#6 (0x0#2 ++ d) a b 0x19#7 (q ++ k))
  | .vcmpLt d a b q k => some (encT 0x24#6 (0x0#2 ++ d) a b 0x1A#7 (q ++ k))
  | .vcmpLe d a b q k => some (encT 0x24#6 (0x0#2 ++ d) a b 0x1B#7 (q ++ k))
  | .vcmpLtu d a b q k => some (encT 0x24#6 (0x0#2 ++ d) a b 0x1C#7 (q ++ k))
  | .vcmpLeu d a b q k => some (encT 0x24#6 (0x0#2 ++ d) a b 0x1D#7 (q ++ k))
  | .vfadd d a b q k => some (encT 0x25#6 d a b 0x1#7 (q ++ k))
  | .vfsub d a b q k => some (encT 0x25#6 d a b 0x2#7 (q ++ k))
  | .vfmul d a b q k => some (encT 0x25#6 d a b 0x3#7 (q ++ k))
  | .vfma d a b q k => some (encT 0x25#6 d a b 0x4#7 (q ++ k))
  | .vfms d a b q k => some (encT 0x25#6 d a b 0x5#7 (q ++ k))
  | .vfdiv d a b q k => some (encT 0x25#6 d a b 0x6#7 (q ++ k))
  | .vfsqrt d a q k => some (encT 0x25#6 d a 0x0#5 0x7#7 (q ++ k))
  | .vfmin d a b q k => some (encT 0x25#6 d a b 0x8#7 (q ++ k))
  | .vfmax d a b q k => some (encT 0x25#6 d a b 0x9#7 (q ++ k))
  | .vfabs d a q k => some (encT 0x25#6 d a 0x0#5 0xA#7 (q ++ k))
  | .vfneg d a q k => some (encT 0x25#6 d a 0x0#5 0xB#7 (q ++ k))
  | .vfcmpEq d a b q k => some (encT 0x25#6 (0x0#2 ++ d) a b 0x10#7 (q ++ k))
  | .vfcmpNe d a b q k => some (encT 0x25#6 (0x0#2 ++ d) a b 0x11#7 (q ++ k))
  | .vfcmpLt d a b q k => some (encT 0x25#6 (0x0#2 ++ d) a b 0x12#7 (q ++ k))
  | .vfcmpLe d a b q k => some (encT 0x25#6 (0x0#2 ++ d) a b 0x13#7 (q ++ k))
  | .vfcmpUn d a b q k => some (encT 0x25#6 (0x0#2 ++ d) a b 0x14#7 (q ++ k))
  | .vperm d a b q k => some (encT 0x26#6 d a b 0x1#7 (q ++ k))
  | .vbcast d a q k => some (encT 0x26#6 d a 0x0#5 0x2#7 (q ++ k))
  | .vextr d a b q => some (encT 0x26#6 d a b 0x3#7 (q ++ 0x0#3))
  | .vinsr d a b q => some (encT 0x26#6 d a b 0x4#7 (q ++ 0x0#3))
  | .vsort d a q k => some (encT 0x26#6 d a 0x0#5 0x5#7 (q ++ k))
  | .vcompr d a q k => some (encT 0x26#6 d a 0x0#5 0x6#7 (q ++ k))
  | .vdot4 d a b q k => some (encT 0x26#6 d a b 0x7#7 (q ++ k))
  | .vfdot d a b q k => some (encT 0x26#6 d a b 0x8#7 (q ++ k))
  | .kand d a b q => some (encT 0x26#6 (0x0#2 ++ d) (0x0#2 ++ a) (0x0#2 ++ b) 0x9#7 (q ++ 0x0#3))
  | .kor d a b q => some (encT 0x26#6 (0x0#2 ++ d) (0x0#2 ++ a) (0x0#2 ++ b) 0xA#7 (q ++ 0x0#3))
  | .kxor d a b q => some (encT 0x26#6 (0x0#2 ++ d) (0x0#2 ++ a) (0x0#2 ++ b) 0xB#7 (q ++ 0x0#3))
  | .knot d a q => some (encT 0x26#6 (0x0#2 ++ d) (0x0#2 ++ a) 0x0#5 0xC#7 (q ++ 0x0#3))
  | .klen d a q => some (encT 0x26#6 (0x0#2 ++ d) a 0x0#5 0xD#7 (q ++ 0x0#3))
  | .kpop d a q => some (encT 0x26#6 d (0x0#2 ++ a) 0x0#5 0xE#7 (q ++ 0x0#3))
  | .vredAdd d a q k => some (encT 0x26#6 d a 0x0#5 0x10#7 (q ++ k))
  | .vredMin d a q k => some (encT 0x26#6 d a 0x0#5 0x11#7 (q ++ k))
  | .vredMax d a q k => some (encT 0x26#6 d a 0x0#5 0x12#7 (q ++ k))
  | .vredMinu d a q k => some (encT 0x26#6 d a 0x0#5 0x13#7 (q ++ k))
  | .vredMaxu d a q k => some (encT 0x26#6 d a 0x0#5 0x14#7 (q ++ k))
  | .vredAnd d a q k => some (encT 0x26#6 d a 0x0#5 0x15#7 (q ++ k))
  | .vredOr d a q k => some (encT 0x26#6 d a 0x0#5 0x16#7 (q ++ k))
  | .vredXor d a q k => some (encT 0x26#6 d a 0x0#5 0x17#7 (q ++ k))
  | .vredFadd d a q k => some (encT 0x26#6 d a 0x0#5 0x18#7 (q ++ k))
  | .vredFmin d a q k => some (encT 0x26#6 d a 0x0#5 0x19#7 (q ++ k))
  | .vredFmax d a q k => some (encT 0x26#6 d a 0x0#5 0x1A#7 (q ++ k))
  | .vscanAdd d a q k => some (encT 0x26#6 d a 0x0#5 0x20#7 (q ++ k))
  | .vscanMin d a q k => some (encT 0x26#6 d a 0x0#5 0x21#7 (q ++ k))
  | .vscanMax d a q k => some (encT 0x26#6 d a 0x0#5 0x22#7 (q ++ k))
  | .vscanFadd d a q k => some (encT 0x26#6 d a 0x0#5 0x23#7 (q ++ k))
  | .vcvt d a q k => some (encT 0x27#6 d a 0x0#5 0x1#7 (q ++ k))
  | .vpack d a b q => some (encT 0x27#6 d a b 0x2#7 (q ++ 0x0#3))
  | .vunpk d a b q => some (encT 0x27#6 d a b 0x3#7 (q ++ 0x0#3))
  | .fmt a b c r s m => some (encP a b c r s m)
  | .spawn d a b l => some (encT 0x29#6 d a b 0x1#7 l)
  | .send d a b l => some (encT 0x29#6 d a b 0x2#7 l)
  | .launch d a b l => some (encT 0x29#6 d a b 0x3#7 l)
  | .exit => some (encT 0x29#6 0x0#5 0x0#5 0x0#5 0x4#7 0x0#4)
  | .yield => some (encT 0x29#6 0x0#5 0x0#5 0x0#5 0x5#7 0x0#4)
  | .wait d a b => some (encT 0x29#6 d a b 0x6#7 0x0#4)
  | .join d a l => some (encT 0x2A#6 d a 0x0#5 0x1#7 l)
  | .leave d a l => some (encT 0x2A#6 d a 0x0#5 0x2#7 l)
  | .bar d a => some (encT 0x2A#6 d a 0x0#5 0x3#7 0x0#4)
  | .bart d a b => some (encT 0x2A#6 d a b 0x4#7 0x0#4)
  | .hbar d a b => some (encT 0x2A#6 d a b 0x5#7 0x0#4)
  | .trap a => some (encT 0x2B#6 0x0#5 a 0x0#5 0x1#7 0x0#4)
  | .eret => some (encT 0x2B#6 0x0#5 0x0#5 0x0#5 0x2#7 0x0#4)
  | .halt => some (encT 0x2B#6 0x0#5 0x0#5 0x0#5 0x3#7 0x0#4)
  | .tlbw d a b => some (encT 0x2B#6 d a b 0x4#7 0x0#4)
  | .tlbi d a b => some (encT 0x2B#6 d a b 0x5#7 0x0#4)
  | .csrr d c => some (encI 0x35#6 d 0x0#5 (0x0#4 ++ c))
  | .csrw d a c => some (encI 0x35#6 d a (0x4#4 ++ c))
  | .csrs d a c => some (encI 0x35#6 d a (0x8#4 ++ c))
  | .csrc d a c => some (encI 0x35#6 d a (0xC#4 ++ c))
  | .copy a => some (encT 0x2C#6 0x0#5 (a ++ 0x0#2) 0x0#5 0x1#7 0x0#4)
  | .copyt d a => some (encT 0x2C#6 d (a ++ 0x0#2) 0x0#5 0x2#7 0x0#4)
  | .cpbind d a b => some (encT 0x2C#6 d a b 0x3#7 0x0#4)
  | .cpunb d a => some (encT 0x2C#6 d a 0x0#5 0x4#7 0x0#4)
  | .cppop d => some (encT 0x2C#6 d 0x0#5 0x0#5 0x5#7 0x0#4)
  | .cpstat d a => some (encT 0x2C#6 d a 0x0#5 0x6#7 0x0#4)
  | .tlook d a => some (encT 0x2D#6 d a 0x0#5 0x1#7 0x0#4)
  | .tins d a => some (encT 0x2D#6 d a 0x0#5 0x2#7 0x0#4)
  | .tdel d a => some (encT 0x2D#6 d a 0x0#5 0x3#7 0x0#4)
  | .tstat d a => some (encT 0x2D#6 d a 0x0#5 0x4#7 0x0#4)
  | .qarr d a => some (encT 0x2E#6 d a 0x0#5 0x1#7 0x0#4)
  | .qseal d a => some (encT 0x2E#6 d a 0x0#5 0x2#7 0x0#4)
  | .qdep a => some (encT 0x2E#6 0x0#5 a 0x0#5 0x3#7 0x0#4)
  | .qsplit d a b => some (encT 0x2E#6 d a b 0x4#7 0x0#4)
  | .qdef d => some (encT 0x2E#6 d 0x0#5 0x0#5 0x5#7 0x0#4)
  | .qidx d a => some (encT 0x2E#6 d a 0x0#5 0x6#7 0x0#4)
  | .qpop d => some (encT 0x2E#6 d 0x0#5 0x0#5 0x7#7 0x0#4)
  | .qfirst d => some (encT 0x2E#6 d 0x0#5 0x0#5 0x8#7 0x0#4)
  | .qget d a => some (encT 0x2E#6 d a 0x0#5 0x9#7 0x0#4)
  | .qput a b => some (encT 0x2E#6 0x0#5 a b 0xA#7 0x0#4)
  | .qadd a => some (encT 0x2E#6 0x0#5 a 0x0#5 0xB#7 0x0#4)
  | .qdel a => some (encT 0x2E#6 0x0#5 a 0x0#5 0xC#7 0x0#4)
  | .cqmrg d a b => some (encT 0x2F#6 d a b 0x1#7 0x0#4)
  | .cqbest d a b => some (encT 0x2F#6 d a b 0x2#7 0x0#4)
  | .cqinit d a b => some (encT 0x2F#6 d a b 0x3#7 0x0#4)
  | .cqcnt d a => some (encT 0x2F#6 d a 0x0#5 0x4#7 0x0#4)
  | .vvis d a b => some (encT 0x2F#6 (0x0#2 ++ d ++ 0x0#1) a b 0x5#7 0x0#4)
  | .cvenc d a => some (encT 0x30#6 d a 0x0#5 0x1#7 0x0#4)
  | .cvdec d a => some (encT 0x30#6 d a 0x0#5 0x2#7 0x0#4)
  | .cvadd d a b => some (encT 0x30#6 d a b 0x3#7 0x0#4)
  | .cvsub d a b => some (encT 0x30#6 d a b 0x4#7 0x0#4)
  | .cvin d a b => some (encT 0x30#6 d a (b ++ 0x0#1) 0x5#7 0x0#4)
  | .cvnext d a b => some (encT 0x30#6 d a (b ++ 0x0#1) 0x6#7 0x0#4)
  | .cvprev d a b => some (encT 0x30#6 d a (b ++ 0x0#1) 0x7#7 0x0#4)
  | .cvlev d a b => some (encT 0x30#6 d a b 0x8#7 0x0#4)
  | .cvcell d a b => some (encT 0x30#6 d a b 0x9#7 0x0#4)
  | .cvsplit d a b => some (encT 0x30#6 d (a ++ 0x0#2) b 0xA#7 0x0#4)
  | .vcvadd d a b q k => some (encT 0x31#6 d a b 0x1#7 (q ++ k))
  | .vcvin d a b q k => some (encT 0x31#6 (0x0#2 ++ d) a (b ++ 0x0#1) 0x2#7 (q ++ k))
  | .vcvenc d a q k => some (encT 0x31#6 d a 0x0#5 0x3#7 (q ++ k))
  | .mxgang d a => some (encT 0x32#6 d a 0x0#5 0x1#7 0x0#4)
  | .mxleave d => some (encT 0x32#6 d 0x0#5 0x0#5 0x2#7 0x0#4)
  | .mxgo d a => some (encT 0x32#6 (0x0#3 ++ d) (a ++ 0x0#2) 0x0#5 0x3#7 0x0#4)
  | .mxres a => some (encT 0x32#6 0x0#5 (a ++ 0x0#2) 0x0#5 0x4#7 0x0#4)
  | .mxmov d a b l => some (encT 0x32#6 d (0x0#3 ++ a) b 0x5#7 l)
  | .mxdrain d a => some (encT 0x32#6 (0x0#3 ++ d) (a ++ 0x0#2) 0x0#5 0x6#7 0x0#4)
  | .mxzero d => some (encT 0x32#6 (0x0#3 ++ d) 0x0#5 0x0#5 0x7#7 0x0#4)
  | .pwreq d => some (encT 0x32#6 d 0x0#5 0x0#5 0x8#7 0x0#4)
  | .bkload d a b => some (encT 0x33#6 d a b 0x1#7 0x0#4)
  | .bkpush d a => some (encT 0x33#6 d (a ++ 0x0#2) 0x0#5 0x2#7 0x0#4)
  | .bkpop d => some (encT 0x33#6 d 0x0#5 0x0#5 0x3#7 0x0#4)
  | .bkstat d a b l => some (encT 0x33#6 d a b 0x4#7 l)
  | .bnop => some (0x0#32)
  | .bset d s i => some (0x1#4 ++ d ++ s ++ i)
  | .badd d a i => some (0x2#4 ++ d ++ a ++ i)
  | .blda b a l o => some (0x3#4 ++ b ++ 0x0#1 ++ a ++ l ++ o)
  | .bldaP b l o => some (0x3#4 ++ b ++ 0x10#5 ++ l ++ o)
  | .brow m a n k r => some (0x4#4 ++ m ++ a ++ n ++ k ++ r ++ 0x0#4)
  | .bscl m a n r => some (0x5#4 ++ m ++ a ++ n ++ r ++ 0x0#8)
  | .bwr m a n r => some (0x6#4 ++ m ++ a ++ n ++ r ++ 0x0#8)
  | .bloop c s => some (0x7#4 ++ c ++ 0x0#14 ++ s)
  | .bend => some (0x80000000#32)
  | .bsync a b => some (0x9#4 ++ a ++ b ++ 0x0#20)
  | .bwait m c => some (0xA#4 ++ m ++ c ++ 0x0#19)
  | .bfmt a b c r s m n => some (0xB#4 ++ a ++ b ++ c ++ r ++ s ++ m ++ n ++ 0x0#8)
  | .bzero r n => some (0xC#4 ++ r ++ n ++ 0x0#20)
  | .bcopy d a b => some (0xD#4 ++ d ++ a ++ b ++ 0x0#16)
  | .bhalt => some (0xE0000000#32)
  | .btrap c => some (0xF000#16 ++ c)
  | .launchPortWrite _ _ _ _ _ => none
  | .launchRecord _ => none
  | .launchSelect _ => none
  | .coresidentStart _ _ => none
  | .threadStartEmit _ => none
  | .threadStartMessage _ => none
  | .returnedThreadStart _ => none
  | .reemitTimeout _ => none
  | .heldMessageRetry _ => none
  | .spawnMessage _ => none
  | .inboundMessageStart _ => none
  | .resultLands _ _ _ _ => none
  | .trapEntry _ _ => none
  | .watchdogExpiry _ _ => none
  | .storeWriteAtHome _ _ => none
  | .storeAck _ _ => none
  | .bartTimeout _ _ => none
  | .hbarTimeout _ _ => none
  | .wireRelease _ _ _ => none
  | .tlbWalk _ _ _ => none
  | .heldPageRequestWrite => none
  | .pageRequestAnswer _ => none
  | .copyCommandStart _ _ => none
  | .watermarkAdvance _ _ _ => none
  | .copyCompletion _ _ => none
  | .channelAutoUnbind _ _ => none
  | .bankCommandStart _ => none
  | .bkloadRun _ => none
  | .bkstatSample _ _ _ => none
  | .bldaComplete _ _ => none
  | .bcopyComplete _ _ => none
  | .bankRecordPost _ => none
  | .engineWatchdog _ => none
  | .gangStart _ => none
  | .kGroupCommit _ => none
  | .powerGrant _ => none
  | .sliceAwake _ => none
  | .sliceGate _ => none
  | .grantRevoke _ => none
  | .currentSample _ => none
  | .thermalThrottle _ => none
  | .thermalTrip _ => none
  | .routeStep _ => none
  | .routerPowerDown _ => none
  | .routerWake _ => none
  | .linkFlitRetry _ _ => none
  | .etgusFlitReceive _ _ => none
  | .etgusRetryRequest _ _ => none
  | .etgusRetrain _ => none
  | .podWindowRequest _ _ _ _ _ _ => none
  | .hostLinkDown => none
  | .bar4Read _ _ => none
  | .bar4Write _ _ => none
  | .launchCompletion _ => none
  | .lcmdPreempt _ _ => none
  | .lcmdResume _ _ => none
  | .lcmdTerminate _ _ => none
  | .preemptHaltComplete _ => none
  | .saveRegionWrite _ => none
  | .resumeRestore _ => none
  | .gangResume _ => none
  | .resumedDistribution _ => none
  | .qctlWrite _ _ _ => none
  | .qcntClear _ _ _ => none
  | .corePark _ _ => none
  | .coreUnpark _ _ => none
  | .excuseWrite _ _ _ => none
  | .parkrefClear _ _ => none
  | .debugContinue _ _ => none
  | .dbgignClear _ _ => none
  | .layctlWrite _ => none
  | .keyLoad _ => none
  | .keyLoadComplete => none
  | .versionBump _ => none
  | .versionBumpComplete => none
  | .gcapWrite _ => none
  | .ttdataWrite _ => none
  | .bar0RegisterWrite _ _ => none
  | .attestationQuote _ => none
  | .firmwareImageWrite _ => none
  | .firmwareUpdate _ _ => none
  | .scrubBlock _ _ _ => none
  | .reset _ => none
  | .atomicAtHome _ _ _ _ => none
  | .bankCommandPush _ => none
  | .etgusRetrainDone _ _ => none
  | .dirtyLineWriteBack _ _ => none
  | .uncorrectableRegisterError _ _ _ => none

/-- The instruction a table word stands for. The first word's bits come first and a Jihar or bank-code word is 32 bits, so the
word is `w` itself: read as a Jihar word (11 R154), or, where no Jihar instruction has it, as bank code. -/
noncomputable def decodeTableWord (nbits w : Nat) : Option Instr :=
  if nbits ≤ 32 ∧ w < 2 ^ 32 then (decode (BitVec.ofNat 32 w)).or (decodeBank (BitVec.ofNat 32 w)) else none

end Sys2Proof
end

