-- ==== Sys2Proof/Machine/Regs.lean ====
section
/-! DEFINITION. The registers an instruction reads and writes, by the register classes its owner gives its fields (11 R127): what the
scoreboard of 11 R134 and the register errors of 13 R184 look at. A write that keeps part of a register also reads it. -/

namespace Sys2Proof

/-- Register i of a quad: x[4a + i] (18 R253, 22 R286, 24 R311, 26 R327). -/
def quad (a : BitVec 3) (i : Nat) : BitVec 5 :=
  BitVec.ofNat 5 (4 * a.toNat + i)

/-- Register i of a pair: x[2b + i] (24 R311). -/
def pair (b : BitVec 4) (i : Nat) : BitVec 5 :=
  BitVec.ofNat 5 (2 * b.toNat + i)

/-- x1 to x31, which a split copies to its clone (20 R270). -/
def allX : List RegName :=
  (List.range 31).map fun n => .x (BitVec.ofNat 5 (n + 1))

/-- The registers an instruction reads, the CSRs and sets that its meaning takes a value from among them. QPUT, which writes a word of a set, and
CSRW into x0 read none of these, so that a handler can end the error of one (13 R184, log 83). -/
def Instr.reads : Instr → List RegName
  | .add _ a b => [.x a, .x b]
  | .sub _ a b => [.x a, .x b]
  | .and _ a b => [.x a, .x b]
  | .or _ a b => [.x a, .x b]
  | .xor _ a b => [.x a, .x b]
  | .andn _ a b => [.x a, .x b]
  | .sll _ a b => [.x a, .x b]
  | .srl _ a b => [.x a, .x b]
  | .sra _ a b => [.x a, .x b]
  | .ror _ a b => [.x a, .x b]
  | .slt _ a b => [.x a, .x b]
  | .sltu _ a b => [.x a, .x b]
  | .min _ a b => [.x a, .x b]
  | .max _ a b => [.x a, .x b]
  | .minu _ a b => [.x a, .x b]
  | .maxu _ a b => [.x a, .x b]
  | .mul _ a b => [.x a, .x b]
  | .mulh _ a b => [.x a, .x b]
  | .mulhu _ a b => [.x a, .x b]
  | .div _ a b _ => [.x a, .x b]
  | .divu _ a b _ => [.x a, .x b]
  | .rem _ a b _ => [.x a, .x b]
  | .remu _ a b _ => [.x a, .x b]
  | .clz _ a => [.x a]
  | .ctz _ a => [.x a]
  | .popc _ a => [.x a]
  | .addi _ a _ => [.x a]
  | .andi _ a _ => [.x a]
  | .ori _ a _ => [.x a]
  | .xori _ a _ => [.x a]
  | .slti _ a _ => [.x a]
  | .sltiu _ a _ => [.x a]
  | .shiSll _ a _ => [.x a]
  | .shiSrl _ a _ => [.x a]
  | .shiSra _ a _ => [.x a]
  | .shiRor _ a _ => [.x a]
  | .liw d _ _ => [.x d]
  | .lpc _ _ => []
  | .beq a b _ => [.x a, .x b]
  | .bne a b _ => [.x a, .x b]
  | .blt a b _ => [.x a, .x b]
  | .bge a b _ => [.x a, .x b]
  | .bltu a b _ => [.x a, .x b]
  | .bgeu a b _ => [.x a, .x b]
  | .jal _ _ => []
  | .jalr _ a _ => [.x a]
  | .ld8u _ a _ _ => [.x a]
  | .ld8s _ a _ _ => [.x a]
  | .ld16u _ a _ _ => [.x a]
  | .ld16s _ a _ _ => [.x a]
  | .ld32u _ a _ _ => [.x a]
  | .ld32s _ a _ _ => [.x a]
  | .ld64 _ a _ _ => [.x a]
  | .st8 d a _ => [.x d, .x a]
  | .st16 d a _ => [.x d, .x a]
  | .st32 d a _ => [.x d, .x a]
  | .st64 d a _ => [.x d, .x a]
  | .prefL1 a _ => [.x a]
  | .prefSlice a _ => [.x a]
  | .prefTlb a _ => [.x a]
  | .at32Add _ a b _ _ _ => [.x a, .x b]
  | .at32And _ a b _ _ _ => [.x a, .x b]
  | .at32Or _ a b _ _ _ => [.x a, .x b]
  | .at32Xor _ a b _ _ _ => [.x a, .x b]
  | .at32Max _ a b _ _ _ => [.x a, .x b]
  | .at32Min _ a b _ _ _ => [.x a, .x b]
  | .at32Swap _ a b _ _ _ => [.x a, .x b]
  | .at32Cas d a b _ _ _ => [.x d, .x a, .x b]
  | .at64Add _ a b _ _ _ => [.x a, .x b]
  | .at64And _ a b _ _ _ => [.x a, .x b]
  | .at64Or _ a b _ _ _ => [.x a, .x b]
  | .at64Xor _ a b _ _ _ => [.x a, .x b]
  | .at64Max _ a b _ _ _ => [.x a, .x b]
  | .at64Min _ a b _ _ _ => [.x a, .x b]
  | .at64Swap _ a b _ _ _ => [.x a, .x b]
  | .at64Cas d a b _ _ _ => [.x d, .x a, .x b]
  | .fenceAcq _ => []
  | .fenceAcqReg a => [.x a]
  | .fenceRel _ => []
  | .fenceRelReg a => [.x a]
  | .fenceAr _ => []
  | .fenceArReg a => [.x a]
  | .fenceSc _ => []
  | .fenceScReg a => [.x a]
  | .lda32 _ a _ _ => [.x a]
  | .lda64 _ a _ _ => [.x a]
  | .stl32 d a _ => [.x d, .x a]
  | .stl64 d a _ => [.x d, .x a]
  | .scope _ a b => [.x a, .x b]
  | .ldl _ a _ => [.x a]
  | .stu _ a b => [.x a, .x b]
  | .vld _ a _ _ => [.x a]
  | .vst d a _ => [.x a, .v d]
  | .vgather _ a b _ _ k => [.x a, .v b, .k k]
  | .vscatter d a b _ k => [.v d, .x a, .v b, .k k]
  | .vlds _ a b _ _ k => [.x a, .x b, .k k]
  | .vsts d a b _ k => [.v d, .x a, .x b, .k k]
  | .vadd d a b _ k => [.v d, .v a, .v b, .k k]
  | .vsub d a b _ k => [.v d, .v a, .v b, .k k]
  | .vmul d a b _ k => [.v d, .v a, .v b, .k k]
  | .vmulh d a b _ k => [.v d, .v a, .v b, .k k]
  | .vadds d a b _ k => [.v d, .v a, .v b, .k k]
  | .vsubs d a b _ k => [.v d, .v a, .v b, .k k]
  | .vand d a b _ k => [.v d, .v a, .v b, .k k]
  | .vor d a b _ k => [.v d, .v a, .v b, .k k]
  | .vxor d a b _ k => [.v d, .v a, .v b, .k k]
  | .vsll d a b _ k => [.v d, .v a, .v b, .k k]
  | .vsrl d a b _ k => [.v d, .v a, .v b, .k k]
  | .vsra d a b _ k => [.v d, .v a, .v b, .k k]
  | .vmin d a b _ k => [.v d, .v a, .v b, .k k]
  | .vmax d a b _ k => [.v d, .v a, .v b, .k k]
  | .vminu d a b _ k => [.v d, .v a, .v b, .k k]
  | .vmaxu d a b _ k => [.v d, .v a, .v b, .k k]
  | .vsel d a b _ k => [.v d, .v a, .v b, .k k]
  | .vcmpEq _ a b _ k => [.v a, .v b, .k k]
  | .vcmpNe _ a b _ k => [.v a, .v b, .k k]
  | .vcmpLt _ a b _ k => [.v a, .v b, .k k]
  | .vcmpLe _ a b _ k => [.v a, .v b, .k k]
  | .vcmpLtu _ a b _ k => [.v a, .v b, .k k]
  | .vcmpLeu _ a b _ k => [.v a, .v b, .k k]
  | .vfadd d a b _ k => [.v d, .v a, .v b, .k k, .csr 0x004]
  | .vfsub d a b _ k => [.v d, .v a, .v b, .k k, .csr 0x004]
  | .vfmul d a b _ k => [.v d, .v a, .v b, .k k, .csr 0x004]
  | .vfma d a b _ k => [.v d, .v a, .v b, .k k, .csr 0x004]
  | .vfms d a b _ k => [.v d, .v a, .v b, .k k, .csr 0x004]
  | .vfdiv d a b _ k => [.v d, .v a, .v b, .k k, .csr 0x004]
  | .vfsqrt d a _ k => [.v d, .v a, .k k, .csr 0x004]
  | .vfmin d a b _ k => [.v d, .v a, .v b, .k k]
  | .vfmax d a b _ k => [.v d, .v a, .v b, .k k]
  | .vfabs d a _ k => [.v d, .v a, .k k]
  | .vfneg d a _ k => [.v d, .v a, .k k]
  | .vfcmpEq _ a b _ k => [.v a, .v b, .k k]
  | .vfcmpNe _ a b _ k => [.v a, .v b, .k k]
  | .vfcmpLt _ a b _ k => [.v a, .v b, .k k]
  | .vfcmpLe _ a b _ k => [.v a, .v b, .k k]
  | .vfcmpUn _ a b _ k => [.v a, .v b, .k k]
  | .vperm d a b _ k => [.v d, .v a, .v b, .k k]
  | .vbcast d a _ k => [.v d, .x a, .k k]
  | .vextr _ a b _ => [.v a, .x b]
  | .vinsr d a b _ => [.v d, .x a, .x b]
  | .vsort d a _ k => [.v d, .v a, .k k]
  | .vcompr d a _ k => [.v d, .v a, .k k]
  | .vdot4 d a b _ k => [.v d, .v a, .v b, .k k]
  | .vfdot d a b _ k => [.v d, .v a, .v b, .k k, .csr 0x004]
  | .kand _ a b _ => [.k a, .k b]
  | .kor _ a b _ => [.k a, .k b]
  | .kxor _ a b _ => [.k a, .k b]
  | .knot _ a _ => [.k a]
  | .klen _ a _ => [.x a]
  | .kpop _ a _ => [.k a]
  | .vredAdd _ a _ k => [.v a, .k k]
  | .vredMin _ a _ k => [.v a, .k k]
  | .vredMax _ a _ k => [.v a, .k k]
  | .vredMinu _ a _ k => [.v a, .k k]
  | .vredMaxu _ a _ k => [.v a, .k k]
  | .vredAnd _ a _ k => [.v a, .k k]
  | .vredOr _ a _ k => [.v a, .k k]
  | .vredXor _ a _ k => [.v a, .k k]
  | .vredFadd _ a _ k => [.v a, .k k, .csr 0x004]
  | .vredFmin _ a _ k => [.v a, .k k]
  | .vredFmax _ a _ k => [.v a, .k k]
  | .vscanAdd d a _ k => [.v d, .v a, .k k]
  | .vscanMin d a _ k => [.v d, .v a, .k k]
  | .vscanMax d a _ k => [.v d, .v a, .k k]
  | .vscanFadd d a _ k => [.v d, .v a, .k k, .csr 0x004]
  | .vcvt d a _ k => [.v d, .v a, .k k, .csr 0x004]
  | .vpack d a b _ => [.v d, .v a, .v b, .csr 0x004]
  | .vunpk _ a b _ => [.v a, .x b]
  | .fmt _ _ _ _ _ _ => []
  | .spawn _ a b _ => [.x a, .x b, .x 1, .x 2, .x 3, .x 4, .csr 0x000, .csr 0x001, .csr 0x003, .csr 0x004, .csr 0x008, .csr 0x043]
  | .send d a b _ => [.x d, .x a, .x b, .x 1, .x 2, .x 3, .x 4, .csr 0x000, .csr 0x001, .csr 0x003, .csr 0x004, .csr 0x008, .csr 0x043]
  | .launch _ a b _ => [.x a, .x b, .csr 0x001]
  | .exit => []
  | .yield => []
  | .wait _ a b => [.x a, .x b]
  | .join _ a _ => [.x a]
  | .leave _ a _ => [.x a]
  | .bar _ a => [.x a]
  | .bart _ a b => [.x a, .x b]
  | .hbar _ a b => [.x a, .x b]
  | .trap a => [.x a]
  | .eret => [.csr 0x007, .csr 0x008, .csr 0x040]
  | .halt => []
  | .tlbw d a b => [.x d, .x a, .x b]
  | .tlbi d a b => [.x d, .x a, .x b]
  | .csrr _ c => [.csr c]
  | .csrw d a c => if d = 0 then [.x a] else [.x a, .csr c]
  | .csrs _ a c => [.x a, .csr c]
  | .csrc _ a c => [.x a, .csr c]
  | .copy a => [.x (quad a 0), .x (quad a 1), .x (quad a 2), .x (quad a 3), .csr 0x004]
  | .copyt _ a => [.x (quad a 0), .x (quad a 1), .x (quad a 2), .x (quad a 3), .csr 0x004]
  | .cpbind _ a b => [.x a, .x b]
  | .cpunb _ a => [.x a]
  | .cppop _ => []
  | .cpstat _ a => [.x a]
  | .tlook _ a => [.x a]
  | .tins _ a => [.x a]
  | .tdel _ a => [.x a]
  | .tstat _ a => [.x a]
  | .qarr _ a => [.x a, .qm, .csr 0x001, .csr 0x00D]
  | .qseal _ a => [.x a, .qm, .csr 0x001, .csr 0x00D]
  | .qdep a => [.x a, .qm, .csr 0x001, .csr 0x00D]
  | .qsplit _ a _ => allX ++ [.v a, .qm, .csr 0x000, .csr 0x001, .csr 0x003, .csr 0x004, .csr 0x008, .csr 0x009, .csr 0x00B, .csr 0x00C, .csr 0x00D, .csr 0x043]
  | .qdef _ => [.qm, .qd]
  | .qidx _ a => [.x a, .qm]
  | .qpop _ => [.qm]
  | .qfirst _ => [.qm]
  | .qget _ a => [.x a, .qm, .qd]
  | .qput a b => [.x a, .x b]
  | .qadd a => [.x a, .qm]
  | .qdel a => [.x a, .qm]
  | .cqmrg d a b => [.x d, .v a, .v b, .csr 0x00B, .csr 0x00C]
  | .cqbest _ a b => [.x a, .x b, .csr 0x00B, .csr 0x00C]
  | .cqinit _ a b => [.x a, .x b, .csr 0x00B, .csr 0x00C]
  | .cqcnt _ a => [.x a, .csr 0x00B, .csr 0x00C]
  | .vvis _ a b => [.v a, .v b, .csr 0x00B, .csr 0x00C]
  | .cvenc _ a => [.v a, .csr 0x009, .csr 0x00A]
  | .cvdec _ a => [.x a, .csr 0x009]
  | .cvadd _ a b => [.x a, .x b, .csr 0x009]
  | .cvsub _ a b => [.x a, .x b, .csr 0x009]
  | .cvin _ a b => [.x a, .x (pair b 0), .x (pair b 1), .csr 0x009]
  | .cvnext _ a b => [.x a, .x (pair b 0), .x (pair b 1), .csr 0x009]
  | .cvprev _ a b => [.x a, .x (pair b 0), .x (pair b 1), .csr 0x009]
  | .cvlev _ a b => [.x a, .x b, .csr 0x009]
  | .cvcell _ a b => [.x a, .x b, .csr 0x009]
  | .cvsplit _ a b => [.x (quad a 0), .x (quad a 1), .x (quad a 2), .x (quad a 3), .x b, .csr 0x009]
  | .vcvadd d a b _ k => [.v d, .v a, .v b, .k k, .csr 0x009]
  | .vcvin _ a b _ k => [.v a, .k k, .x (pair b 0), .x (pair b 1), .csr 0x009]
  | .vcvenc d a _ k => [.v d, .v a, .k k, .csr 0x009, .csr 0x00A]
  | .mxgang _ a => [.x a]
  | .mxleave _ => []
  | .mxgo d a => [.x (quad a 0), .x (quad a 1), .x (quad a 2), .x (quad a 3), .acc d, .csr 0x004]
  | .mxres a => [.x (quad a 0), .x (quad a 1), .x (quad a 2), .x (quad a 3), .csr 0x00E]
  | .mxmov _ a b _ => [.x b, .acc a]
  | .mxdrain d a => [.x (quad a 0), .x (quad a 1), .x (quad a 2), .x (quad a 3), .acc d, .csr 0x004]
  | .mxzero _ => []
  | .pwreq _ => []
  | .bkload d a b => [.x d, .x a, .x b]
  | .bkpush d a => [.x d, .x (quad a 0), .x (quad a 1), .x (quad a 2), .x (quad a 3), .csr 0x004]
  | .bkpop _ => []
  | .bkstat _ a b _ => [.x a, .x b]
  | _ => []

/-- The registers an instruction writes. -/
def Instr.writes : Instr → List RegName
  | .add d _ _ => [.x d]
  | .sub d _ _ => [.x d]
  | .and d _ _ => [.x d]
  | .or d _ _ => [.x d]
  | .xor d _ _ => [.x d]
  | .andn d _ _ => [.x d]
  | .sll d _ _ => [.x d]
  | .srl d _ _ => [.x d]
  | .sra d _ _ => [.x d]
  | .ror d _ _ => [.x d]
  | .slt d _ _ => [.x d]
  | .sltu d _ _ => [.x d]
  | .min d _ _ => [.x d]
  | .max d _ _ => [.x d]
  | .minu d _ _ => [.x d]
  | .maxu d _ _ => [.x d]
  | .mul d _ _ => [.x d]
  | .mulh d _ _ => [.x d]
  | .mulhu d _ _ => [.x d]
  | .div d _ _ _ => [.x d]
  | .divu d _ _ _ => [.x d]
  | .rem d _ _ _ => [.x d]
  | .remu d _ _ _ => [.x d]
  | .clz d _ => [.x d]
  | .ctz d _ => [.x d]
  | .popc d _ => [.x d]
  | .addi d _ _ => [.x d]
  | .andi d _ _ => [.x d]
  | .ori d _ _ => [.x d]
  | .xori d _ _ => [.x d]
  | .slti d _ _ => [.x d]
  | .sltiu d _ _ => [.x d]
  | .shiSll d _ _ => [.x d]
  | .shiSrl d _ _ => [.x d]
  | .shiSra d _ _ => [.x d]
  | .shiRor d _ _ => [.x d]
  | .liw d _ _ => [.x d]
  | .lpc d _ => [.x d]
  | .beq _ _ _ => []
  | .bne _ _ _ => []
  | .blt _ _ _ => []
  | .bge _ _ _ => []
  | .bltu _ _ _ => []
  | .bgeu _ _ _ => []
  | .jal d _ => [.x d]
  | .jalr d _ _ => [.x d]
  | .ld8u d _ _ _ => [.x d]
  | .ld8s d _ _ _ => [.x d]
  | .ld16u d _ _ _ => [.x d]
  | .ld16s d _ _ _ => [.x d]
  | .ld32u d _ _ _ => [.x d]
  | .ld32s d _ _ _ => [.x d]
  | .ld64 d _ _ _ => [.x d]
  | .st8 _ _ _ => []
  | .st16 _ _ _ => []
  | .st32 _ _ _ => []
  | .st64 _ _ _ => []
  | .prefL1 _ _ => []
  | .prefSlice _ _ => []
  | .prefTlb _ _ => []
  | .at32Add d _ _ _ _ _ => [.x d]
  | .at32And d _ _ _ _ _ => [.x d]
  | .at32Or d _ _ _ _ _ => [.x d]
  | .at32Xor d _ _ _ _ _ => [.x d]
  | .at32Max d _ _ _ _ _ => [.x d]
  | .at32Min d _ _ _ _ _ => [.x d]
  | .at32Swap d _ _ _ _ _ => [.x d]
  | .at32Cas d _ _ _ _ _ => [.x d]
  | .at64Add d _ _ _ _ _ => [.x d]
  | .at64And d _ _ _ _ _ => [.x d]
  | .at64Or d _ _ _ _ _ => [.x d]
  | .at64Xor d _ _ _ _ _ => [.x d]
  | .at64Max d _ _ _ _ _ => [.x d]
  | .at64Min d _ _ _ _ _ => [.x d]
  | .at64Swap d _ _ _ _ _ => [.x d]
  | .at64Cas d _ _ _ _ _ => [.x d]
  | .fenceAcq _ => []
  | .fenceAcqReg _ => []
  | .fenceRel _ => []
  | .fenceRelReg _ => []
  | .fenceAr _ => []
  | .fenceArReg _ => []
  | .fenceSc _ => []
  | .fenceScReg _ => []
  | .lda32 d _ _ _ => [.x d]
  | .lda64 d _ _ _ => [.x d]
  | .stl32 _ _ _ => []
  | .stl64 _ _ _ => []
  | .scope d _ _ => [.x d]
  | .ldl d _ _ => [.x d]
  | .stu d _ _ => [.x d]
  | .vld d _ _ _ => [.v d]
  | .vst _ _ _ => []
  | .vgather d _ _ _ _ _ => [.v d]
  | .vscatter _ _ _ _ _ => []
  | .vlds d _ _ _ _ _ => [.v d]
  | .vsts _ _ _ _ _ => []
  | .vadd d _ _ _ _ => [.v d]
  | .vsub d _ _ _ _ => [.v d]
  | .vmul d _ _ _ _ => [.v d]
  | .vmulh d _ _ _ _ => [.v d]
  | .vadds d _ _ _ _ => [.v d]
  | .vsubs d _ _ _ _ => [.v d]
  | .vand d _ _ _ _ => [.v d]
  | .vor d _ _ _ _ => [.v d]
  | .vxor d _ _ _ _ => [.v d]
  | .vsll d _ _ _ _ => [.v d]
  | .vsrl d _ _ _ _ => [.v d]
  | .vsra d _ _ _ _ => [.v d]
  | .vmin d _ _ _ _ => [.v d]
  | .vmax d _ _ _ _ => [.v d]
  | .vminu d _ _ _ _ => [.v d]
  | .vmaxu d _ _ _ _ => [.v d]
  | .vsel d _ _ _ _ => [.v d]
  | .vcmpEq d _ _ _ _ => [.k d]
  | .vcmpNe d _ _ _ _ => [.k d]
  | .vcmpLt d _ _ _ _ => [.k d]
  | .vcmpLe d _ _ _ _ => [.k d]
  | .vcmpLtu d _ _ _ _ => [.k d]
  | .vcmpLeu d _ _ _ _ => [.k d]
  | .vfadd d _ _ _ _ => [.v d]
  | .vfsub d _ _ _ _ => [.v d]
  | .vfmul d _ _ _ _ => [.v d]
  | .vfma d _ _ _ _ => [.v d]
  | .vfms d _ _ _ _ => [.v d]
  | .vfdiv d _ _ _ _ => [.v d]
  | .vfsqrt d _ _ _ => [.v d]
  | .vfmin d _ _ _ _ => [.v d]
  | .vfmax d _ _ _ _ => [.v d]
  | .vfabs d _ _ _ => [.v d]
  | .vfneg d _ _ _ => [.v d]
  | .vfcmpEq d _ _ _ _ => [.k d]
  | .vfcmpNe d _ _ _ _ => [.k d]
  | .vfcmpLt d _ _ _ _ => [.k d]
  | .vfcmpLe d _ _ _ _ => [.k d]
  | .vfcmpUn d _ _ _ _ => [.k d]
  | .vperm d _ _ _ _ => [.v d]
  | .vbcast d _ _ _ => [.v d]
  | .vextr d _ _ _ => [.x d]
  | .vinsr d _ _ _ => [.v d]
  | .vsort d _ _ _ => [.v d]
  | .vcompr d _ _ _ => [.v d]
  | .vdot4 d _ _ _ _ => [.v d]
  | .vfdot d _ _ _ _ => [.v d]
  | .kand d _ _ _ => [.k d]
  | .kor d _ _ _ => [.k d]
  | .kxor d _ _ _ => [.k d]
  | .knot d _ _ => [.k d]
  | .klen d _ _ => [.k d]
  | .kpop d _ _ => [.x d]
  | .vredAdd d _ _ _ => [.x d]
  | .vredMin d _ _ _ => [.x d]
  | .vredMax d _ _ _ => [.x d]
  | .vredMinu d _ _ _ => [.x d]
  | .vredMaxu d _ _ _ => [.x d]
  | .vredAnd d _ _ _ => [.x d]
  | .vredOr d _ _ _ => [.x d]
  | .vredXor d _ _ _ => [.x d]
  | .vredFadd d _ _ _ => [.x d]
  | .vredFmin d _ _ _ => [.x d]
  | .vredFmax d _ _ _ => [.x d]
  | .vscanAdd d _ _ _ => [.v d]
  | .vscanMin d _ _ _ => [.v d]
  | .vscanMax d _ _ _ => [.v d]
  | .vscanFadd d _ _ _ => [.v d]
  | .vcvt d _ _ _ => [.v d]
  | .vpack d _ _ _ => [.v d]
  | .vunpk d _ _ _ => [.v d]
  | .fmt _ _ _ _ _ _ => []
  | .spawn d _ _ _ => [.x d]
  | .send d _ _ _ => [.x d]
  | .launch d _ _ _ => [.x d]
  | .exit => []
  | .yield => []
  | .wait d _ _ => [.x d]
  | .join d _ _ => [.x d]
  | .leave d _ _ => [.x d]
  | .bar d _ => [.x d]
  | .bart d _ _ => [.x d]
  | .hbar d _ _ => [.x d]
  | .trap _ => []
  | .eret => []
  | .halt => []
  | .tlbw _ _ _ => []
  | .tlbi _ _ _ => []
  | .csrr d _ => [.x d]
  | .csrw d _ _ => [.x d]
  | .csrs d _ _ => [.x d]
  | .csrc d _ _ => [.x d]
  | .copy _ => []
  | .copyt d _ => [.x d]
  | .cpbind d _ _ => [.x d]
  | .cpunb d _ => [.x d]
  | .cppop d => [.x d]
  | .cpstat d _ => [.x d]
  | .tlook d _ => [.x d]
  | .tins d _ => [.x d]
  | .tdel d _ => [.x d]
  | .tstat d _ => [.x d]
  | .qarr d _ => [.x d]
  | .qseal d _ => [.x d]
  | .qdep _ => []
  | .qsplit d _ _ => [.x d]
  | .qdef d => [.x d]
  | .qidx d a => [.v d, .x a, .k 7]
  | .qpop d => [.x d]
  | .qfirst d => [.x d]
  | .qget d _ => [.x d]
  | .qput _ _ => []
  | .qadd _ => []
  | .qdel _ => []
  | .cqmrg d _ _ => [.x d]
  | .cqbest d _ _ => [.x d]
  | .cqinit d _ _ => [.x d]
  | .cqcnt d _ => [.x d]
  | .vvis d _ _ => [.k (d ++ 0#1), .k (d ++ 1#1)]
  | .cvenc d _ => [.x d]
  | .cvdec d _ => [.v d]
  | .cvadd d _ _ => [.x d]
  | .cvsub d _ _ => [.x d]
  | .cvin d _ _ => [.x d]
  | .cvnext d _ _ => [.x d]
  | .cvprev d _ _ => [.x d]
  | .cvlev d _ _ => [.x d]
  | .cvcell d _ _ => [.x d]
  | .cvsplit d a _ => [.x d, .x (quad a 2)]
  | .vcvadd d _ _ _ _ => [.v d]
  | .vcvin d _ _ _ _ => [.k d]
  | .vcvenc d _ _ _ => [.v d]
  | .mxgang d _ => [.x d]
  | .mxleave d => [.x d]
  | .mxgo _ _ => []
  | .mxres _ => []
  | .mxmov d _ _ _ => [.v d]
  | .mxdrain _ _ => []
  | .mxzero _ => []
  | .pwreq d => [.x d]
  | .bkload _ _ _ => []
  | .bkpush _ _ => []
  | .bkpop d => [.x d]
  | .bkstat d _ _ _ => [.x d]
  | _ => []

/-- The registers whose pending result an instruction waits for: it reads or writes them (11 R134). -/
def Instr.touches (i : Instr) : List RegName :=
  i.reads ++ i.writes

end Sys2Proof
end

