-- ==== Sys2Proof/Machine/Scalar.lean ====
section
/-! DEFINITION. Register arithmetic, immediate forms, branches and jumps (12 R155 to R162). Each takes no format (06 R76). -/

namespace Sys2Proof.Machine

/-- Write x[d] and go on at the next word. -/
def State.alu (s : State) (d : BitVec 5) (v : Word) : Out :=
  s.plain (s.finish (s.me.wx d v))

/-- A truth value as a word. -/
def flag (b : Bool) : Word :=
  if b then 1 else 0

/-- The number of leading zeros (12 R156). -/
def clz (a : Word) : Word :=
  if a = 0 then 64 else BitVec.ofNat 64 (63 - Nat.log2 a.toNat)

/-- The number of trailing zeros. -/
def ctz (a : Word) : Word :=
  BitVec.ofNat 64 (((List.range 64).find? fun i => a.getLsbD i).getD 64)

/-- The number of ones. -/
def popc (a : Word) : Word :=
  BitVec.ofNat 64 ((List.range 64).filter fun i => a.getLsbD i).length

/-- The high half of the signed and of the unsigned product. -/
def mulHigh (a b : Word) : Word :=
  BitVec.ofInt 64 (a.toInt * b.toInt / 2 ^ 64)

def mulHighU (a b : Word) : Word :=
  BitVec.ofNat 64 (a.toNat * b.toNat / 2 ^ 64)

/-- Division, with the special cases of 12 R157. -/
def divS (a b : Word) : Word :=
  if b = 0 then -1 else a.sdiv b

def divU (a b : Word) : Word :=
  if b = 0 then -1 else a / b

def remS (a b : Word) : Word :=
  if b = 0 then -1 else a.srem b

def remU (a b : Word) : Word :=
  if b = 0 then -1 else a % b

/-- A division: long-latency, its result back at once in this model of orders (12 R157, 11 R134). -/
def State.division (s : State) (d : BitVec 5) (l : BitVec 4) (v : Word) : Out :=
  s.plain (.next (s.openWin s.me (.x d) 0xFFFF l .none (xRes v)))

def execAdd (d a b : BitVec 5) (s : State) : Out := s.alu d (s.me.rx a + s.me.rx b)
def execSub (d a b : BitVec 5) (s : State) : Out := s.alu d (s.me.rx a - s.me.rx b)
def execAnd (d a b : BitVec 5) (s : State) : Out := s.alu d (s.me.rx a &&& s.me.rx b)
def execOr (d a b : BitVec 5) (s : State) : Out := s.alu d (s.me.rx a ||| s.me.rx b)
def execXor (d a b : BitVec 5) (s : State) : Out := s.alu d (s.me.rx a ^^^ s.me.rx b)
def execAndn (d a b : BitVec 5) (s : State) : Out := s.alu d (s.me.rx a &&& ~~~s.me.rx b)
def execSll (d a b : BitVec 5) (s : State) : Out := s.alu d (s.me.rx a <<< ((s.me.rx b).toNat % 64))
def execSrl (d a b : BitVec 5) (s : State) : Out := s.alu d (s.me.rx a >>> ((s.me.rx b).toNat % 64))
def execSra (d a b : BitVec 5) (s : State) : Out := s.alu d ((s.me.rx a).sshiftRight ((s.me.rx b).toNat % 64))
def execRor (d a b : BitVec 5) (s : State) : Out := s.alu d ((s.me.rx a).rotateRight ((s.me.rx b).toNat % 64))
def execSlt (d a b : BitVec 5) (s : State) : Out := s.alu d (flag ((s.me.rx a).slt (s.me.rx b)))
def execSltu (d a b : BitVec 5) (s : State) : Out := s.alu d (flag ((s.me.rx a).ult (s.me.rx b)))
def execMin (d a b : BitVec 5) (s : State) : Out := s.alu d (if (s.me.rx b).slt (s.me.rx a) then s.me.rx b else s.me.rx a)
def execMax (d a b : BitVec 5) (s : State) : Out := s.alu d (if (s.me.rx a).slt (s.me.rx b) then s.me.rx b else s.me.rx a)
def execMinu (d a b : BitVec 5) (s : State) : Out := s.alu d (if (s.me.rx b).ult (s.me.rx a) then s.me.rx b else s.me.rx a)
def execMaxu (d a b : BitVec 5) (s : State) : Out := s.alu d (if (s.me.rx a).ult (s.me.rx b) then s.me.rx b else s.me.rx a)
def execMul (d a b : BitVec 5) (s : State) : Out := s.alu d (s.me.rx a * s.me.rx b)
def execMulh (d a b : BitVec 5) (s : State) : Out := s.alu d (mulHigh (s.me.rx a) (s.me.rx b))
def execMulhu (d a b : BitVec 5) (s : State) : Out := s.alu d (mulHighU (s.me.rx a) (s.me.rx b))
def execDiv (d a b : BitVec 5) (l : BitVec 4) (s : State) : Out := s.division d l (divS (s.me.rx a) (s.me.rx b))
def execDivu (d a b : BitVec 5) (l : BitVec 4) (s : State) : Out := s.division d l (divU (s.me.rx a) (s.me.rx b))
def execRem (d a b : BitVec 5) (l : BitVec 4) (s : State) : Out := s.division d l (remS (s.me.rx a) (s.me.rx b))
def execRemu (d a b : BitVec 5) (l : BitVec 4) (s : State) : Out := s.division d l (remU (s.me.rx a) (s.me.rx b))
def execClz (d a : BitVec 5) (s : State) : Out := s.alu d (clz (s.me.rx a))
def execCtz (d a : BitVec 5) (s : State) : Out := s.alu d (ctz (s.me.rx a))
def execPopc (d a : BitVec 5) (s : State) : Out := s.alu d (popc (s.me.rx a))

def execAddi (d a : BitVec 5) (i : BitVec 16) (s : State) : Out := s.alu d (s.me.rx a + i.signExtend 64)
def execAndi (d a : BitVec 5) (i : BitVec 16) (s : State) : Out := s.alu d (s.me.rx a &&& i.setWidth 64)
def execOri (d a : BitVec 5) (i : BitVec 16) (s : State) : Out := s.alu d (s.me.rx a ||| i.setWidth 64)
def execXori (d a : BitVec 5) (i : BitVec 16) (s : State) : Out := s.alu d (s.me.rx a ^^^ i.setWidth 64)
def execSlti (d a : BitVec 5) (i : BitVec 16) (s : State) : Out := s.alu d (flag ((s.me.rx a).slt (i.signExtend 64)))
def execSltiu (d a : BitVec 5) (i : BitVec 16) (s : State) : Out := s.alu d (flag ((s.me.rx a).ult (i.signExtend 64)))
def execShiSll (d a : BitVec 5) (n : BitVec 6) (s : State) : Out := s.alu d (s.me.rx a <<< n.toNat)
def execShiSrl (d a : BitVec 5) (n : BitVec 6) (s : State) : Out := s.alu d (s.me.rx a >>> n.toNat)
def execShiSra (d a : BitVec 5) (n : BitVec 6) (s : State) : Out := s.alu d ((s.me.rx a).sshiftRight n.toNat)
def execShiRor (d a : BitVec 5) (n : BitVec 6) (s : State) : Out := s.alu d ((s.me.rx a).rotateRight n.toNat)

/-- Insert a halfword; every other bit keeps its value (12 R158). -/
def execLiw (d : BitVec 5) (h : BitVec 2) (i : BitVec 16) (s : State) : Out :=
  s.alu d ((s.me.rx d &&& ~~~((0xFFFF : Word) <<< (16 * h.toNat))) ||| (i.setWidth 64 <<< (16 * h.toNat)))

def execLpc (d : BitVec 5) (i : BitVec 16) (s : State) : Out := s.alu d (s.me.pc + (i.signExtend 64 <<< 2))

/-- A conditional branch (12 R160). -/
def State.branch (s : State) (taken : Bool) (i : BitVec 16) : Out :=
  s.plain (.next (s.putMe (s.me.retire (if taken then s.me.pc + (i.signExtend 64 <<< 2) else s.me.pc + 4))))

def execBeq (a b : BitVec 5) (i : BitVec 16) (s : State) : Out := s.branch (decide (s.me.rx a = s.me.rx b)) i
def execBne (a b : BitVec 5) (i : BitVec 16) (s : State) : Out := s.branch (decide (s.me.rx a ≠ s.me.rx b)) i
def execBlt (a b : BitVec 5) (i : BitVec 16) (s : State) : Out := s.branch ((s.me.rx a).slt (s.me.rx b)) i
def execBge (a b : BitVec 5) (i : BitVec 16) (s : State) : Out := s.branch (!(s.me.rx a).slt (s.me.rx b)) i
def execBltu (a b : BitVec 5) (i : BitVec 16) (s : State) : Out := s.branch ((s.me.rx a).ult (s.me.rx b)) i
def execBgeu (a b : BitVec 5) (i : BitVec 16) (s : State) : Out := s.branch (!(s.me.rx a).ult (s.me.rx b)) i

def execJal (d : BitVec 5) (i : BitVec 21) (s : State) : Out :=
  s.plain (.next (s.putMe ((s.me.wx d (s.me.pc + 4)).retire (s.me.pc + (i.signExtend 64 <<< 2)))))

/-- The target is checked before anything is written; its trap has KIND 0 (12 R161; the KIND: log 18). -/
def execJalr (d a : BitVec 5) (i : BitVec 16) (s : State) : Out :=
  let t := s.me.rx a + i.signExtend 64
  s.plain (if t.toNat % 4 ≠ 0 then .next (s.trapMe 2 0 t)
    else .next (s.putMe ((s.me.wx d (s.me.pc + 4)).retire t)))

end Sys2Proof.Machine
end

