-- ==== Sys2Proof/Machine/Route.lean ====
section
/-! DEFINITION. The mesh's nodes and routes: node numbers and the units at them (15 R209, R211), turn lists and how a packet follows them
(15 R213, R214), the dimension-order tables that firmware writes (15 R215), and the access that a packet carries (15 R212). -/

namespace Sys2Proof.Machine

/-! ### Nodes and links (15 R209, R211) -/

/-- The port, x and row of a node number; row 0 is the top edge, y + 1 mesh row y, 17 the bottom edge. -/
def nodePort (v : BitVec 12) : Nat := v.toNat / 2 ^ 10
def nodeX (v : BitVec 12) : Nat := v.toNat / 2 ^ 5 % 2 ^ 5
def nodeRow (v : BitVec 12) : Nat := v.toNat % 2 ^ 5

/-- The node number of a port at a place. -/
def nodeAt (port x row : Nat) : BitVec 12 :=
  BitVec.ofNat 12 (port * 2 ^ 10 + x * 2 ^ 5 + row)

/-- Is a row an edge? -/
def isEdge (row : Nat) : Bool := decide (row = 0 ∨ row = 17)

/-- Does a node number name a unit? -/
def nodeExists (v : BitVec 12) : Bool :=
  let x := nodeX v
  let r := nodeRow v
  match nodePort v with
  | 0 => decide (1 ≤ r ∧ r ≤ 16)
  | 1 => isEdge r
  | 2 => (isEdge r && decide (x % 8 = 4)) || decide (r = 0 ∧ x % 16 = 8) || decide (r = 17 ∧ (x = 8 ∨ x = 24))
  | _ => decide (1 ≤ r ∧ r ≤ 16 ∧ (x = 15 ∨ x = 16))

/-- The units of the mesh: a core, slice k of a base, the translation core of a chiplet, the controller of a base, the host interface and
the Etgus agent. -/
def coreNode (n : Nat) : BitVec 12 := nodeAt 0 (coreX n) (coreY n + 1)
def sliceNode (base k : Nat) : BitVec 12 := nodeAt 1 (16 * base + k % 16) (if k < 16 then 0 else 17)
def transNode (c : Nat) : BitVec 12 := nodeAt 2 (16 * (c / 4) + 4 + 8 * (c % 2)) (if c % 4 < 2 then 0 else 17)
def ctlNodeOf (b : Nat) : BitVec 12 := nodeAt 2 (16 * b + 8) 0
/-- The node that an engine's or a controller's accesses come from: a core's, or, under 1024 + b, a controller's (log 22). -/
def fromNode (n : Nat) : BitVec 12 := if 1024 ≤ n then ctlNodeOf (n - 1024) else coreNode n
def hostNode : BitVec 12 := nodeAt 2 8 17
def agentNode : BitVec 12 := nodeAt 2 24 17

/-- The node of a location's home: its slice, the core whose scratch it is, the host interface, or the agent. -/
def homeNode (loc : Nat) : BitVec 12 :=
  if isDram loc then sliceNode (homeSlice loc).1 (homeSlice loc).2
  else if isScratch loc then coreNode (scratchCore loc)
  else if isHost loc then hostNode
  else agentNode

/-- Does a unit serve a message kind (15 R212)? A unit that sends requests takes the replies to them, and the Etgus agent passes on group
and locked-pair requests to another package's scratch (08 R89; log 8). -/
def nodeServes (v : BitVec 12) (kind : Nat) : Bool :=
  let reply := decide (4 ≤ kind ∧ kind ≤ 8)
  nodeExists v && match nodePort v with
  | 0 => reply || [0, 1, 2, 3, 9, 10, 11, 12, 15, 16, 18, 21].contains kind
  | 1 => [0, 1, 2, 11, 17, 19].contains kind
  | 2 => reply ||
    (if nodeX v % 8 = 4 then [14, 16, 22].contains kind
     else if nodeRow v = 0 then [13, 20, 21].contains kind
     else if nodeX v = 8 then [0, 1, 2, 22, 23].contains kind
     else [0, 1, 2, 3].contains kind)
  | _ => false

/-- The channel of a message kind: true for the reply channel (15 R212). -/
def onReply (kind : Nat) : Bool :=
  [4, 5, 6, 7, 8, 12, 13, 16, 18].contains kind

/-- The place one link away: an ordinary link to a neighbour, the bridge among them, or a skip link; none where there is none. -/
def linkFrom (x row : Nat) (dir : BitVec 2) (skip : Bool) : Option (Nat × Nat) :=
  let c := x % 16
  match dir.toNat, skip with
  | 0, false => if isEdge row = false ∧ x < 31 then some (x + 1, row) else none
  | 2, false => if isEdge row = false ∧ 0 < x then some (x - 1, row) else none
  | 1, false => if row < 17 then some (x, row + 1) else none
  | 3, false => if 0 < row then some (x, row - 1) else none
  | 0, true => if isEdge row = false ∧ c % 4 = 0 ∧ c < 12 then some (x + 4, row) else none
  | 2, true => if isEdge row = false ∧ c % 4 = 0 ∧ 0 < c then some (x - 4, row) else none
  | _, _ => none

/-! ### Following a turn list (15 R213, R214) -/

/-- What the next step of a packet is: into a place, delivery, or a route error. -/
inductive Hop where
  | go (x row : Nat) (p : Packet)
  | deliver
  | error
  deriving DecidableEq, Repr

/-- Follow the entry in front: turn and take the first link of its run, or eject. -/
def Packet.follow (p : Packet) : Hop :=
  if p.left = 0 then .error
  else
    let e := p.turns.toNat % 2 ^ 7
    let t := e / 2 ^ 5
    if t = 3 then .deliver
    else
      let d : BitVec 2 := if t = 1 then p.dir - 1 else if t = 2 then p.dir + 1 else p.dir
      let skip := decide (e / 2 ^ 4 % 2 = 1)
      match linkFrom (nodeX p.node) (nodeRow p.node) d skip with
      | none => .error
      | some (x, r) => .go x r { p with dir := d, skip := skip, rem := BitVec.ofNat 4 (e % 2 ^ 4), fresh := false }

/-- The step of a packet: the first follow at its source; in a run, the next link; at its end, the next entry. -/
def Packet.hop (p : Packet) : Hop :=
  if p.fresh then p.follow
  else if p.rem ≠ 0 then match linkFrom (nodeX p.node) (nodeRow p.node) p.dir p.skip with
    | none => .error
    | some (x, r) => .go x r { p with rem := p.rem - 1 }
  else { p with turns := p.turns >>> 7, left := p.left - 1 }.follow

/-- The node at which an eject delivers a packet: the unit at its place that DST's port names. -/
def Packet.here (p : Packet) : BitVec 12 :=
  nodeAt (nodePort p.dst) (nodeX p.node) (nodeRow p.node)

/-- Where a packet's way ends: at its destination, at another unit that serves its kind, or in a route error. -/
inductive Fate where
  | home
  | astray
  | error
  deriving DecidableEq, Repr

/-- The end of a packet that is ejected where it stands (15 R212, R213). -/
def Packet.ejected (p : Packet) : Fate :=
  if nodeServes p.here p.kind.toNat = false then .error else if p.here = p.dst then .home else .astray

/-- The end of a packet's way. A list holds at most 256 links. -/
def Packet.fate (p : Packet) (fuel : Nat) : Fate :=
  match fuel with
  | 0 => .error
  | f + 1 => match p.hop with
    | .error => .error
    | .deliver => p.ejected
    | .go x r q => { q with node := nodeAt (nodePort p.dst) x r }.fate f

/-! ### Dimension-order routes (15 R215) -/

/-- The runs from base-local column c eastward to d of one base, skip links where they shorten the way: each with whether it uses skip links
and its links. -/
def runsEast (c d : Nat) : List (Bool × Nat) :=
  let s := (c + 3) / 4 * 4
  let e := min 12 (d / 4 * 4)
  if s < e then [(false, s - c), (true, (e - s) / 4), (false, d - e)] else [(false, d - c)]

/-- A run in front of others, joined where the links are of one sort. -/
def joinRun (r : Bool × Nat) (l : List (Bool × Nat)) : List (Bool × Nat) :=
  if r.2 = 0 then l
  else match l with
    | [] => [r]
    | q :: t => if q.1 = r.1 then (q.1, r.2 + q.2) :: t else r :: l

/-- The runs along a row from a lower to a higher x, over the bridge where the bases differ. -/
def runsRow (x y : Nat) : List (Bool × Nat) :=
  (if x / 16 = y / 16 then runsEast (x % 16) (y % 16) else runsEast (x % 16) 15 ++ [(false, 1)] ++ runsEast 0 (y % 16)).foldr joinRun []

/-- The legs of a way: heading, whether by skip links, and links. From an edge node the first link leads to its router. -/
def legs (src dst : BitVec 12) : List (Nat × Bool × Nat) :=
  let x := nodeX src
  let y := nodeX dst
  let r := nodeRow src
  let t := nodeRow dst
  let edge : Bool := isEdge r && decide (x ≠ y)
  let r1 := if edge then (if r = 0 then 1 else 16) else r
  (if edge then [(if r = 0 then 1 else 3, false, 1)] else []) ++
  (if x ≤ y then (runsRow x y).map fun e => (0, e.1, e.2) else (runsRow y x).reverse.map fun e => (2, e.1, e.2)) ++
  (if r1 = t then [] else if r1 < t then [(1, false, t - r1)] else [(3, false, r1 - t)])

/-- Legs of at most 16 links. -/
def cutLegs (ls : List (Nat × Bool × Nat)) : List (Nat × Bool × Nat) :=
  ls.flatMap fun e => if 16 < e.2.2 then [(e.1, e.2.1, 16), (e.1, e.2.1, e.2.2 - 16)] else [e]

/-- The turn entries of legs after a heading: TURN 0 straight, 1 left, 2 right; at the end the eject. -/
def entriesOf (prev : Nat) (ls : List (Nat × Bool × Nat)) : List Nat :=
  match ls with
  | [] => [0x60]
  | (d, k, n) :: t =>
    ((if d = prev then 0 else if (d + 1) % 4 = prev then 1 else 2) * 2 ^ 5 + k.toNat * 2 ^ 4 + (n - 1)) :: entriesOf d t

/-- Entries packed, the first lowest. -/
def packEntries (es : List Nat) : Nat :=
  match es with
  | [] => 0
  | e :: t => e + 2 ^ 7 * packEntries t

/-- The turn-table entry that firmware writes at boot: a dimension-order route, first every east or west link, then every north or south
link, then the eject. Where it takes skip links the spec shows by the route of 01 R13 alone: here, where they shorten the way (DESIGN CHOICE,
log 85). -/
def dimEntry (src dst : BitVec 12) : TurnEntry :=
  let ls := cutLegs (legs src dst)
  let d := (ls.map (·.1)).headD 0
  ⟨true, BitVec.ofNat 2 d, BitVec.ofNat 112 (packEntries (entriesOf d ls))⟩

/-- A source's turn-table entry for a destination: one written through BAR0, else firmware's. -/
def State.turnEntry (s : State) (src dst : BitVec 12) : Option TurnEntry :=
  match mfind s.pkg.tt (src.toNat * 2 ^ 16 + dst.toNat) with
  | some e => some e
  | none => if s.pkg.ttBoot then some (dimEntry src dst) else none

/-- A packet as it enters the mesh with its source's turn-table entry for its destination (15 R213); with no valid entry its list is
empty. -/
def State.packetOf (s : State) (src dst : BitVec 12) (kind : Nat) (txn : BitVec 16) (attr : BitVec 24) (addr : Word)
    (data : List (BitVec 256 × BitVec 4)) (own : Option Own) : Packet :=
  let e := (s.turnEntry src dst).filter TurnEntry.valid
  { node := src, dir := (e.map TurnEntry.dir).getD 0, rem := 0, turns := (e.map TurnEntry.turns).getD 0, skip := false,
    left := if e.isSome then 16 else 0, fresh := true, kind := BitVec.ofNat 5 kind, src := src, dst := dst, txn := txn, attr := attr,
    addr := addr, data := data, ord := 0, chain := [], rest := data.length + 1, own := own }

/-- Where a request between two nodes ends. Firmware's entries lead every packet to its unit, so only an entry written through BAR0 can
lose one (15 R214). -/
def State.fateOf (s : State) (src dst : BitVec 12) (kind : Nat) : Fate :=
  if src = dst ∨ (mfind s.pkg.tt (src.toNat * 2 ^ 16 + dst.toNat)).isNone = true then .home
  else (s.packetOf src dst kind 0 0 0 [] none).fate 300

/-- Would a request between two nodes miss its destination? One that its list ejects at another unit has the outcome of a lost one: the
spec gives it none (DESIGN CHOICE, log 90). -/
def State.misrouted (s : State) (src dst : BitVec 12) (kind : Nat) : Bool :=
  decide (s.fateOf src dst kind ≠ .home)

/-- A route error that a request of a core's unit meets is logged; one delivered astray is no error (15 R213, R214). -/
def State.logFate (s : State) (n : Nat) (src dst : BitVec 12) (kind : Nat) (lid : BitVec 32) (va : Word) : State :=
  if s.fateOf src dst kind = .error then s.logErr 2 va lid (s.coordOf n 0) 0 else s

/-- One past the order of every packet. -/
def State.nextOrd (s : State) : Nat :=
  s.packets.foldl (fun m q => max m (q.ord + 1)) 0

/-- The least and the most data flits of a message kind (15 R212). -/
def lenRange (kind : Nat) : Nat × Nat :=
  match kind with
  | 1 | 5 | 11 | 19 => (1, 8)
  | 2 | 15 | 17 | 18 | 22 | 23 => (1, 1)
  | 3 | 6 => (0, 1)
  | 9 | 10 | 13 | 20 => (2, 2)
  | 21 => (0, 2)
  | 24 | 25 | 26 | 27 | 28 | 29 | 30 | 31 => (0, 8)
  | _ => (0, 0)

/-- A packet enters the mesh; its source exists, and it has the data flits of its KIND. -/
def State.addPacket (s : State) (p : Packet) : State :=
  let r := lenRange p.kind.toNat
  if nodeExists p.src && decide (r.1 ≤ p.data.length ∧ p.data.length ≤ r.2) then
    { s with packets := s.packets ++ [{ p with ord := s.nextOrd }] }
  else s

/-! ### The packet of an access (15 R211, R212) -/

/-- ATTR. -/
def attrOf (space scope size ord aop : Nat) : BitVec 24 :=
  BitVec.ofNat 24 (space % 2 ^ 12 * 2 ^ 12 + scope % 8 * 2 ^ 9 + size % 8 * 2 ^ 6 + ord % 2 * 2 ^ 5 + aop % 8 * 2 ^ 2)

/-- SIZE of a number of bytes. -/
def sizeCode (n : Nat) : Nat :=
  if n = 1 then 0 else if n = 2 then 1 else if n = 4 then 2 else if n = 8 then 3 else if n = 16 then 4 else if n = 32 then 5
  else if n = 64 then 6 else 7

/-- SPACE: the address-space id of a translated address; 0 otherwise. -/
def spaceField (space : BitVec 12) (va : Word) : Nat :=
  if bits va 56 4 < 8 then space.toNat else 0

/-- What the head of an access's request says: kind, ATTR, address, data flits and home. -/
structure Request where
  kind : Nat
  attr : BitVec 24
  addr : Word
  data : List (BitVec 256 × BitVec 4)
  home : BitVec 12
  deriving DecidableEq, Repr

/-- One data flit that carries up to two words. -/
def dataFlit (a b : Word) : List (BitVec 256 × BitVec 4) :=
  [(a.setWidth 256 ||| (b.setWidth 256 <<< 64), 0)]

/-- The request of an open window of a context: element k of a vector load, else its one access. -/
def Window.request (w : Window) (n : Nat) (space : BitVec 12) (k : Nat) : Option Request :=
  let head := fun (a : Acc) (kind scope ord aop : Nat) (d : List (BitVec 256 × BitVec 4)) =>
    (⟨kind, attrOf (spaceField space a.va) scope (sizeCode a.size) ord aop, a.va, d, homeNode a.loc⟩ : Request)
  match w.pend with
  | .load a _ acq ldl => some (if ldl then head a 3 (levelOf n a.loc) 0 5 [] else head a 0 (acq.getD (levelOf n a.loc)) acq.isSome.toNat 0 [])
  | .vec els _ => (els.find? fun e => decide (e.idx = k)).map fun e => head e.acc 0 (levelOf n e.acc.loc) 0 0 []
  | .atomic a op b e ar _ => some (head a 2 (ar.getD (levelOf n a.loc)) ar.isSome.toNat op.toNat (dataFlit b e))
  | .group a join => some (head a 3 (levelOf n a.loc) 0 (if join then 0 else 1) [])
  | .none | .message _ | .bkstat _ _ _ => none

/-- The request of a group instruction or a WAIT (AOP 0 to 4), from core n. -/
def groupRequest (n : Nat) (a : Acc) (aop : Nat) (d : List (BitVec 256 × BitVec 4)) : Request :=
  ⟨3, attrOf (spaceField 0 a.va) (levelOf n a.loc) (sizeCode 8) 0 aop, a.va, d, homeNode a.loc⟩

/-- A core sends the request of an access of its own. -/
def State.sendOwn (s : State) (n : Nat) (own : Own) (txn : BitVec 16) (r : Request) : State :=
  s.addPacket (s.packetOf (coreNode n) r.home r.kind txn r.attr r.addr r.data (some own))

/-- The request of a store. -/
def StoreEnt.request (e : StoreEnt) (n : Nat) (space : BitVec 12) : Request :=
  ⟨if e.unlock then 3 else 1,
    attrOf (spaceField space e.acc.va) (e.rel.getD (levelOf n e.acc.loc)) (sizeCode e.acc.size) e.rel.isSome.toNat (if e.unlock then 6 else 0),
    e.acc.va, dataFlit e.data 0, homeNode e.acc.loc⟩

/-- The first element of a window still to be performed whose request would be lost on its way; 0 for an access of one part. -/
def State.lostPart (s : State) (n i : Nat) (w : Window) : Option Nat :=
  let lost := fun (k : Nat) => match w.request n (s.ctx n i).space k with
    | some r => s.misrouted (coreNode n) r.home r.kind
    | none => false
  match w.pend with
  | .vec els _ => (els.find? fun e => e.got.isNone && lost e.idx).map VecEl.idx
  | .atomic _ _ _ _ _ (some _) => none
  | _ => if lost 0 then some 0 else none

/-- Would a request of a window be lost on its way? -/
def State.winLost (s : State) (n i : Nat) (w : Window) : Bool :=
  (s.lostPart n i w).isSome

end Sys2Proof.Machine
end

