-- ==== Sys2Proof/Machine/Sync.lean ====
section
/-! DEFINITION. Fences, acquire loads, release stores, SCOPE and locked pairs (12 R171 to R178; 04 R42, R48). -/

namespace Sys2Proof.Machine

/-- The scope that a register names (04 R42). -/
def scopeReg (w : Word) : Nat :=
  if w.toNat < 8 then w.toNat else 7

/-- Every earlier load has its value. -/
def State.loadsIn (s : State) : Bool :=
  s.me.loadsDone s.me.seq

/-- Invalidate the executing core's L1 for an acquire at scope S (04 R48). -/
def State.acquired (s : State) (S : Nat) : State :=
  if S = 0 then s else s.l1Clear s.cur.core

/-- Add a release fence at this place (04 R48). -/
def State.addFence (s : State) (S : Nat) : State :=
  s.putMe { s.me with fences := s.me.fences ++ [⟨s.me.seq, s.myCore.nextStore, S⟩], seq := s.me.seq + 1 }

/-- FENCE.acq: later accesses wait until every earlier load has its value. -/
def State.fenceA (s : State) (S : Nat) : Out :=
  s.plain (if s.loadsIn then let s := s.acquired S; s.finish s.me else .next s.stall)

/-- FENCE.rel: later stores and releases wait for release_ready. -/
def State.fenceR (s : State) (S : Nat) : Out :=
  s.plain (let s := s.addFence S; s.finish s.me)

/-- FENCE.ar: both. -/
def State.fenceAR (s : State) (S : Nat) : Out :=
  s.plain (if s.loadsIn then let s := (s.acquired S).addFence S; s.finish s.me else .next s.stall)

/-- FENCE.sc: every later access waits for both. -/
def State.fenceSC (s : State) (S : Nat) : Out :=
  s.plain (if s.loadsIn && s.gate s.cur.core s.cur.ctx s.me.seq s.myCore.nextStore S
    then let s := s.acquired S; s.finish s.me else .next s.stall)

def execFenceAcq (c : BitVec 3) (s : State) : Out := s.fenceA c.toNat
def execFenceAcqReg (a : BitVec 5) (s : State) : Out := s.fenceA (scopeReg (s.me.rx a))
def execFenceRel (c : BitVec 3) (s : State) : Out := s.fenceR c.toNat
def execFenceRelReg (a : BitVec 5) (s : State) : Out := s.fenceR (scopeReg (s.me.rx a))
def execFenceAr (c : BitVec 3) (s : State) : Out := s.fenceAR c.toNat
def execFenceArReg (a : BitVec 5) (s : State) : Out := s.fenceAR (scopeReg (s.me.rx a))
def execFenceSc (c : BitVec 3) (s : State) : Out := s.fenceSC c.toNat
def execFenceScReg (a : BitVec 5) (s : State) : Out := s.fenceSC (scopeReg (s.me.rx a))

/-- LDA: a load that acquires (12 R173). -/
def State.loadAcq (s : State) (size : Nat) (d a : BitVec 5) (c : BitVec 3) (l : BitVec 4) : Out :=
  s.plain (s.withAcc 0 size (s.me.rx a) false fun acc s =>
    .next (s.openWin s.me (.x d) 0xFFFF l (.load acc false (some c.toNat) false) none))

/-- STL: a store performed once release_ready holds (12 R173). -/
def State.storeRel (s : State) (size : Nat) (d a : BitVec 5) (c : BitVec 3) : Out :=
  s.plain (s.withAcc 1 size (s.me.rx a) false fun acc s => s.retireStore acc (s.me.rx d) (some c.toNat))

def execLda32 (d a : BitVec 5) (c : BitVec 3) (l : BitVec 4) (s : State) : Out := s.loadAcq 4 d a c l
def execLda64 (d a : BitVec 5) (c : BitVec 3) (l : BitVec 4) (s : State) : Out := s.loadAcq 8 d a c l
def execStl32 (d a : BitVec 5) (c : BitVec 3) (s : State) : Out := s.storeRel 4 d a c
def execStl64 (d a : BitVec 5) (c : BitVec 3) (s : State) : Out := s.storeRel 8 d a c

/-- The scope of two coordinate words (12 R174, 04 R41). -/
def scopeWord (a b : Word) : Nat :=
  if bits a 11 6 ≠ bits b 11 6 then 6 else scopeOf (coordCore a) (bits a 0 2) (coordCore b) (bits b 0 2)

def execScope (d a b : BitVec 5) (s : State) : Out :=
  s.plain (s.finish (s.me.wx d (BitVec.ofNat 64 (scopeWord (s.me.rx a) (s.me.rx b)))))

/-- LDL: frees an earlier lock, names the word, and loads it once its lock bit is taken (12 R177). -/
def execLdl (d a : BitVec 5) (l : BitVec 4) (s : State) : Out :=
  s.plain (s.withScratch 0 8 8 (s.me.rx a) fun acc =>
    let s := s.freeLock s.cur.core s.cur.ctx
    .next (s.openWin { s.me with lock := some ⟨acc.loc, s.me.seq, false⟩ } (.x d) 0xFFFF l (.load acc false none true) none))

/-- Does an earlier LDL of the thread still wait for its value? -/
def Ctx.ldlOpen (t : Ctx) : Bool :=
  t.windows.any fun w => w.res.isNone && (match w.pend with
    | .load _ _ _ true => true
    | _ => false)

/-- STU decides its status at issue; the lock bit is freed after the write (12 R177). -/
def execStu (d a b : BitVec 5) (s : State) : Out :=
  s.plain (s.withScratch 1 8 8 (s.me.rx a) fun acc =>
    if s.me.ldlOpen then .next s.stall
    else match s.me.lock with
      | some k =>
        if k.loc = acc.loc then
          if s.pendFull acc then .next s.stall
          else
            let s := s.queueStore acc (s.me.rx b) none true
            s.finish ({ s.me with lock := none }.wx d 0)
        else s.finish (s.me.wx d 1)
      | none => s.finish (s.me.wx d 1))

end Sys2Proof.Machine
end

