-- ==== Sys2Proof/Machine/Perform.lean ====
section
/-! DEFINITION. Accesses on their way: loads and atomics performed and landing, stores written and acknowledged, traps entered, misses
walked and page requests answered (04 R45 to R50, 08 R94, R108 to R110, 11 R134 to R139, 13 R182 to R184, R379, 28 R365, R366). -/

namespace Sys2Proof.Machine

/-! ### Group words (02 R32) -/

def gwMembers (w : Nat) : Nat := w % 2 ^ 20
def gwArrived (w : Nat) : Nat := w / 2 ^ 20 % 2 ^ 20
def gwPhase (w : Nat) : Bool := decide (w / 2 ^ 40 % 2 = 1)
def gwBad (w : Nat) : Bool := decide (w / 2 ^ 41 ≠ 0)

/-- The status of a JOIN or a LEAVE that reads a word (02 R33). -/
def gwStatusOf (join : Bool) (w : Nat) : Nat :=
  if gwBad w ∨ gwMembers w = (if join then 2 ^ 20 - 1 else 0) then 2 else 0

/-! ### Reading for a load -/

/-- What performing a read gives: it must wait, it faults with a cause, or a value. -/
inductive Got where
  | wait
  | fault (cause : Nat)
  | val (v : Nat)
  deriving DecidableEq, Repr

/-- The k-th line of a reply: none where there is no reply, `some none` for a fault at the target (08 R88). -/
def lineOfReply (r : Reply) (k : Nat) : Option (Option Line) :=
  match r with
  | .none => none
  | .fault => some none
  | .data ls => (nth ls k).map fun e => some ⟨e.1, e.2, false, 0, 0⟩

/-- Is any word of a range of a line poisoned? -/
def Line.bad (l : Line) (off n : Nat) : Bool :=
  (List.range 8).any fun i => l.pois.getLsbD i && meets (i * 8) 8 off n

/-- One piece of a read, from a line or from the home. -/
def State.readPiece (s : State) (a : Acc) (src : Option Line) (o n : Nat) : (Nat × Bool) × State :=
  match src with
  | some l => ((vecGet l.data ((a.loc + o) % 64) n, l.bad ((a.loc + o) % 64) n), s)
  | none => s.homeRead a (a.loc + o) n

/-- The pieces of a read: forwarded values stand, the others are read; values join at their offsets. -/
def State.readPieces (s : State) (a : Acc) (src : Option Line) (n : Nat) (fs : List (Nat × Fwd)) : (Nat × Bool) × State :=
  match fs with
  | [] => ((0, false), s)
  | (o, .val v) :: r => let q := s.readPieces a src n r; ((q.1.1 + v * 2 ^ (8 * o), q.1.2), q.2)
  | (o, _) :: r =>
    let p := s.readPiece a src o n
    let q := p.2.readPieces a src n r
    ((q.1.1 + p.1.1 * 2 ^ (8 * o), p.1.2 || q.1.2), q.2)

/-- Perform a read of at most 8 bytes for a thread: from its lane group's queue, the L1, or the home (04 R45, R47, R49, 08 R93, R94). A
line of another package is not filled while a store of the core to it is unacknowledged, so that the acknowledgement never puts an older
value over a later one. -/
def State.readFor (s : State) (n i seq : Nat) (a : Acc) (rep : Option (Option Line)) : Got × State :=
  let c := s.core n
  let f := c.forward n i seq a.loc a.size
  let ln := a.loc / 64
  match f with
  | .wait => (.wait, s)
  | .val v => (.val v, s)
  | _ =>
    match (if a.l1 && decide (f = .mem) then c.l1Line i ln else none) with
    | some l =>
      let r := s.readPieces a (some l) a.size [(0, .mem)]
      (if r.1.2 then .fault 5 else .val r.1.1, r.2.setCore n { c with l1 := l1Fill c.l1 ln l })
    | none =>
      if isRemote a.loc then match rep with
        | none => (.wait, s)
        | some none => (.fault 3, s)
        | some (some l) =>
          let r := s.readPieces a (some l) a.size [(0, .mem)]
          let s1 := if a.l1 && c.storeQ.all (fun e => decide (e.acc.loc / 64 ≠ ln)) then r.2.setCore n (c.l1Put ln l) else r.2
          (if r.1.2 then .fault 5 else .val r.1.1, s1)
      else if isHost a.loc ∧ s.pkg.linkUp = false then (.fault 3, s)
      else
        let r := s.readPieces a none a.size [(0, .mem)]
        let s1 := if a.l1 && decide (f = .mem) then r.2.fillLine n i a true else r.2
        (if r.1.2 then .fault 5 else .val r.1.1, s1)

/-- Must a read wait for an earlier load of its thread that meets it (04 R45)? -/
def Ctx.behind (t : Ctx) (seq loc n : Nat) : Bool :=
  t.windows.any fun w => decide (w.seq < seq) && w.waits loc n

/-- A value read, sign-extended from `size` bytes where the load says so. -/
def loadVal (size : Nat) (sg : Bool) (v : Nat) : Vec :=
  (if sg then sextNat v (8 * size) else BitVec.ofNat 64 v).setWidth 512

/-! ### Windows -/

/-- Change a window of a context, also as it stood before instructions that issued past a due result. -/
def State.modWin (s : State) (n i seq : Nat) (f : Window → Window) : State :=
  let t := s.ctx n i
  let ws := fun (l : List Window) => l.map fun w => if w.seq = seq then f w else w
  s.setCtx n i { t with windows := ws t.windows, past := t.past.map fun p => { p with windows := ws p.windows } }

/-- The writes that were due before the instruction of a snapshot. -/
def Snap.due (p : Snap) : List Window :=
  p.windows.filter Window.isDue

/-- Make the due writes of a snapshot, all of them landed (11 R134). -/
def Ctx.make (t : Ctx) (p : Snap) : Ctx :=
  let mine := fun (w : Window) => p.due.any fun q => decide (q.seq = w.seq)
  { (t.windows.filter mine).foldl (fun t w => match w.res with
      | some (.val v) => t.deliver w.dest w.mask v
      | _ => t) t with windows := t.windows.filter fun w => !mine w }

/-- Look at the instructions that issued past due results, oldest first: once all that were due before one have come, it stands; the first
before which a due result has faulted is the one whose effects are undone. -/
def Ctx.settle (t : Ctx) (ps : List Snap) : Ctx × Option Snap :=
  match ps with
  | [] => ({ t with past := [] }, none)
  | p :: r =>
    let res := p.due.map (·.res)
    if res.any (fun q => match q with
        | some (.fault _ _ _) => true
        | _ => false) then (t, some p)
    else if res.all Option.isSome then (t.make p).settle r
    else ({ t with past := p :: r }, none)

/-- A thread stands again where it stood before an instruction that it had issued past a due result: the write's trap is taken there
(11 R139). A trap of a store that waited to be entered is due again. -/
def Ctx.undo (t : Ctx) (p : Snap) : Ctx :=
  { t with
    pc := p.pc, x := p.x, v := p.v, k := p.k, latch := p.latch, latchOn := p.latchOn, windows := p.windows, past := [],
    regErr := p.regErr ++ t.regErr.filter fun r => !p.regErr.contains r,
    fences := t.fences.filter fun f => decide (f.seq < p.seq), trapPend := none, todo := none,
    poisonDue := match t.trapPend with
      | some q => if q.imp then mput t.poisonDue q.seq (q.cause, q.val) else t.poisonDue
      | none => t.poisonDue,
    run := if t.run = .stalled then .ready else t.run, stallAt := none, stallCnt := 0, yieldFor := none, reqLost := none }

/-- The same in its core: the stores of the undone instructions, none of which has left its queue, are gone (log 87). -/
def State.undo (s : State) (n i : Nat) (p : Snap) : State :=
  let s1 := s.setCtx n i ((s.ctx n i).undo p)
  (s1.setCore n { s1.core n with storeQ := (s1.core n).storeQ.filter fun e => !decide (e.ctx = i ∧ p.seq ≤ e.seq) }).dropWaits n i

/-- After results have come: the instructions that issued past them while they were due stand, or are undone (11 R134, R139). -/
def State.settle (s : State) (n i : Nat) : State :=
  match (s.ctx n i).past with
  | [] => s
  | ps => match (s.ctx n i).settle ps with
    | (t, none) => s.setCtx n i t
    | (t, some p) => (s.setCtx n i t).undo n i p

/-- A window's result lands. -/
def State.land (s : State) (n i seq : Nat) (r : Res) : State :=
  (s.modWin n i seq fun w => { w with res := some r }).settle n i

/-- An open window of a context, its result still to come. -/
def State.winOf (s : State) (n i seq : Nat) : Option Window :=
  (s.ctx n i).windows.find? fun w => decide (w.seq = seq ∧ w.res = none)

/-- Is the request of an access, or what answers it, still on its way through the mesh (15 R213, R214)? -/
def State.inMesh (s : State) (own : Own) : Bool :=
  s.packets.any fun p => decide (p.own = some own)

/-- An open window whose request has reached its home, or may: one that a turn table would lose waits for its packet's route error. -/
def State.homeWin (s : State) (n i seq : Nat) : Option Window :=
  if s.inMesh (.window n i seq) then none else (s.winOf n i seq).filter fun w => !s.winLost n i w

/-- May a store be written as far as its way goes: its request is not in the mesh, and no turn table would lose it? -/
def State.storeWay (s : State) (n : Nat) (e : StoreEnt) : Bool :=
  !s.inMesh (.store n e.ctx e.id) && !s.misrouted (coreNode n) (homeNode e.acc.loc) (e.request n 0).kind

/-- The request of the executing group instruction or WAIT reaches the word's core: `k` goes on. One that a turn table would lose goes into
the mesh, and once a route error has answered it the instruction takes an access fault (15 R212, R214; log 90). -/
def State.overMesh (s : State) (acc : Acc) (aop : Nat) (d : List (BitVec 256 × BitVec 4)) (bad : State → Out) (k : Out) : Out :=
  let n := s.cur.core
  let own : Own := .group n s.cur.ctx s.me.seq
  if s.inMesh own then .next s.stall
  else if s.me.reqLost = some s.me.seq then bad (s.putMe { s.me with reqLost := none })
  else if s.misrouted (coreNode n) (homeNode acc.loc) 3 then .next (s.sendOwn n own 0 (groupRequest n acc aop d)).stall
  else k

/-- Perform element k of a vector load where it may be: earlier loads that meet it, and earlier elements, come first. -/
def State.performEl (s : State) (n i seq k : Nat) (rep : Reply) : State :=
  match s.homeWin n i seq with
  | none => s
  | some w => match w.pend with
    | .vec els _ => match els.find? fun e => decide (e.idx = k) && e.got.isNone with
      | none => s
      | some e =>
        if (s.ctx n i).behind seq e.acc.loc e.acc.size ||
          els.any (fun q => decide (q.idx < k) && q.got.isNone && meets q.acc.loc q.acc.size e.acc.loc e.acc.size) then s
        else
          let g := s.readFor n i seq e.acc (lineOfReply rep k)
          let put := fun (r : Res) => g.2.modWin n i seq fun w => match w.pend with
            | .vec els wd => { w with pend := .vec (els.map fun q => if q.idx = k then { q with got := some r } else q) wd }
            | _ => w
          match g.1 with
          | .wait => s
          | .fault c => put (.fault c 0 e.acc.va)
          | .val v => put (.val (BitVec.ofNat 512 v))
    | _ => s

/-- The result of a vector load whose elements are all performed: a fault, or the elements at their places (17 R228). Where several
elements fault, the spec does not say which one's address etval holds: the lowest element's (DESIGN CHOICE, log 78). -/
def vecResult (els : List VecEl) (w : Nat) : Option Res :=
  els.foldl (fun (r : Option Res) e => match r, e.got with
    | none, _ => none
    | _, none => none
    | some (.fault c k a), _ => some (.fault c k a)
    | some (.val _), some (.fault c k a) => some (.fault c k a)
    | some (.val v), some (.val x) => some (.val (elPut v w e.idx x.toNat))) (some (.val 0))

/-- An acquiring access has its value (04 R48). -/
def State.acqDone (s : State) (n : Nat) (acq : Option Nat) : State :=
  match acq with
  | some (_ + 1) => s.l1Clear n
  | _ => s

/-- An LDL takes its word's lock bit before it reads, so also where the word is poisoned (08 R116, 12 R177). An earlier LDL of the thread,
whose lock the latest has freed, keeps none. -/
def State.takeLock (s : State) (n i seq : Nat) (a : Acc) (ldl : Bool) : State :=
  match ldl, (s.ctx n i).lock with
  | true, some k =>
    if k.seq = seq && isScratch a.loc then
      (s.lockTake a.loc n i).setCtx n i { (s.lockTake a.loc n i).ctx n i with lock := some ⟨a.loc, seq, true⟩ }
    else s
  | _, _ => s

/-- A load is performed: its result, none while it must wait for earlier accesses, a lock bit or another package. -/
def State.loadAtHome (s : State) (n i seq : Nat) (a : Acc) (sg ldl : Bool) (reply : Reply) : Option Res × State :=
  if (s.ctx n i).behind seq a.loc a.size then (none, s)
  else if ldl && isScratch a.loc && !s.lockFree a.loc n i seq then (none, s.lockQueue a.loc n i seq)
  else if ldl && s.bankHas a.loc 2 then (none, s)
  else
    let s0 := if ldl && isScratch a.loc then s.lockUnqueue a.loc n i seq else s
    let g := s0.readFor n i seq a (lineOfReply reply 0)
    match g.1 with
    | .wait => (none, s)
    | .fault c => (some (.fault c 0 a.va), g.2.takeLock n i seq a ldl)
    | .val v => (some (.val (loadVal a.size sg v)), g.2.takeLock n i seq a ldl)

/-- RESULT_LANDS: a load, vector load or atomic result comes back (11 R134). `reply` is what another package answers. -/
def execResultLands (core ctx seq : Nat) (reply : Reply) (s : State) : Out :=
  .next (match s.homeWin core ctx seq with
    | none => s
    | some w => match w.pend with
      | .load a sg acq ldl =>
        match s.loadAtHome core ctx seq a sg ldl reply with
        | (none, s1) => s1
        | (some r, s1) => (s1.land core ctx seq r).acqDone core acq
      | .vec els wd =>
        let s1 := (els.map VecEl.idx).foldl (fun s k => s.performEl core ctx seq k reply) s
        match s1.winOf core ctx seq with
        | some w1 => (match w1.pend with
          | .vec els1 _ => (match vecResult els1 wd with
            | some r => s1.land core ctx seq r
            | none => s1)
          | _ => s1)
        | none => s1
      | .atomic a _ _ _ ar (some r) =>
        let s1 := s.land core ctx seq r
        let s2 := s1.setCore core { s1.core core with l1 := l1Drop (s1.core core).l1 a.loc a.size }
        s2.acqDone core ar
      | .group a join => (match lineOfReply reply 0 with
        | none => s
        | some none => s.land core ctx seq (.fault 3 2 a.va)
        | some (some l) =>
          if l.bad (a.loc % 64) 8 then s.land core ctx seq (.fault 5 2 a.va)
          else s.land core ctx seq (.val (BitVec.ofNat 512 (gwStatusOf join (vecGet l.data (a.loc % 64) 8)))))
      | .atomic _ _ _ _ _ none | .none | .message _ | .bkstat _ _ _ => s)

/-- ATOMIC_AT_HOME: the read-modify-write, indivisible at its home, once what it must follow is done (04 R45, R48, 12 R167 to R170). -/
def execAtomicAtHome (core ctx seq : Nat) (reply : Reply) (s : State) : Out :=
  .next (match s.homeWin core ctx seq with
    | none => s
    | some w => match w.pend with
      | .atomic a op b e ar none =>
        let put := fun (s : State) (r : Res) => s.modWin core ctx seq fun w => { w with pend := .atomic a op b e ar (some r) }
        if !(s.ctx core ctx).loadsDone seq || !s.fencesOpen core ctx seq || !s.storesDone core ctx seq a.loc a.size ||
          (match ar with
            | some S => !s.relReady core ctx seq w.qpos S
            | none => false) then s
        else if isRemote a.loc then match lineOfReply reply 0 with
          | none => s
          | some none => put s (.fault 3 2 a.va)
          | some (some l) =>
            if l.bad (a.loc % 64) a.size then put s (.fault 5 2 a.va)
            else put s (.val (BitVec.ofNat 512 (vecGet l.data (a.loc % 64) a.size)))
        else if isHost a.loc ∧ s.pkg.linkUp = false then put s (.fault 3 2 a.va)
        else if isScratch a.loc && !s.lockFree a.loc core ctx seq then s.lockQueue a.loc core ctx seq
        else if s.bankHas a.loc 2 then s
        else
          let s0 := if isScratch a.loc then s.lockUnqueue a.loc core ctx seq else s
          let g := s0.homeRead a a.loc a.size
          if g.1.2 then put g.2 (.fault 5 2 a.va)
          else
            let s1 := put g.2 (.val (BitVec.ofNat 512 g.1.1))
            match atomicNew a.size op g.1.1 b.toNat e.toNat with
            | some x => (s1.storeAt a a.loc a.size x 1).2
            | none => s1.bankNote a.loc a.size 1
      | _ => s)

/-! ### Stores -/

/-- An entry of a core's store queue. -/
def State.entryOf (s : State) (n id : Nat) : Option StoreEnt :=
  (s.core n).storeQ.find? fun e => decide (e.id = id)

/-- May a store leave its lane group's queue for its home (04 R48, 12 R173): it has left the pipeline, its thread's release fences are
satisfied, an STL's own release holds, and no earlier STL of the thread still waits in the queue? -/
def State.mayLeave (s : State) (n : Nat) (e : StoreEnt) : Bool :=
  let c := s.core n
  c.entered e && s.fencesOpen n e.ctx e.seq &&
  (match e.rel with
    | some S => s.relReady n e.ctx e.seq e.id S
    | none => true) &&
  c.storeQ.all fun q => !(decide (q.ctx = e.ctx ∧ q.id < e.id) && q.rel.isSome && !q.sent && !q.written)

/-- LEAVE: a store leaves its lane group's queue for its home; its count alone records it from then on (04 R47, log 73). -/
def State.leave (s : State) (n id : Nat) : State :=
  match s.entryOf n id with
  | none => s
  | some e =>
    if e.written || e.sent || !s.mayLeave n e then s
    else s.setCore n { s.core n with storeQ := (s.core n).storeQ.map fun q => if q.id = id then { q with sent := true } else q }

/-- May a store be written at its home now (04 R45)? Earlier stores of the lane group to its bytes come first. -/
def State.mayWrite (s : State) (n : Nat) (e : StoreEnt) : Bool :=
  let c := s.core n
  !e.written && (e.sent || s.mayLeave n e) &&
  c.storeQ.all fun q => !(decide (q.lg = e.lg ∧ q.id < e.id) && !q.written && meets q.acc.loc q.acc.size e.acc.loc e.acc.size &&
    (decide (q.ctx = e.ctx) || c.entered q))

/-- A home has a store: its entry stands behind those of the stores written before it. -/
def Core.wrote (c : Core) (id : Nat) (f : StoreEnt → StoreEnt) : Core :=
  { c with storeQ := (c.storeQ.filter fun q => decide (q.id ≠ id)) ++
      (c.storeQ.filter fun q => decide (q.id = id)).map fun q => f { q with written := true } }

/-- May a store be acknowledged: have the stores that its home wrote to its bytes before it been? So a line of the L1 takes them in that
order (04 R45). -/
def Core.ackTurn (c : Core) (e : StoreEnt) : Bool :=
  (c.storeQ.takeWhile fun q => decide (q.id ≠ e.id)).all fun q => !(q.written && meets q.acc.loc q.acc.size e.acc.loc e.acc.size)

/-- STORE_WRITE_AT_HOME: the home holds the store; waiters of a scratch word are tested (04 R49, 02 R34, 14 R197). A store that a down
host link loses is logged and counts as acknowledged (28 R356). -/
def execStoreWriteAtHome (core id : Nat) (s : State) : Out :=
  .next (match s.entryOf core id with
    | none => s
    | some e =>
      if !s.storeWay core e || !s.mayWrite core e then s
      else
        let lost := isHost e.acc.loc && !s.pkg.linkUp
        let r : Bool × State :=
          if lost then (false, s.logErr 5 e.acc.va (s.ctx core e.ctx).lid (s.coordOf core (groupOf e.ctx)) e.ctx)
          else if isRemote e.acc.loc then (false, s)
          else s.storeAt e.acc e.acc.loc e.acc.size e.data.toNat (if e.unlock then 1 else 2)
        let s1 := if e.unlock && isScratch e.acc.loc then r.2.lockDrop e.acc.loc core e.ctx else r.2
        let c := s1.core core
        s1.setCore core (c.wrote id fun q => { q with poisoned := r.1 }))

/-- Another package refuses a store: its target cannot translate the address or forbids the access (08 R88, R89). The thread's access fault
falls due with the acknowledgement, as a poisoned partial store's trap does (log 88). -/
def State.podFault (s : State) (n id : Nat) : State :=
  match s.entryOf n id with
  | none => s
  | some e =>
    if !isRemote e.acc.loc || !s.storeWay n e || !s.mayWrite n e then s
    else s.setCore n ((s.core n).wrote id fun q => { q with refused := true })

/-- The L1 line of an acknowledged store takes the bytes its home holds (04 R49, 08 R94; log 19). Whether this counts as a use in the
line's recency the spec does not say; it does not (DESIGN CHOICE, log 79). -/
def State.ackLine (s : State) (n : Nat) (e : StoreEnt) : State :=
  let ln := e.acc.loc / 64
  match mfind (s.core n).l1 ln with
  | none => s
  | some l =>
    let o := e.acc.loc % 64
    let r : Line × State :=
      if isDram e.acc.loc then s.sliceLine ln e.acc.key e.acc.buf (!s.bankWrites e.acc.loc)
      else ({ l with data := vecPut l.data o e.acc.size e.data.toNat }, s)
    let l1 : Line := { l with data := vecPut l.data o e.acc.size (vecGet r.1.data o e.acc.size), pois := r.1.pois }
    let c := r.2.core n
    r.2.setCore n { c with l1 := c.l1.map fun q => if q.1 = ln then (ln, l1) else q }

/-- Another package reports, with its acknowledgement to come, that a partial store met a poisoned word (13 R184). -/
def State.podPoison (s : State) (n id : Nat) : State :=
  s.setCore n { s.core n with storeQ := (s.core n).storeQ.map fun q =>
    if q.id = id ∧ q.written = true ∧ isRemote q.acc.loc = true ∧ q.acc.size < 8 then { q with poisoned := true } else q }

/-- STORE_ACK: the home acknowledges a written store; its count falls, its L1 line is refreshed, and the trap of a poisoned partial store or
of a refused one falls due (04 R47, R49, 13 R379, 08 R88). -/
def execStoreAck (core id : Nat) (s : State) : Out :=
  .next (match s.entryOf core id with
    | none => s
    | some e =>
      if !e.written || s.inMesh (.store core e.ctx id) || !(s.core core).ackTurn e then s
      else
        let s1 := if e.refused then s else s.ackLine core e
        let c := s1.core core
        let s2 := s1.setCore core { c with storeQ := c.storeQ.filter fun q => decide (q.id ≠ id) }
        let t := s2.ctx core e.ctx
        let t1 : Ctx := if e.refused then { t with poisonDue := mput t.poisonDue e.seq (3, e.acc.va) }
          else if e.poisoned then { t with poisonDue := mput t.poisonDue e.seq (5, e.acc.va) } else t
        s2.setCtx core e.ctx { t1 with fences := t1.fences.filter fun f => !s2.relReady core e.ctx f.seq f.qpos f.scope })

/-- DIRTY_LINE_WRITE_BACK: a slice writes a dirty line back, and may evict it (08 R96). -/
def execDirtyLineWriteBack (line : Nat) (evict : Bool) (s : State) : Out :=
  .next (s.writeBack line evict)

/-! ### Traps -/

/-- TRAP_ENTRY: every result of the thread has landed, so it enters its handler (13 R183). -/
def execTrapEntry (core ctx : Nat) (s : State) : Out :=
  .next (match (s.ctx core ctx).trapPend with
    | some p => if (s.ctx core ctx).landed then s.enterTrap core ctx p else s
    | none => s)

/-- The cycles for which a context has stayed stalled on one instruction, but for its waits on page requests (13 R182). -/
def Ctx.stalledFor (t : Ctx) (now : Nat) : Nat :=
  t.stallCnt + (match t.stallAt with
    | some a => now - a
    | none => 0)

/-- WATCHDOG_EXPIRY: a thread stalled on one instruction beyond its base's limit traps (13 R182); one that has issued, and stalls with stores
left, completes (24 R322). -/
def execWatchdogExpiry (core ctx : Nat) (s : State) : Out :=
  let t := s.ctx core ctx
  let lim := (mget Ctl.reset s.ctl (baseOf core)).wdlim.toNat
  .next (
    if t.run = .stalled ∧ t.stallAt.isSome = true ∧ t.trapPend = none ∧ t.todo = none ∧ t.poisonDue = [] ∧ s.stopped t.lid = false ∧ lim ≠ 0 ∧
        lim < t.stalledFor s.clock.toNat then
      s.trap core ctx ⟨7, 0, 0, t.pc, false, false, 0⟩
    else s)

/-- UNCORRECTABLE_REGISTER_ERROR: the register is marked until something writes it (13 R184). -/
def execUncorrectableRegisterError (core ctx : Nat) (reg : RegName) (s : State) : Out :=
  let t := s.ctx core ctx
  .next (if reg = .x 0 ∨ reg = .k 0 ∨ t.run = .idle ∨ t.regErr.contains reg then s
    else s.setCtx core ctx { t with regErr := reg :: t.regErr })

/-- Data of a scratch word, a slice line or DRAM fails correction: the aligned 8-byte word is poisoned and the event logged (13 R184). -/
def State.dataError (s : State) (loc : Nat) : State :=
  if isHost loc || isRemote loc then s
  else (s.markPoison loc).logErr 1 (BitVec.ofNat 64 loc) 0 0 0

/-! ### Translation -/

/-- Install an entry: entries of the space that overlap it go, and the least recently used where the TLB is full (08 R106). -/
def installTlb (es : List TlbEntry) (e : TlbEntry) : List TlbEntry :=
  let lo := bits e.te0 0 60 / 2 ^ 16 * 2 ^ 16
  let n := 2 ^ pageShift e.te0
  (e :: es.filter fun q => !(decide (bits q.te0 0 12 = bits e.te0 0 12) &&
    meets (bits q.te0 0 60 / 2 ^ 16 * 2 ^ 16) (2 ^ pageShift q.te0) lo n)).take 256

/-- TLBW into a core, with the lock of the layout counts (08 R106, 28 R358). -/
def State.tlbWrite (s : State) (n : Nat) (e : TlbEntry) : State :=
  let s1 := if bits e.te1 58 2 < 2 then { s with pkg := { s.pkg with layLock := true } } else s
  s1.setCore n { s1.core n with tlb := installTlb (s1.core n).tlb e }

/-- The waiting accesses of a miss try again. -/
def State.wakeWaiters (s : State) (n : Nat) (m : Miss) : State :=
  m.waiters.foldl (fun s w =>
    let t := s.ctx n w.ctx
    if t.gen = w.gen ∧ t.run = .stalled then s.setCtx n w.ctx { t with run := .ready } else s) s

/-- A miss ends. -/
def State.dropMiss (s : State) (n : Nat) (m : Miss) : State :=
  (s.setCore n { s.core n with misses := (s.core n).misses.filter fun q => decide (q ≠ m) }).wakeWaiters n m

/-- A context is halted or ends: its accesses wait no more, and the walks and page requests that it sent are abandoned; whatever else
waits on them misses afresh (08 R108, R111). -/
def State.abandon (s : State) (n i : Nat) : State :=
  let s1 := s.dropWaits n i
  ((s1.core n).misses.filter fun m => decide (m.ctx = i)).foldl (fun s m => s.dropMiss n m) s1

/-- The accesses that wait on a miss which an installed entry serves try again (14 R203); an engine's whose walk has failed does not. -/
def State.retryMisses (s : State) (n : Nat) (e : TlbEntry) : State :=
  ((s.core n).misses.filter fun m => e.hit m.space m.va && !m.failed).foldl (fun s m => s.dropMiss n m) s

/-- The record of a page request (08 R109). -/
def State.pageRecord (s : State) (r : PageReq) : Nat :=
  r.va.toNat * 2 ^ 192 + r.lid.toNat * 2 ^ 160 + r.gen.toNat * 2 ^ 128 + r.space.toNat * 2 ^ 116 + r.kind % 4 * 2 ^ 114 +
    s.pkg.pkgnum.toNat * 2 ^ 101 + r.id.toNat

/-- log2 of the ring's records; none where PRBASE names no ring (28 R365). -/
def State.ringSize (s : State) : Option Nat :=
  let n := bits s.pkg.prbase 0 4
  if 4 ≤ n then some n else none

/-- A word of the MSI-X table, entry v at words 2 v and 2 v + 1. The spec gives the table no layout: PCI Express's, whose mask bit, bit 32 of
the second word, is 1 at reset (PRESUMED, log 84). -/
def Pkg.msixWord (p : Pkg) (k : Nat) : Word :=
  mget (if k % 2 = 1 then 0x100000000 else 0) p.msixTab k

/-- Is a vector masked? -/
def Pkg.masked (p : Pkg) (v : Nat) : Bool :=
  (p.msixWord (2 * v + 1)).getLsbD 32

/-- Send an MSI-X vector: a masked one stays pending (28 R357); a down host link loses it. -/
def State.sendVector (s : State) (v : BitVec 11) : State :=
  if s.pkg.masked v.toNat then { s with pkg := { s.pkg with msixPend := mset false s.pkg.msixPend v.toNat true } }
  else if s.pkg.linkUp then { s with pkg := { s.pkg with msix := s.pkg.msix ++ [v] } }
  else s

/-- Write a request to the host's ring where it has room (28 R365): the record first, then PRPROD, then the vector. A down host link loses
the record, which is logged (28 R356). -/
def State.ringWrite (s : State) (r : PageReq) : Option State :=
  match s.ringSize with
  | none => none
  | some n =>
    if 2 ^ n ≤ s.pkg.prUsed then none
    else
      let at0 := s.pkg.prbase.toNat / 2 ^ 12 * 2 ^ 12 + 32 * (s.pkg.prprod.toNat % 2 ^ n)
      let s1 := if s.pkg.linkUp then s.rawWrite (hostAt + at0) 32 (s.pageRecord r) else s.logErr 5 (BitVec.ofNat 64 at0) r.lid 0 0
      let s2 : State := { s1 with
        reqs := s1.reqs ++ [r]
        pkg := { s1.pkg with prprod := BitVec.ofNat 16 ((s.pkg.prprod.toNat + 1) % 2 ^ n), prUsed := s.pkg.prUsed + 1 } }
      some (if s.pkg.prmsi.getLsbD 11 then s2.sendVector (s.pkg.prmsi.setWidth 11) else s2)

/-- Send a page request, or hold it behind those already held. -/
def State.sendRequest (s : State) (r : PageReq) : State :=
  match (if s.heldReqs = [] then s.ringWrite r else none) with
  | some s1 => s1
  | none => { s with heldReqs := s.heldReqs ++ [r] }

/-- TLB_WALK: the translation core's firmware walks its tables for a miss. `found` is the entry it finds. An entry is installed and
the waiting accesses retry; a failed walk drops a prefetch, fails an engine's access (09 R119), or sends a page request (08 R108). A
thread's access that waits on an engine's miss whose walk fails retries and sends a miss of its own: the spec does not say what becomes
of it (DESIGN CHOICE, log 75). -/
def execTlbWalk (core miss : Nat) (found : Option (BitVec 64 × BitVec 64)) (s : State) : Out :=
  .next (match nth (s.core core).misses miss with
    | none => s
    | some m =>
      if m.requested || m.failed then s
      else match found with
        | some p => if (TlbEntry.mk p.1 p.2).malformed then s
          else ((s.tlbWrite core ⟨p.1, p.2⟩).retryMisses core ⟨p.1, p.2⟩).dropMiss core m
        | none =>
          if m.prefetch then s.dropMiss core m
          else if 64 ≤ m.ctx then
            (s.setCore core { s.core core with misses := (s.core core).misses.map fun q =>
              if q = m then { q with failed := true, waiters := [] } else q }).wakeWaiters core m
          else
            let c := s.core core
            let s1 := s.setCore core { c with
              misses := c.misses.map (fun q => if q = m then { q with requested := true } else q),
              ctxs := c.ctxs.map fun e => if m.waiters.any (fun w => decide (w.ctx = e.1)) then (e.1, e.2.pauseStall s.clock.toNat) else e }
            s1.sendRequest ⟨m.va, m.lid, m.gen, m.space, m.kind, BitVec.ofNat 15 (core * 64 + m.ctx)⟩)

/-- HELD_PAGE_REQUEST_WRITE: the oldest held request reaches the ring (28 R365). -/
def execHeldPageRequestWrite (s : State) : Out :=
  .next (match s.heldReqs with
    | [] => s
    | r :: t => match s.ringWrite r with
      | some s1 => { s1 with heldReqs := t }
      | none => s)

/-- PAGE_REQUEST_ANSWER: the host's answer to a request outstanding for its context and generation; any other is counted
(08 R109, R110, R120, 28 R366). On a retry the watchdog counts again, for no request is outstanding (13 R182). -/
def execPageRequestAnswer (value : BitVec 64) (s : State) : Out :=
  let id := bits value 0 15
  let gen : BitVec 32 := BitVec.ofNat 32 (bits value 32 32)
  let core := id / 64
  let ctx := id % 64
  let bad := { s with pkg := { s.pkg with ansdisc := s.pkg.ansdisc + 1 } }
  .next (if bits value 17 15 ≠ 0 ∨ bits value 15 1 ≠ 0 then bad
    else match (s.core core).misses.find? fun m => decide (m.requested = true ∧ m.ctx = ctx ∧ m.gen = gen ∧ (s.ctx core ctx).gen = gen) &&
        s.reqs.any fun r => decide (r.id.toNat = id ∧ r.gen = gen ∧ r.va = m.va) with
      | none => bad
      | some m =>
        let s1 := { s with reqs := s.reqs.filter fun r => !decide (r.id.toNat = id ∧ r.gen = gen ∧ r.va = m.va) }
        if bits value 16 1 = 0 then
          let c := s1.core core
          s1.setCore core { c with
            misses := c.misses.map (fun q => if q = m then { q with requested := false } else q),
            ctxs := c.ctxs.map fun e =>
              if m.waiters.any (fun w => decide (w.ctx = e.1 ∧ w.gen = e.2.gen)) then (e.1, e.2.resumeStall s.clock.toNat) else e }
        else
          let s2 := s1.setCore core { s1.core core with misses := (s1.core core).misses.filter fun q => decide (q ≠ m) }
          m.waiters.foldl (fun s w =>
            let t := s.ctx core w.ctx
            if t.gen = w.gen ∧ t.run = .stalled then s.trap core w.ctx ⟨4, w.kind, w.va, t.pc, false, false, 0⟩ else s) s2)

end Sys2Proof.Machine
end

