-- ==== Sys2Proof/Machine/Thread.lean ====
section
/-! DEFINITION. Threads: starting, creating and ending them, yielding and waiting (02 R16, R26, R28, R30, R35; 14 R191 to R197). -/

namespace Sys2Proof.Machine

/-! ### Launch records and placement hints (02 R17, R24) -/

def recN (w : BitVec 512) : Nat := (w.extractLsb' 128 32).toNat
def recRadius (w : BitVec 512) : Nat := (w.extractLsb' 162 5).toNat
def recCor (w : BitVec 512) : Bool := w.getLsbD 167
def recCaddr (w : BitVec 512) : Word := w.extractLsb' 192 64
def recEntry (w : BitVec 512) : Word := w.extractLsb' 0 64
def recHandler (w : BitVec 512) : Word := w.extractLsb' 64 64

/-- The core of a 9-bit curve code. -/
def coreOfCode (c : Nat) : Nat :=
  let b := fun (i k : Nat) => if c.testBit i then 2 ^ k else 0
  coreNo (b 0 0 + b 2 1 + b 4 2 + b 6 3 + b 8 4) (b 1 0 + b 3 1 + b 5 2 + b 7 3)

/-- The curve code of a core. -/
def codeOfCore (n : Nat) : Nat :=
  ((List.range 512).find? fun c => decide (coreOfCode c = n)).getD 0

/-- The code that thread i's hint names. -/
def hintCode (w : BitVec 512) (i : Nat) : Nat :=
  ((w.extractLsb' 168 9).toNat + i * (w.extractLsb' 177 9).toNat) % 512

/-- Does a core take messages: active and not parked? -/
def State.takes (s : State) (n : Nat) : Bool :=
  s.active n && !(s.core n).parked

/-- The hint of thread i: its code's core or the next in code order that is active and unparked. -/
def State.hintOf (s : State) (w : BitVec 512) (i : Nat) : Option Nat :=
  ((List.range 512).map fun k => coreOfCode ((hintCode w i + k) % 512)).find? s.takes

/-- Hops between two cores. -/
def hops (a b : Nat) : Nat :=
  ((coreX a : Int) - coreX b).natAbs + ((coreY a : Int) - coreY b).natAbs

/-- The head of a queue: the launch put in front at a resume, or the oldest record (02 R21, 13 R380). -/
def Queue.head (q : Queue) : Option QRec :=
  (q.front ++ q.recs).head?

/-- Does a launch wait co-resident at its queue's head, with a core in its placement region (02 R27)? -/
def State.waitsFor (s : State) (l : Launch) (n : Nat) : Bool :=
  recCor l.words && decide (l.phase = .queued) &&
  (match (mget Queue.reset (mget Ctl.reset s.ctl l.base).queues l.queue).head with
    | some r => decide (r.lid = l.lid)
    | none => false) &&
  (List.range (min (recN l.words) 512)).any fun i => match s.hintOf l.words i with
    | some h => decide (hops h n ≤ recRadius l.words)
    | none => false

/-- A context that has become idle is held for the co-resident launches that wait for its core (02 R27). -/
def State.holdCtx (s : State) (n i : Nat) : State :=
  let ls := (s.launches.filter fun l => s.waitsFor l n).map fun l => (i, l.lid)
  if ls = [] then s else s.setCore n { s.core n with held := (s.core n).held ++ ls }

/-! ### Starting a thread in a context (02 R16) -/

/-- A queue's class override as a selection in a cycle sees it: not yet what was written in that cycle (03 R38). -/
def Queue.override (q : Queue) (now : Nat) : Option (BitVec 2) :=
  let o := if q.ovAt = some now then q.ovOld else (q.ovclass, q.oven)
  if o.2 then some o.1 else none

/-- A launch's effective class now: its queue's override where enabled, else the record's CLASS (02 R29). -/
def State.effClass (s : State) (base queue : Nat) (words : BitVec 512) : BitVec 2 :=
  match (mget Queue.reset (mget Ctl.reset s.ctl base).queues queue).override s.clock.toNat with
  | some c => if queue < 8 then c else words.extractLsb' 160 2
  | none => words.extractLsb' 160 2

/-- Is a context kept from a launch of a class, because a waiting co-resident launch of at least that class holds it (02 R27)? -/
def State.heldFrom (s : State) (n i : Nat) (lid : BitVec 32) (cls : BitVec 2) : Bool :=
  (s.core n).held.any fun h => h.1 == i && h.2 != lid && (match s.launchOf h.2 with
    | some l => decide (s.effClass l.base l.queue l.words ≤ cls)
    | none => false)

/-- Is a context idle to every request: idled before this cycle (21 R282)? -/
def State.isIdle (s : State) (n i : Nat) : Bool :=
  decide ((s.ctx n i).run = .idle ∧ (s.ctx n i).idleAt ≠ some s.clock.toNat)

/-- The lowest-numbered idle context a launch may take. -/
def State.idleFor (s : State) (n : Nat) (lid : BitVec 32) (cls : BitVec 2) : Option Nat :=
  (List.range 64).find? fun i => s.isIdle n i && !s.heldFrom n i lid cls

/-- Has a core already handed out a context in this cycle to a request of a later kind (21 R282): 1 the clone of a QSPLIT, 2 a queued
message, 3 a message that arrives? The earlier kind then has its turn in the next cycle. -/
def State.handedPast (s : State) (n kind : Nat) : Bool :=
  match (s.core n).handAt with
  | some (c, k) => decide (c = s.clock.toNat ∧ kind < k)
  | none => false

/-- A core hands out a context to a request of a kind. -/
def State.handOut (s : State) (n kind : Nat) : State :=
  s.setCore n { s.core n with handAt := some (s.clock.toNat, kind) }

/-- The landing buffer of a context (02 R28). -/
def landingOff (i : Nat) : Nat := 0xFC000 + 256 * i

/-- The own-scratch form of an offset (08 R87). -/
def myScratch (off : Nat) : Word :=
  BitVec.ofNat 64 (14 * 2 ^ 56 + off)

/-- A context right after its thread starts: the state of 02 R16; the generation and the order of accesses go on. -/
def Ctx.started (t : Ctx) (i : Nat) (m : InMsg) : Ctx :=
  ({ Ctx.reset with
    run := .ready, pc := m.pc, tid := m.tid, lid := m.lid, spawnno := m.spawnno, rmode := m.rmode, ehandler := m.ehandler &&& ~~~3,
    cls := m.cls, space := m.space, gen := t.gen, seq := t.seq }.wx 1 m.x1 |>.wx 2 m.x2 |>.wx 3 m.x3 |>.wx 4 m.x4).wx 5
    (if m.kind = 2 then myScratch (landingOff i) else 0)

/-- Start a thread: the landing buffer is written first (02 R28), a core that holds no other thread of the launch invalidates its
instruction cache (08 R97), and a thread made by a device thread sees its parent's stores, so it reads no line that the L1 holds from before
its start (02 R28, log 31). -/
def State.startThread (s : State) (n i : Nat) (m : InMsg) (fresh : Bool) : State :=
  let s0 := if m.kind = 2 then
      let loc := scratchAt n + landingOff i
      m.badWords.foldl (fun s k => s.markPoison (loc + 8 * k))
        (s.storeAt ⟨0, loc, m.payload.length, false, 0, 0⟩ loc m.payload.length (joinBytes m.payload) 2).2
    else s
  let c := s0.core n
  let alone := !(c.ctxs.any fun t => decide (t.2.lid = m.lid ∧ t.2.run ≠ .idle))
  let c1 := { c with icache := if alone then [] else c.icache, held := c.held.filter fun h => decide (h.1 ≠ i) }
  s0.setCore n (c1.setCtx i { (c.ctx i).started i m with
    regErr := m.bad, stale := if fresh then c.l1.map (·.1) else [] })

/-- A thread's rendezvous entries and its matrix slice are freed; a slice in gang wait counts as idle from here on (20 R269, 22 R285,
R303). -/
def Core.release (c : Core) (i now : Nat) : Core :=
  { c with rvt := c.rvt.filter fun e => decide (e.holder ≠ i),
           mx := if c.mx.owner = some i then { c.mx with owner := none, form := none, idleAt := if c.mx.form.isSome then now else c.mx.idleAt } else c.mx }

/-- A context becomes idle, from the next cycle on (21 R282): its generation rises, its lock, entries and slice are freed, its records are discarded (02 R35, 08 R110,
14 R195, 20 R269, 22 R285, 18 R252). -/
def State.retireCtx (s : State) (n i : Nat) : State :=
  let s1 := ((s.freeLock n i).lockForget n i).abandon n i
  let t := s1.ctx n i
  ((s1.setCore n ((s1.core n).release i s.clock.toNat)).setCtx n i { Ctx.reset with gen := t.gen + 1, seq := t.seq, idleAt := some s.clock.toNat }).holdCtx n i

/-! ### SPAWN and SEND (14 R192, R193) -/

/-- The message of a spawn or send. -/
def Ctx.message (t : Ctx) (kind : Nat) (pc : Word) (payload : List Byte) : InMsg where
  kind := kind
  lid := t.lid
  pc := pc
  x1 := t.rx 1
  x2 := t.rx 2
  x3 := t.rx 3
  x4 := t.rx 4
  spawnno := t.spawnno * 64 + t.scnt.setWidth 64 + 1
  tid := t.tid
  cls := t.cls
  space := t.space
  rmode := t.rmode
  ehandler := t.ehandler
  payload := payload
  bad := []
  badWords := []

/-- Issue the message: the count rises, the window opens, the message waits for its release. -/
def State.sendMessage (s : State) (d a : BitVec 5) (l : BitVec 4) (m : InMsg) : State :=
  let t := s.me
  let dest := t.rx a
  let S := max 1 (scopeWord (s.coordOf s.cur.core (groupOf s.cur.ctx)) dest)
  let o : OutMsg := ⟨s.cur.core, s.cur.ctx, t.seq, s.myCore.nextStore, t.gen, S, coordCore dest, none, m⟩
  { s.openWin { t with scnt := t.scnt + 1 } (.x d) 0xFFFF l (.message false) none with outs := s.outs ++ [o] }

/-- The checks of destination and child PC (14 R192); the KIND of the PC's misalignment: log 18. Where several of the destination, PC and
descriptor checks fail, the spec does not say which trap is taken: destination first, then PC, then descriptor (DESIGN CHOICE, log 77). -/
def State.withDest (s : State) (a b : BitVec 5) (k : Out) : Out :=
  let dest := s.me.rx a
  let pc := s.me.rx b
  if bits dest 11 6 ≠ s.pkg.pkgnum.toNat ∨ s.active (coordCore dest) = false then .next (s.trapMe 3 1 dest)
  else if pc.toNat % 4 ≠ 0 then .next (s.trapMe 2 0 pc)
  else k

def execSpawn (d a b : BitVec 5) (l : BitVec 4) (s : State) : Out :=
  s.plain (s.withDest a b (.next (s.sendMessage d a l (s.me.message 1 (s.me.rx b) []))))

/-- Read bytes of the executing core's scratch as loads of the thread (02 R37): none where one must wait, or the first poisoned
offset. -/
def State.readMine (s : State) (off n : Nat) : Option (Except Nat (List Byte)) :=
  match n with
  | 0 => some (.ok [])
  | n + 1 =>
    let loc := scratchAt s.cur.core + off
    if s.me.behind s.me.seq loc 1 || !s.belowMark loc 1 then none
    else match (s.readFor s.cur.core s.cur.ctx s.me.seq ⟨0, loc, 1, false, 0, 0⟩ none).1 with
      | .wait => none
      | .fault _ => some (.error off)
      | .val v => match s.readMine (off + 1) n with
        | some (.ok t) => some (.ok (BitVec.ofNat 8 v :: t))
        | q => q

/-- A payload: its bytes, with the traps and waits of reading them, of kind `kind` (13 R378). -/
def State.withPayload (s : State) (kind off n : Nat) (k : List Byte → Out) : Out :=
  if s.me.acquiring then .next s.stall
  else match s.readMine off n with
    | none => .next s.stall
    | some (.error o) => .next (s.trapMe 5 kind (myScratch o))
    | some (.ok bs) => k bs

/-- Is a payload descriptor well formed (14 R192)? -/
def payloadOk (w : Word) : Bool :=
  decide (bits w 41 23 = 0 ∧ bits w 21 11 = 0 ∧ 1 ≤ bits w 32 9 ∧ bits w 32 9 ≤ 256 ∧ bits w 0 21 + bits w 32 9 ≤ 0x100000)

def execSend (d a b : BitVec 5) (l : BitVec 4) (s : State) : Out :=
  s.plain (s.withDest a b (
    let w := s.me.rx d
    if payloadOk w = false then .next (s.trapMe 3 0 w)
    else s.withPayload 0 (bits w 0 21) (bits w 32 9) fun bs =>
      .next (s.sendMessage d a l (s.me.message 2 (s.me.rx b) bs))))

/-- LAUNCH: the record must lie in the executing core's scratch (14 R194). Where x[A] is misaligned and also names another core's scratch the
spec does not say which trap is taken: the misalignment trap (DESIGN CHOICE, log 89). -/
def execLaunch (d a b : BitVec 5) (l : BitVec 4) (s : State) : Out :=
  s.plain (s.withScratch 0 64 64 (s.me.rx a) fun acc =>
    if isScratch acc.loc = false ∨ scratchCore acc.loc ≠ s.cur.core then .next (s.trapMe 3 0 (s.me.rx a))
    else
      let t := s.me
      let o : OutMsg := ⟨s.cur.core, s.cur.ctx, t.seq, s.myCore.nextStore, t.gen, 4, baseOf s.cur.core,
        some (bits (t.rx b) 0 2, acc.loc), t.message 0 (t.rx a) []⟩
      .next { s.openWin t (.x d) 0xFFFF l (.message true) none with outs := s.outs ++ [o] })

/-! ### EXIT, YIELD and WAIT -/

/-- Has every store of the thread been acknowledged and every result landed (14 R195)? -/
def State.quiet (s : State) (n i : Nat) : Bool :=
  (s.ctx n i).landed && (s.core n).storeQ.all fun e => decide (e.ctx ≠ i)

/-- Does an operation run on the slice that the context owns (22 R301)? -/
def State.mxBusy (s : State) (n i : Nat) : Bool :=
  decide ((s.core n).mx.owner = some i) && (s.core n).mx.op.isSome

/-- The executing thread retires once it is quiet. -/
def execExit (s : State) : Out :=
  s.plain (if s.quiet s.cur.core s.cur.ctx && !s.mxBusy s.cur.core s.cur.ctx then .next (s.retireCtx s.cur.core s.cur.ctx)
    else .next s.stall)

/-- YIELD: the context is passed over until each other ready context of its class on its lane group has issued once (14 R196); none
has issued yet. -/
def execYield (s : State) : Out :=
  s.plain (.next (s.putMe { s.me.next with yieldFor := some [] }))

/-- WAIT reads the word at its bank, before any write of the same cycle (05 R60), and waits while it equals x[b] (14 R197). A word of
another package is read there: its answer is the `podWake` turn. -/
def execWait (d a b : BitVec 5) (s : State) : Out :=
  s.plain (s.withScratch 0 8 8 (s.me.rx a) fun acc =>
    let t := s.me
    if t.behind t.seq acc.loc 8 || !s.storesDone s.cur.core s.cur.ctx t.seq acc.loc 8 || s.bankHas acc.loc 0 then .next s.stall
    else s.overMesh acc 4 (dataFlit (t.rx b) 0) (fun s => .next (s.trapMe 3 0 (t.rx a))) (
      if isRemote acc.loc then
        .next (s.putMe { t with run := .waiting (.word (t.rx a) acc.loc (t.rx b) d), stallAt := none })
      else if anyPoison s.poison acc.loc 8 then .next (s.trapMe 5 0 (t.rx a))
      else
        let v := BitVec.ofNat 64 (s.rawRead acc.loc 8)
        if v = t.rx b then .next (s.putMe { t with run := .waiting (.word (t.rx a) acc.loc (t.rx b) d), stallAt := none })
        else s.finish (t.wx d v)))

end Sys2Proof.Machine
end

