-- ==== Sys2Proof/Machine/Group.lean ====
section
/-! DEFINITION. Group words and barrier wires: JOIN, LEAVE, BAR, BART, HBAR (02 R32 to R34, 14 R198, R199, 15 R218). -/

namespace Sys2Proof.Machine

/-- The word after a release: ARRIVED 0 and PHASE flipped (02 R33). -/
def gwRelease (w : Nat) : Nat :=
  gwMembers w + (if gwPhase w then 0 else 2 ^ 40)

/-- The contexts that wait on a group word, with their destinations and time-outs. -/
def State.gwWaiters (s : State) (loc : Nat) : List (Nat × Nat × BitVec 5 × Option Nat) :=
  s.waiting.filterMap fun e => match e.2.2 with
    | .bar _ l _ d dl _ => if l = loc then some (e.1, e.2.1, d, dl) else none
    | .word _ _ _ _ | .hbar _ _ _ _ | .gang => none

/-- The arrivals of a group word's present phase, those of timed-out and halted threads among them (02 R33). -/
def State.gwArrs (s : State) (loc : Nat) : List Arrival :=
  (s.core (scratchCore loc)).arrs.filter fun a => decide (a.loc = loc)

/-- The scope that encloses the arrivers and the word's core (02 R34). -/
def State.gwScope (s : State) (loc : Nat) (as : List Arrival) : Nat :=
  let n := s.cur.core
  let g := groupOf s.cur.ctx
  let o := scratchCore loc
  as.foldl (fun m a => max m (scopeOf n g a.core (groupOf a.ctx))) (if o = n then 0 else scopeOf n g o 0)

/-- May the word be released: the release of every arriver holds at the scope (02 R34). -/
def State.gwReady (s : State) (S : Nat) (as : List Arrival) : Bool :=
  s.gate s.cur.core s.cur.ctx s.me.seq s.myCore.nextStore S && as.all fun a => s.gate a.core a.ctx a.seq a.qpos S

/-- Wake every waiter with status 0; each wake is an acquire at the scope (02 R33, R34). A BART whose time-out fell in an earlier cycle
has ended with status 3 (14 R198). -/
def State.gwWake (s : State) (S : Nat) (ws : List (Nat × Nat × BitVec 5 × Option Nat)) : State :=
  ws.foldl (fun s w =>
    if s.pastTime w.2.2.2 then s.complete w.1 w.2.1 w.2.2.1 3
    else (if S = 0 then s else s.l1Clear w.1).complete w.1 w.2.1 w.2.2.1 0) s

/-- Write a group word by a group instruction: WAITs on it are tested. -/
def State.gwPut (s : State) (loc w : Nat) : State :=
  ((s.bankNote loc 8 0).rawWrite loc 8 w).wakeWord (loc / 8) true

/-- Release a group word: its waiters wake and its arrivals are over (02 R33). -/
def State.gwFree (s : State) (loc w S : Nat) : State :=
  let s1 := (s.gwPut loc (gwRelease w)).gwWake S (s.gwWaiters loc)
  let c := s1.core (scratchCore loc)
  s1.setCore (scratchCore loc) { c with arrs := c.arrs.filter fun a => decide (a.loc ≠ loc) }

/-- The executing thread arrives at a group word: its place in its order and in its store queue is kept (02 R33, R34). -/
def State.gwArrive (s : State) (loc w : Nat) : State :=
  let s1 := s.gwPut loc (w + 2 ^ 20)
  let c := s1.core (scratchCore loc)
  s1.setCore (scratchCore loc) { c with arrs := c.arrs ++ [⟨loc, s.cur.core, s.cur.ctx, s.me.seq, s.myCore.nextStore⟩] }

/-- A group instruction acts on its word once what it must follow is done, its request is there and the lock bit is its own (08 R116,
02 R32), before any other operation that reaches the word in the same cycle (05 R60). A word of another package is acted on there
(08 R89). `bad` is its fault, by CAUSE. -/
def State.withGroup (s : State) (aop : Nat) (va : Word) (k : Acc → Nat → State → Out) (bad : Acc → Nat → State → Out)
    (away : Acc → State → Out) : Out :=
  s.plain (s.withScratch 2 8 8 va fun acc =>
    let n := s.cur.core
    let i := s.cur.ctx
    let q := s.me.seq
    if !s.loadsIn || !s.fencesOpen n i q || !s.storesDone n i q acc.loc 8 || s.bankHas acc.loc 1 then .next s.stall
    else s.overMesh acc aop [] (bad acc 3) (
      if isRemote acc.loc then away acc s
      else if !s.lockFree acc.loc n i q then .next (s.lockQueue acc.loc n i q).stall
      else
        let s := s.lockUnqueue acc.loc n i q
        if anyPoison s.poison acc.loc 8 then bad acc 5 s else k acc (s.rawRead acc.loc 8) s))

/-- The status of JOIN or LEAVE returns through a window. -/
def State.gwStatus (s : State) (acc : Acc) (join : Bool) (d : BitVec 5) (l : BitVec 4) (r : Res) : Out :=
  .next (s.openWin s.me (.x d) 0xFFFF l (.group acc join) (some r))

def execJoin (d a : BitVec 5) (l : BitVec 4) (s : State) : Out :=
  s.withGroup 0 (s.me.rx a) (fun acc w s =>
    if gwStatusOf true w = 2 then s.gwStatus acc true d l (.val 2)
    else (s.gwPut acc.loc (w + 1)).gwStatus acc true d l (.val 0))
    (fun acc c s => s.gwStatus acc true d l (.fault c 2 (s.me.rx a)))
    (fun acc s => .next (s.openWin s.me (.x d) 0xFFFF l (.group acc true) none))

/-- LEAVE, which may release the word (02 R33, R34); a word of another package, of which this one cannot tell whether it is released, is
treated as one that is. -/
def execLeave (d a : BitVec 5) (l : BitVec 4) (s : State) : Out :=
  s.withGroup 1 (s.me.rx a) (fun acc w s =>
    if gwStatusOf false w = 2 then s.gwStatus acc false d l (.val 2)
    else if gwMembers w - 1 > 0 ∧ gwArrived w ≥ gwMembers w - 1 then
      let S := s.gwScope acc.loc (s.gwArrs acc.loc)
      if s.gwReady S (s.gwArrs acc.loc) then (s.gwFree acc.loc (w - 1) S).gwStatus acc false d l (.val 0)
      else .next s.stall
    else (s.gwPut acc.loc (w - 1)).gwStatus acc false d l (.val 0))
    (fun acc c s => s.gwStatus acc false d l (.fault c 2 (s.me.rx a)))
    (fun acc s =>
      if s.gate s.cur.core s.cur.ctx s.me.seq s.myCore.nextStore 6 then
        .next (s.openWin s.me (.x d) 0xFFFF l (.group acc false) none)
      else .next s.stall)

/-- A time-out operand: none for 0, at most 2^32 - 1 cycles from now (14 R198). -/
def State.deadline (s : State) (v : Word) : Option Nat :=
  if v = 0 then none else some (s.clock.toNat + min v.toNat (2 ^ 32 - 1))

/-- BAR and BART: arrive, and release the word or wait for its phase to change (02 R33). -/
def State.arrive (s : State) (aop : Nat) (d a : BitVec 5) (dl : Option Nat) : Out :=
  s.withGroup aop (s.me.rx a) (fun acc w s =>
    if gwBad w ∨ gwMembers w = 0 then s.finish (s.me.wx d 2)
    else if gwArrived w + 1 ≥ gwMembers w then
      let S := s.gwScope acc.loc (s.gwArrs acc.loc)
      if s.gwReady S (s.gwArrs acc.loc) then
        let s := (s.gwFree acc.loc w S).acquired S
        s.finish (s.me.wx d 0)
      else .next s.stall
    else
      let s := s.gwArrive acc.loc w
      .next (s.putMe { s.me with
        run := .waiting (.bar (s.me.rx a) acc.loc (gwPhase w) d dl s.myCore.nextStore), stallAt := none }))
    (fun _ c s => .next (s.trapMe c 2 (s.me.rx a)))
    (fun acc s =>
      if s.gate s.cur.core s.cur.ctx s.me.seq s.myCore.nextStore 6 then
        .next (s.putMe { s.me with run := .waiting (.bar (s.me.rx a) acc.loc false d dl s.myCore.nextStore), stallAt := none })
      else .next s.stall)

/-- BAR; a context restored as waiting by a resume does not arrive again (13 R186, R189). -/
def execBar (d a : BitVec 5) (s : State) : Out := s.arrive 2 d a none

def execBart (d a b : BitVec 5) (s : State) : Out := s.arrive 3 d a (s.deadline (s.me.rx b))

/-- BART_TIMEOUT: a waiting BART returns status 3; its arrival stays (02 R33). A release in the cycle of the time-out wins, so the time-out
takes effect once that cycle is over (14 R198). -/
def execBartTimeout (core ctx : Nat) (s : State) : Out :=
  .next (match (s.ctx core ctx).run with
    | .waiting (.bar _ _ _ d (some dl) _) => if s.pastTime (some dl) then s.complete core ctx d 3 else s
    | _ => s)

/-! ### Barrier wires -/

/-- The wire of a core: its row, its column, or its base's mesh (14 R199). -/
def wireIdx (kind n : Nat) : Nat :=
  match kind with
  | 0 => coreY n
  | 1 => coreX n % 16
  | _ => 0

/-- The cores of a wire's set. -/
def wireSet (base kind idx : Nat) : List Nat :=
  ((List.range 16).flatMap fun y => (List.range 16).map fun c => coreNo (16 * base + c) y).filter fun n => decide (wireIdx kind n = idx)

/-- A thread in HBAR on a wire: core, context, destination, the cycle in which it began, and its time-out. -/
structure HbarWait where
  core : Nat
  ctx : Nat
  d : BitVec 5
  since : Nat
  deadline : Option Nat
  deriving DecidableEq, Repr

/-- The contexts that wait in HBAR on a wire. -/
def State.hbarOn (s : State) (base kind idx : Nat) : List HbarWait :=
  s.waiting.filterMap fun e => match e.2.2 with
    | .hbar k d since dl => if k = kind ∧ baseOf e.1 = base ∧ wireIdx k e.1 = idx then some ⟨e.1, e.2.1, d, since, dl⟩ else none
    | .word _ _ _ _ | .bar _ _ _ _ _ _ | .gang => none

/-- The cycles of a wire's releases that are due and not over. -/
def State.wireDues (s : State) (base kind idx : Nat) : List Nat :=
  (s.pkg.wireDue.filter fun e => decide (e.1 = base ∧ e.2.1 = kind ∧ e.2.2.1 = idx)).map fun e => e.2.2.2

/-- Does a thread's wait hold its core's arrival raised now: no release and no time-out of an earlier cycle has ended it (14 R199)? -/
def State.raised (s : State) (rs : List Nat) (w : HbarWait) : Bool :=
  !s.pastTime w.deadline && rs.all fun r => decide (s.clock.toNat ≤ r ∨ r < w.since)

/-- Does every core of a wire's set count as arrived (15 R218)? -/
def State.wireFull (s : State) (base kind idx : Nat) : Bool :=
  let ws := (s.hbarOn base kind idx).filter (s.raised (s.wireDues base kind idx))
  (wireSet base kind idx).all fun n => !s.active n || (if (s.core n).parked then (s.core n).excuse else ws.any fun w => decide (w.core = n))

/-- Cycles from the last arrival to the release (15 R218). -/
def wireDelay (kind : Nat) : Nat :=
  if kind = 2 then 9 else 5

/-- The wires that someone waits on. -/
def State.waitedWires (s : State) : List (Nat × Nat × Nat) :=
  (s.waiting.filterMap fun e => match e.2.2 with
    | .hbar k _ _ _ => some (baseOf e.1, k, wireIdx k e.1)
    | .word _ _ _ _ | .bar _ _ _ _ _ _ | .gang => none).eraseDups

/-- After arrivals changed: a wire whose set is complete releases 5 or 9 cycles from now; one that was complete keeps its release,
whatever arrivals are lowered before it (14 R199, 15 R218, R219). -/
def State.wires (s : State) : State :=
  let full := s.waitedWires.filter fun w => s.wireFull w.1 w.2.1 w.2.2
  let new := full.filter fun w => (s.wireDues w.1 w.2.1 w.2.2).all fun r => decide (r < s.clock.toNat)
  { s with pkg := { s.pkg with wireDue := s.pkg.wireDue ++ new.map fun w => (w.1, w.2.1, w.2.2, s.clock.toNat + wireDelay w.2.1) } }

/-- HBAR. Its core's arrival is raised no later than the cycle after its issue (16 R222); the model raises it in the cycle of the issue, and
counts the release delay and the time-out from there (DESIGN CHOICE, log 89). -/
def execHbar (d a b : BitVec 5) (s : State) : Out :=
  s.plain (
    let k := bits (s.me.rx a) 0 2
    if k = 3 then s.finish (s.me.wx d 2)
    else .next (s.putMe { s.me with run := .waiting (.hbar k d s.clock.toNat (s.deadline (s.me.rx b))), stallAt := none }).wires)

/-- WIRE_RELEASE: every thread that waits on a due wire in the cycle of the release, one that begins in it among them, is released with
status 0; one whose time-out fell before that cycle has status 3 (14 R199). The release is over with its cycle. -/
def execWireRelease (base wire idx : Nat) (s : State) : Out :=
  .next (match (s.wireDues base wire idx).find? fun r => decide (r ≤ s.clock.toNat) with
    | some r =>
      let s1 := ((s.hbarOn base wire idx).filter fun w => decide (w.since ≤ r)).foldl (fun s w => s.complete w.core w.ctx w.d (match w.deadline with
        | some dl => if dl < r then 3 else 0
        | none => 0)) s
      if r < s.clock.toNat then
        { s1 with pkg := { s1.pkg with wireDue := s1.pkg.wireDue.filter fun e => decide (e ≠ (base, wire, idx, r)) } }
      else s1
    | none => s)

/-- HBAR_TIMEOUT: status 3, unless a release falls no later (14 R199). -/
def execHbarTimeout (core ctx : Nat) (s : State) : Out :=
  .next (match (s.ctx core ctx).run with
    | .waiting (.hbar k d since (some dl)) =>
      if dl ≤ s.clock.toNat && (s.wireDues (baseOf core) k (wireIdx k core)).all fun r => decide (r < since ∨ dl < r)
      then (s.complete core ctx d 3).wires else s
    | _ => s)

/-! ### Words of another package's scratch -/

/-- Another package refuses a WAIT's, BAR's or BART's word: its core is retired there, which is an access fault (08 R89). -/
def State.podFail (s : State) (n i : Nat) : State :=
  match (s.ctx n i).run with
  | .waiting (.word a loc _ _) => if isRemote loc then s.trap n i ⟨3, 0, a, (s.ctx n i).pc, false, false, 0⟩ else s
  | .waiting (.bar a loc _ _ _ _) => if isRemote loc then s.trap n i ⟨3, 2, a, (s.ctx n i).pc, false, false, 0⟩ else s
  | _ => s

/-- Another package answers a thread that waits on a word of its scratch: the value that WAIT reads, or BAR's and BART's status; none
where the word is poisoned (02 R33, R34, 13 R184, 14 R197). A status 0 is a release, which acquires. -/
def State.podWake (s : State) (n i : Nat) (v : Option Word) : State :=
  match (s.ctx n i).run with
  | .waiting (.word a loc x d) =>
    if isRemote loc then match v with
      | none => s.trap n i ⟨5, 0, a, (s.ctx n i).pc, false, false, 0⟩
      | some w => if w = x then s else s.complete n i d w
    else s
  | .waiting (.bar a loc _ d dl _) =>
    if isRemote loc then match v with
      | none => s.trap n i ⟨5, 2, a, (s.ctx n i).pc, false, false, 0⟩
      | some w =>
        if s.pastTime dl then s.complete n i d 3
        else if w = 0 then (s.l1Clear n).complete n i d 0
        else if w = 1 ∨ w = 2 then s.complete n i d w
        else s
    else s
  | _ => s

end Sys2Proof.Machine
end

