-- ==== Sys2Proof/Machine/System.lean ====
section
/-! DEFINITION. TRAP, ERET, HALT, TLBW, TLBI and the CSR instructions with the CSR map (14 R200 to R208, 13 R180, R183). -/

namespace Sys2Proof.Machine

def execTrap (a : BitVec 5) (s : State) : Out :=
  s.plain (.next (s.trapMe 6 0 (s.me.rx a)))

def execEret (s : State) : Out :=
  s.plain (.next (s.putMe s.me.eret))

/-- HALT waits as EXIT does, stops its context in place and enters it in the debug log with KIND 16 (14 R202). -/
def execHalt (s : State) : Out :=
  s.plain (
    let n := s.cur.core
    let i := s.cur.ctx
    let t := s.me
    if s.quiet n i then
      let s := s.putMe { t with run := .stopped, stallAt := none }
      .next { s with dbgLog := s.dbgLog.push ⟨t.pc, s.clock, t.lid, (s.coordOf n (groupOf i)).setWidth 17, BitVec.ofNat 7 i, 16⟩ }
    else .next s.stall)

/-- TLBW and TLBI exist on translation cores alone, and name a target of their chiplet (14 R203). The illegal-instruction checks, `bad`
among them, come first (13 R181). -/
def State.withTarget (s : State) (d : BitVec 5) (bad : Bool) (k : Nat → Out) : Out :=
  s.plain (
    let w := s.me.rx d
    if isTrans s.cur.core = false ∨ bad = true then .next s.illegal
    else if bits w 11 6 ≠ s.pkg.pkgnum.toNat ∨ chipletOf (coordCore w) ≠ s.cur.core - 512 ∨ s.active (coordCore w) = false then
      .next (s.trapMe 3 1 w)
    else k (coordCore w))

def execTlbw (d a b : BitVec 5) (s : State) : Out :=
  s.withTarget d (TlbEntry.mk (s.me.rx a) (s.me.rx b)).malformed fun n =>
    let e : TlbEntry := ⟨s.me.rx a, s.me.rx b⟩
    let s := (s.tlbWrite n e).retryMisses n e
    s.finish s.me

/-- The entries that TLBI removes: by address, by space, or all (14 R203). -/
def tlbiHits (mode : Nat) (space : BitVec 12) (va : Word) (e : TlbEntry) : Bool :=
  match mode with
  | 0 => e.hit space va
  | 1 => decide (bits e.te0 0 12 = space.toNat)
  | _ => true

/-- Is an access of the core that an entry translated still on its way, the stores that a stalled instruction has left among them? -/
def Core.uses (c : Core) (e : TlbEntry) : Bool :=
  (c.storeQ.any fun q => e.hit (c.ctx q.ctx).space q.acc.va) ||
  (c.ctxs.any fun t => match t.2.todo with
    | some q => q.2.any fun r => e.hit t.2.space r.1.va
    | none => false) ||
  c.ctxs.any fun t => t.2.windows.any fun w => w.res.isNone && (match w.pend with
    | .load a _ _ _ => e.hit t.2.space a.va
    | .vec els _ => els.any fun q => e.hit t.2.space q.acc.va
    | .atomic a _ _ _ _ _ => e.hit t.2.space a.va
    | .bkstat va _ _ => e.hit t.2.space va
    | .none | .group _ _ | .message _ => false)

/-- May a command that a core has pushed still access a page that an entry translated (26 R332)? A BKLOAD's engine address is its W1. -/
def BankCmd.uses (c : BankCmd) (n : Nat) (e : TlbEntry) : Bool :=
  decide (c.core = n) && c.valid && (((c.load || decide (bits c.w0 32 32 ≠ 0)) && e.hit c.space c.w1) ||
    (decide (bits c.w0 0 32 ≠ 0) && e.hit c.space c.w2))

/-- Does a command on its way, in an engine's FIFO, or running use an entry of a core? -/
def State.bankUses (s : State) (n : Nat) (e : TlbEntry) : Bool :=
  (s.bankCmds ++ s.engines.flatMap fun g => g.2.fifo ++ g.2.run.toList.map BankRun.cmd).any fun c => c.uses n e

/-- TLBI (14 R203). 13 R378 gives KIND 1 to an access fault of the target; the access fault of MODE 3 takes it too (DESIGN CHOICE, log 89). -/
def execTlbi (d a b : BitVec 5) (s : State) : Out :=
  s.withTarget d false fun n =>
    let w := s.me.rx b
    let mode := bits w 12 2
    let space : BitVec 12 := w.extractLsb' 0 12
    let c := s.core n
    if mode = 3 then .next (s.trapMe 3 1 w)
    else if c.tlb.any fun e => tlbiHits mode space (s.me.rx a) e && (c.uses e || s.bankUses n e) then .next s.stall
    else
      let s := s.setCore n { c with tlb := c.tlb.filter fun e => !tlbiHits mode space (s.me.rx a) e }
      s.finish s.me

/-! ### CSRs -/

/-- tstat (14 R207). -/
def Ctx.tstat (t : Ctx) : Word :=
  BitVec.ofNat 64 (t.space.toNat * 2 ^ 16 + t.inh.toNat * 2 ^ 15 + t.pp.toNat * 2 ^ 14 + t.scnt.toNat * 2 ^ 8 + t.cls.toNat)

/-- tagcfg (08 R117). -/
def Core.tagcfg (c : Core) : Word :=
  BitVec.ofNat 64 (c.tagEn.toNat * 2 ^ 31 + c.tagSize.toNat * 2 ^ 24 + c.tagSets.toNat * 2 ^ 20 + c.tagBase.toNat * 2 ^ 8)

/-- A tagcfg write: ignored whole where it breaks 08 R117, else it invalidates every entry. -/
def Core.putTagcfg (c : Core) (v : Word) : Core :=
  let size := bits v 24 4
  let sets := bits v 20 4
  let base := bits v 8 12
  if size ≤ 6 ∧ sets ≤ 8 ∧ base % 2 ^ size = 0 ∧ base * 256 + 4 * 2 ^ sets * (256 * 2 ^ size) ≤ 0xFC000 then
    { c with tagEn := v.getLsbD 31, tagSize := BitVec.ofNat 4 size, tagSets := BitVec.ofNat 4 sets, tagBase := BitVec.ofNat 12 base,
             tags := [], tagLru := [] }
  else c

/-- TYP and WORST of a level (04 R44). -/
def scopeTyp (l : Nat) : Nat := [2, 6, 14, 30, 90, 260, 1800, 2400].getD l 0
def scopeWorst (l : Nat) : Nat := [4, 24, 60, 140, 1400, 2800, 8400, 9800].getD l 0

/-- The instance id of a core at a level, lane group 0 (04 R39). -/
def State.scopeInst (s : State) (l n : Nat) : Nat :=
  let p := s.pkg.pkgnum.toNat
  match l with
  | 0 => (p * 512 + n) * 4
  | 1 => p * 512 + n
  | 2 => p * 16 + chipletOf n * 2 + coreX n % 2
  | 3 => p * 8 + chipletOf n
  | 4 => p * 2 + baseOf n
  | 5 => p
  | _ => 0

/-- COUNT: the instances of a level in the pod that hold an active core, 1 for levels 6 and 7 (04 R43): those of this package, and, for the
other packages, what firmware found at boot (log 20). -/
def State.scopeCount (s : State) (l : Nat) : Nat :=
  let act := (List.range 512).filter s.active
  let uniq := fun (f : Nat → Nat) (k : Nat) => ((List.range k).filter fun j => act.any fun n => decide (f n = j)).length
  let far := s.pkg.podCounts.getD l 0
  match l with
  | 0 => 4 * act.length + far
  | 1 => act.length + far
  | 2 => uniq (fun n => chipletOf n * 2 + coreX n % 2) 16 + far
  | 3 => uniq chipletOf 8 + far
  | 4 => uniq baseOf 2 + far
  | 5 => (if act = [] then 0 else 1) + far
  | _ => 1

/-- scopecost of a level: zero until firmware fills it at boot (04 R43). -/
def State.scopecost (s : State) (l n : Nat) : Word :=
  if s.pkg.scopeBoot then
    BitVec.ofNat 64 (scopeWorst l * 2 ^ 48 + scopeTyp l * 2 ^ 36 + s.scopeCount l * 2 ^ 18 + s.scopeInst l n % 2 ^ 18)
  else 0

/-- The value of a CSR for the executing thread (14 R205). -/
def State.csr (s : State) (c : Nat) : Word :=
  let t := s.me
  let k := s.myCore
  match c with
  | 0x000 => t.tid.setWidth 64
  | 0x001 => t.lid.setWidth 64
  | 0x002 => s.coordOf s.cur.core (groupOf s.cur.ctx)
  | 0x003 => t.spawnno
  | 0x004 => t.rmode.setWidth 64
  | 0x005 => t.vflg0
  | 0x006 => t.vflg1
  | 0x007 => t.fmtp.setWidth 64
  | 0x008 => t.tstat
  | 0x009 => t.cvd.setWidth 64
  | 0x00A => t.cvf.setWidth 64
  | 0x00B => t.qtb.setWidth 64 <<< 8
  | 0x00C => t.qstr.setWidth 64
  | 0x00D => t.qbat.setWidth 64
  | 0x00E => t.mxprog
  | 0x040 => t.epc
  | 0x041 => t.ecause
  | 0x042 => t.etval
  | 0x043 => t.ehandler
  | 0x100 => k.flgsum.setWidth 64
  | 0x101 => s.clock
  | 0x102 => k.mxidle.setWidth 64
  | 0x103 => BitVec.ofNat 64 Config.mxwake
  | 0x104 => k.tagcfg
  | c => s.scopecost (c - 0x110) s.cur.core

/-- Is a cvd value legal (24 R307)? -/
def cvdOk (v : BitVec 11) : Bool :=
  let b := v.toNat / 16
  let d := v.toNat % 16
  decide (v = 0 ∨ (1 ≤ d ∧ d ≤ 8 ∧ 1 ≤ b ∧ d * b ≤ 64))

/-- mxprog written: reserved bits stay 0 and a STATUS from 5 to 15 keeps the old one (22 R295). -/
def mxprogPut (old new : Word) : Word :=
  let v := new &&& 0xFFFFBFFFFFFFFC00
  if bits new 60 4 < 5 then v else (v &&& 0x0FFFFFFFFFFFFFFF) ||| (old &&& 0xF000000000000000)

/-- Write a per-thread CSR under its own rule (14 R206). A CSR instruction that sets a bit of vflg0 or vflg1 leaves flgsum as it is: whether
it counts as a context that sets the flag (06 R81) the spec does not say (DESIGN CHOICE, log 80). -/
def Ctx.putCsr (t : Ctx) (c : Nat) (v : Word) : Ctx :=
  match c with
  | 0x004 => if bits v 0 3 < 5 then { t with rmode := v.setWidth 3 } else t
  | 0x005 => { t with vflg0 := v &&& 0x1F1F1F1F1F1F1F1F }
  | 0x006 => { t with vflg1 := v &&& 0x1F1F1F1F1F1F1F1F }
  | 0x007 => { t with fmtp := v.setWidth 19 }
  | 0x008 => { t with pp := v.getLsbD 14 }
  | 0x009 => if cvdOk (v.setWidth 11) then { t with cvd := v.setWidth 11 } else t
  | 0x00A => { t with cvf := v.setWidth 8 }
  | 0x00B => { t with qtb := v.extractLsb' 8 13 }
  | 0x00C => if bits v 0 3 < 5 then { t with qstr := v.setWidth 3 } else t
  | 0x00D => { t with qbat := v.setWidth 16 }
  | 0x00E => { t with mxprog := mxprogPut t.mxprog v }
  | 0x040 => { t with epc := v &&& ~~~3 }
  | 0x041 => { t with ecause := v &&& 0xECFF }
  | 0x042 => { t with etval := v }
  | 0x043 => { t with ehandler := v &&& ~~~3 }
  | _ => t

/-- Write a per-core CSR; scopecost keeps its value (14 R206). -/
def Core.putCsr (k : Core) (c : Nat) (v : Word) : Core :=
  match c with
  | 0x100 => { k with flgsum := v.setWidth 5 }
  | 0x102 => { k with mxidle := v.setWidth 24 }
  | 0x104 => k.putTagcfg v
  | _ => k

/-- The value a CSR instruction gives: 0 writes, 1 sets, 2 clears (14 R204). -/
def csrNew (how : Nat) (old x : Word) : Word :=
  match how with
  | 0 => x
  | 1 => old ||| x
  | _ => old &&& ~~~x

/-- The value of a per-core CSR that may be written. -/
def Core.csrVal (k : Core) (c : Nat) : Word :=
  match c with
  | 0x100 => k.flgsum.setWidth 64
  | 0x102 => k.mxidle.setWidth 64
  | 0x104 => k.tagcfg
  | _ => 0

/-- One change of a per-core CSR. -/
def Core.change (k : Core) (h : CsrChange) : Core :=
  k.putCsr h.csr (csrNew h.how (k.csrVal h.csr) h.val)

/-- A cycle ends: a change of the excuse bit takes effect (15 R219); the changes of the core's CSRs are made in ascending lane-group order, the order of issue (14 R206), after the cycle's
tag operations (18 R259); then the cycle's flag raises count, so that a raise wins over a clear (06 R81). -/
def Core.endCycle (k : Core) : Core :=
  let k1 := k.csrDue.foldl Core.change k
  { k1 with
    flgsum := k1.flgsum ||| k.raiseDue, csrDue := [], raiseDue := 0, excuse := k.excuseDue.getD k.excuse, excuseDue := none }

/-- The first cycle ends: what was due in it takes effect, and an excuse bit that changes may complete a wire in the next (15 R219). -/
def State.endCycle (s : State) : State :=
  let s1 : State := { s with
    clock := s.clock + 1, cores := (s.cores.map fun e => (e.1, e.2.endCycle)).filter fun e => decide (e.2 ≠ Core.reset) }
  if s.cores.any fun e => e.2.excuseDue.isSome then s1.wires else s1

/-- n cycles pass. -/
def State.cycles (s : State) (n : Nat) : State :=
  if n = 0 then s else { s.endCycle with clock := s.clock + BitVec.ofNat 64 n }

/-- A CSR instruction changes a CSR: the executing thread's at once, its core's at the end of the cycle, where the value made from the one
read at issue stands (14 R204); the sets and clears of flgsum add up (06 R81). -/
def State.putCsr (s : State) (c how : Nat) (x : Word) : State :=
  if 0x100 ≤ c then
    let h : CsrChange := if c = 0x100 then ⟨c, how, x⟩ else ⟨c, 0, csrNew how (s.csr c) x⟩
    s.putCore { s.myCore with csrDue := s.myCore.csrDue ++ [h] }
  else s.putMe ((s.me.putCsr c (csrNew how (s.csr c) x)).mend (.csr (BitVec.ofNat 12 c)))

/-- A CSR instruction that writes: the old value goes to x[d] (14 R204). -/
def State.csrOp (s : State) (d a : BitVec 5) (c : BitVec 12) (how : Nat) : Out :=
  s.plain (
    let old := s.csr c.toNat
    let s := s.putCsr c.toNat how (s.me.rx a)
    s.finish (s.me.wx d old))

def execCsrr (d : BitVec 5) (c : BitVec 12) (s : State) : Out :=
  s.plain (s.finish (s.me.wx d (s.csr c.toNat)))

def execCsrw (d a : BitVec 5) (c : BitVec 12) (s : State) : Out := s.csrOp d a c 0
def execCsrs (d a : BitVec 5) (c : BitVec 12) (s : State) : Out := s.csrOp d a c 1
def execCsrc (d a : BitVec 5) (c : BitVec 12) (s : State) : Out := s.csrOp d a c 2

end Sys2Proof.Machine
end

