-- ==== Sys2Proof/Machine/Vector.lean ====
section
/-! DEFINITION. FMT and the vector instructions: VINT, VFLT, VXL, VCONV (06 R74 to R77, R85; 17 R223 to R241). -/

namespace Sys2Proof.Machine

/-- FMT writes the latch and sets the pending bit; after a pending FMT it is illegal (06 R76, R77). -/
def execFmt (a b c : BitVec 4) (r : BitVec 3) (sat : BitVec 1) (m : BitVec 3) (s : State) : Out :=
  s.plain (.next (s.putMe { s.me.next with latch := a ++ b ++ c ++ r ++ sat ++ m, latchOn := true }))

/-! ### Rows of the format table (17 R224) -/

/-- RM, SAT and SCM all zero. -/
def Pfx.bare (p : Pfx) : Bool :=
  decide (p.rm = 0 ∧ p.sat = false ∧ p.scm = 0)

/-- FA and FB are 0 or equal FC as filled in. -/
def Pfx.like (p : Pfx) (fc : Nat) : Bool :=
  decide ((p.fa = 0 ∨ p.fa = fc) ∧ (p.fb = 0 ∨ p.fb = fc))

/-- A code with its default lies in a list. -/
def inRow (c d : Nat) (l : List Nat) : Bool :=
  l.contains (codeOr c d)

def vintFmt (p : Pfx) : Bool := p.bare && inRow p.fc 4 [1, 2, 3, 4, 5, 14] && p.like (codeOr p.fc 4)
def vcmpFmt (p : Pfx) : Bool := p.bare && inRow p.fc 4 [4, 5, 14] && p.like (codeOr p.fc 4)
def vfltFmt (p : Pfx) : Bool := decide (p.scm = 0) && inRow p.fc 6 [6, 7, 8] && p.like (codeOr p.fc 6)
def vmoveFmt (p : Pfx) : Bool := p.bare && decide (p.fa = 0 ∧ p.fb = 0) && inRow p.fc 4 [4, 5, 6, 14]
def vbcastFmt (p : Pfx) : Bool := p.bare && decide (p.fa = 0 ∧ p.fb = 0) && inRow p.fc 4 [1, 2, 3, 4, 5, 6, 7, 8, 14]
def vredFmt (p : Pfx) : Bool := p.bare && decide (p.fa = 0 ∧ p.fb = 0) && inRow p.fc 4 [4, 5, 14]
def vredfFmt (p : Pfx) : Bool := decide (p.scm = 0 ∧ p.sat = false ∧ p.fa = 0 ∧ p.fb = 0) && inRow p.fc 6 [6]
def vdot4Fmt (p : Pfx) : Bool :=
  p.bare && inRow p.fa 1 [1, 2, 11] && inRow p.fb 1 (if p.fa = 11 then [1] else [1, 2]) && inRow p.fc 4 [4]
def vfdotFmt (p : Pfx) : Bool :=
  decide (p.scm = 0 ∧ p.sat = false) && inRow p.fa 7 [7] && inRow p.fb 7 [7] && inRow p.fc 6 [6]

/-- The codes a conversion may name. -/
def convCodes : List Nat := [1, 2, 3, 4, 5, 6, 7, 8, 9, 10, 11, 12, 14]

def vcvtFmt (p : Pfx) : Bool := decide (p.scm = 0 ∧ p.fb = 0) && inRow p.fa 6 convCodes && inRow p.fc 4 convCodes
def vpackFmt (p : Pfx) : Bool :=
  decide (p.scm = 0 ∧ p.fb = 0) && inRow p.fa 6 convCodes && inRow p.fc 7 convCodes &&
    decide (2 * fmtWidth (codeOr p.fc 7) = fmtWidth (codeOr p.fa 6))
def vunpkFmt (p : Pfx) : Bool :=
  decide (p.scm = 0 ∧ p.fb = 0) && inRow p.fa 7 convCodes && inRow p.fc 6 convCodes &&
    decide (fmtWidth (codeOr p.fc 6) = 2 * fmtWidth (codeOr p.fa 7))

/-! ### Elementwise operations -/

/-- Write each listed element of a vector by a function that may raise flags in the element's lane. -/
def mapEls (w : Nat) (els : List Nat) (old : Vec) (f : Nat → Nat × Flags5) : Vec × List (Nat × Flags5) :=
  els.foldl (fun r i => let x := f i; (elPut r.1 w i x.1, (laneOf w i, x.2) :: r.2)) (old, [])

/-- The float format of a code. -/
def floatOf (c : Nat) : FFmt :=
  match c with
  | 7 => bf16
  | 8 => fp16
  | _ => fp32

/-- Codes whose elements are unsigned (17 R230). -/
def unsignedCode (c : Nat) : Bool :=
  decide (c = 2 ∨ c = 14)

/-- An integer operation on the active elements: width, signedness, a, b. -/
def State.vint (s : State) (d a b : BitVec 5) (k : BitVec 3) (f : Nat → Bool → Nat → Nat → Nat) : Out :=
  s.accepts vintFmt fun p =>
    let c := codeOr p.fc 4
    let w := fmtWidth c
    let t := s.me
    let r := mapEls w (activeEls w (t.rk k)) (t.rv d) fun i =>
      (f w (unsignedCode c) (elGet (t.rv a) w i) (elGet (t.rv b) w i), 0)
    s.finish (t.wv d r.1)

/-- Signed reading of a w-bit pattern. -/
def sg (w x : Nat) : Int := intOf w true x

def execVadd (d a b : BitVec 5) (_q : BitVec 1) (k : BitVec 3) (s : State) : Out := s.vint d a b k fun _ _ x y => x + y
def execVsub (d a b : BitVec 5) (_q : BitVec 1) (k : BitVec 3) (s : State) : Out := s.vint d a b k fun w _ x y => x + 2 ^ w - y
def execVmul (d a b : BitVec 5) (_q : BitVec 1) (k : BitVec 3) (s : State) : Out := s.vint d a b k fun _ _ x y => x * y
def execVmulh (d a b : BitVec 5) (_q : BitVec 1) (k : BitVec 3) (s : State) : Out :=
  s.vint d a b k fun w u x y => intBits w (intOf w (!u) x * intOf w (!u) y / 2 ^ w)
def execVadds (d a b : BitVec 5) (_q : BitVec 1) (k : BitVec 3) (s : State) : Out :=
  s.vint d a b k fun w u x y => intBits w (intClamp w (!u) (intOf w (!u) x + intOf w (!u) y))
def execVsubs (d a b : BitVec 5) (_q : BitVec 1) (k : BitVec 3) (s : State) : Out :=
  s.vint d a b k fun w u x y => intBits w (intClamp w (!u) (intOf w (!u) x - intOf w (!u) y))
def execVand (d a b : BitVec 5) (_q : BitVec 1) (k : BitVec 3) (s : State) : Out := s.vint d a b k fun _ _ x y => x &&& y
def execVor (d a b : BitVec 5) (_q : BitVec 1) (k : BitVec 3) (s : State) : Out := s.vint d a b k fun _ _ x y => x ||| y
def execVxor (d a b : BitVec 5) (_q : BitVec 1) (k : BitVec 3) (s : State) : Out := s.vint d a b k fun _ _ x y => x ^^^ y
def execVsll (d a b : BitVec 5) (_q : BitVec 1) (k : BitVec 3) (s : State) : Out := s.vint d a b k fun w _ x y => x * 2 ^ (y % w)
def execVsrl (d a b : BitVec 5) (_q : BitVec 1) (k : BitVec 3) (s : State) : Out := s.vint d a b k fun w _ x y => x / 2 ^ (y % w)
def execVsra (d a b : BitVec 5) (_q : BitVec 1) (k : BitVec 3) (s : State) : Out :=
  s.vint d a b k fun w _ x y => intBits w (sg w x / 2 ^ (y % w))
def execVmin (d a b : BitVec 5) (_q : BitVec 1) (k : BitVec 3) (s : State) : Out := s.vint d a b k fun w _ x y => if sg w y < sg w x then y else x
def execVmax (d a b : BitVec 5) (_q : BitVec 1) (k : BitVec 3) (s : State) : Out := s.vint d a b k fun w _ x y => if sg w x < sg w y then y else x
def execVminu (d a b : BitVec 5) (_q : BitVec 1) (k : BitVec 3) (s : State) : Out := s.vint d a b k fun _ _ x y => if y < x then y else x
def execVmaxu (d a b : BitVec 5) (_q : BitVec 1) (k : BitVec 3) (s : State) : Out := s.vint d a b k fun _ _ x y => if x < y then y else x

/-- VSEL: the predicate selects, and every element is written (17 R231). -/
def execVsel (d a b : BitVec 5) (_q : BitVec 1) (k : BitVec 3) (s : State) : Out :=
  s.accepts vintFmt fun p =>
    let w := fmtWidth (codeOr p.fc 4)
    let t := s.me
    let r := mapEls w (List.range (512 / w)) 0 fun i =>
      (elGet (if (t.rk k).getLsbD (laneOf w i) then t.rv a else t.rv b) w i, 0)
    s.finish (t.wv d r.1)

/-- The predicate of a comparison (17 R231): a lane is 1 when it is active and every element it governs compares true; a 64-bit element
gives both its lanes. -/
def cmpMask (w : Nat) (m : Mask) (f : Nat → Bool) : Mask :=
  (List.range 16).foldl (fun r l =>
    let g := if w = 64 then l / 2 * 2 else l
    let ok := m.getLsbD g && (if w = 64 then f (l / 2) else (List.range (32 / w)).all fun j => f (l * (32 / w) + j))
    if ok then r ||| (1 <<< l) else r) 0

/-- An integer comparison. -/
def State.vcmp (s : State) (d : BitVec 3) (a b : BitVec 5) (k : BitVec 3) (f : Nat → Nat → Nat → Bool) : Out :=
  s.accepts vcmpFmt fun p =>
    let w := fmtWidth (codeOr p.fc 4)
    let t := s.me
    s.finish (t.wk d (cmpMask w (t.rk k) fun i => f w (elGet (t.rv a) w i) (elGet (t.rv b) w i)))

def execVcmpEq (d : BitVec 3) (a b : BitVec 5) (_q : BitVec 1) (k : BitVec 3) (s : State) : Out := s.vcmp d a b k fun _ x y => decide (x = y)
def execVcmpNe (d : BitVec 3) (a b : BitVec 5) (_q : BitVec 1) (k : BitVec 3) (s : State) : Out := s.vcmp d a b k fun _ x y => decide (x ≠ y)
def execVcmpLt (d : BitVec 3) (a b : BitVec 5) (_q : BitVec 1) (k : BitVec 3) (s : State) : Out := s.vcmp d a b k fun w x y => decide (sg w x < sg w y)
def execVcmpLe (d : BitVec 3) (a b : BitVec 5) (_q : BitVec 1) (k : BitVec 3) (s : State) : Out := s.vcmp d a b k fun w x y => decide (sg w x ≤ sg w y)
def execVcmpLtu (d : BitVec 3) (a b : BitVec 5) (_q : BitVec 1) (k : BitVec 3) (s : State) : Out := s.vcmp d a b k fun _ x y => decide (x < y)
def execVcmpLeu (d : BitVec 3) (a b : BitVec 5) (_q : BitVec 1) (k : BitVec 3) (s : State) : Out := s.vcmp d a b k fun _ x y => decide (x ≤ y)

/-- A floating-point operation on the active elements: format, mode, SAT, a, b, old d. -/
def State.vflt (s : State) (d a b : BitVec 5) (q : BitVec 1) (k : BitVec 3) (f : FFmt → Mode → Bool → Nat → Nat → Nat → Nat × Flags5) : Out :=
  s.accepts vfltFmt fun p =>
    let c := codeOr p.fc 6
    let w := fmtWidth c
    let t := s.me
    let r := mapEls w (activeEls w (t.rk k)) (t.rv d) fun i =>
      f (floatOf c) (t.mode p) p.sat (elGet (t.rv a) w i) (elGet (t.rv b) w i) (elGet (t.rv d) w i)
    s.finishFlags (t.wv d r.1) q r.2

/-- The sign changed, a NaN made canonical, no flag (17 R233). -/
def signOp (f : FFmt) (x : Nat) (abs : Bool) : Nat :=
  if (f.decode x).isNan then f.nan
  else if abs then x % 2 ^ (f.eb + f.fb) else (x + 2 ^ (f.eb + f.fb)) % 2 ^ (f.eb + f.fb + 1)

def execVfadd (d a b : BitVec 5) (q : BitVec 1) (k : BitVec 3) (s : State) : Out := s.vflt d a b q k fun f m sat x y _ => fadd f m sat x y
def execVfsub (d a b : BitVec 5) (q : BitVec 1) (k : BitVec 3) (s : State) : Out := s.vflt d a b q k fun f m sat x y _ => fsub f m sat x y
def execVfmul (d a b : BitVec 5) (q : BitVec 1) (k : BitVec 3) (s : State) : Out := s.vflt d a b q k fun f m sat x y _ => fmul f m sat x y
def execVfma (d a b : BitVec 5) (q : BitVec 1) (k : BitVec 3) (s : State) : Out := s.vflt d a b q k fun f m sat x y z => fma f m sat x y z
def execVfms (d a b : BitVec 5) (q : BitVec 1) (k : BitVec 3) (s : State) : Out := s.vflt d a b q k fun f m sat x y z => fms f m sat x y z
def execVfdiv (d a b : BitVec 5) (q : BitVec 1) (k : BitVec 3) (s : State) : Out := s.vflt d a b q k fun f m sat x y _ => fdiv f m sat x y
def execVfsqrt (d a : BitVec 5) (q : BitVec 1) (k : BitVec 3) (s : State) : Out := s.vflt d a a q k fun f m sat x _ _ => fsqrt f m sat x
def execVfmin (d a b : BitVec 5) (q : BitVec 1) (k : BitVec 3) (s : State) : Out := s.vflt d a b q k fun f _ _ x y _ => fminmax f false x y
def execVfmax (d a b : BitVec 5) (q : BitVec 1) (k : BitVec 3) (s : State) : Out := s.vflt d a b q k fun f _ _ x y _ => fminmax f true x y
def execVfabs (d a : BitVec 5) (q : BitVec 1) (k : BitVec 3) (s : State) : Out := s.vflt d a a q k fun f _ _ x _ _ => (signOp f x true, 0)
def execVfneg (d a : BitVec 5) (q : BitVec 1) (k : BitVec 3) (s : State) : Out := s.vflt d a a q k fun f _ _ x _ _ => (signOp f x false, 0)

/-- A floating-point comparison; its flags go to the lanes of the active elements (17 R231, R233). -/
def State.vfcmp (s : State) (d : BitVec 3) (a b : BitVec 5) (q : BitVec 1) (k : BitVec 3) (cc : Nat) : Out :=
  s.accepts vfltFmt fun p =>
    let c := codeOr p.fc 6
    let w := fmtWidth c
    let t := s.me
    let r := fun i => fcmp (floatOf c) cc (elGet (t.rv a) w i) (elGet (t.rv b) w i)
    s.finishFlags (t.wk d (cmpMask w (t.rk k) fun i => (r i).1)) q ((activeEls w (t.rk k)).map fun i => (laneOf w i, (r i).2))

def execVfcmpEq (d : BitVec 3) (a b : BitVec 5) (q : BitVec 1) (k : BitVec 3) (s : State) : Out := s.vfcmp d a b q k 0
def execVfcmpNe (d : BitVec 3) (a b : BitVec 5) (q : BitVec 1) (k : BitVec 3) (s : State) : Out := s.vfcmp d a b q k 1
def execVfcmpLt (d : BitVec 3) (a b : BitVec 5) (q : BitVec 1) (k : BitVec 3) (s : State) : Out := s.vfcmp d a b q k 2
def execVfcmpLe (d : BitVec 3) (a b : BitVec 5) (q : BitVec 1) (k : BitVec 3) (s : State) : Out := s.vfcmp d a b q k 3
def execVfcmpUn (d : BitVec 3) (a b : BitVec 5) (q : BitVec 1) (k : BitVec 3) (s : State) : Out := s.vfcmp d a b q k 4

/-! ### Element moves, sorting (17 R235, R238) -/

def execVperm (d a b : BitVec 5) (_q : BitVec 1) (k : BitVec 3) (s : State) : Out :=
  s.accepts vmoveFmt fun p =>
    let w := fmtWidth (codeOr p.fc 4)
    let t := s.me
    let r := mapEls w (activeEls w (t.rk k)) (t.rv d) fun i => (elGet (t.rv a) w (elGet (t.rv b) w i % (512 / w)), 0)
    s.finish (t.wv d r.1)

def execVbcast (d a : BitVec 5) (_q : BitVec 1) (k : BitVec 3) (s : State) : Out :=
  s.accepts vbcastFmt fun p =>
    let w := fmtWidth (codeOr p.fc 4)
    let t := s.me
    let r := mapEls w (activeEls w (t.rk k)) (t.rv d) fun _ => ((t.rx a).toNat % 2 ^ w, 0)
    s.finish (t.wv d r.1)

/-- An element of code c as an x value: sign-extended for INT32, else zero-extended or whole. -/
def extendEl (c w x : Nat) : Word :=
  if c = 4 then sextNat x w else BitVec.ofNat 64 x

def execVextr (d a b : BitVec 5) (_q : BitVec 1) (s : State) : Out :=
  s.accepts vmoveFmt fun p =>
    let c := codeOr p.fc 4
    let w := fmtWidth c
    let t := s.me
    s.finish (t.wx d (extendEl c w (elGet (t.rv a) w ((t.rx b).toNat % (512 / w)))))

def execVinsr (d a b : BitVec 5) (_q : BitVec 1) (s : State) : Out :=
  s.accepts vmoveFmt fun p =>
    let w := fmtWidth (codeOr p.fc 4)
    let t := s.me
    s.finish (t.wv d (elPut (t.rv d) w ((t.rx b).toNat % (512 / w)) ((t.rx a).toNat)))

/-- Elements from 0 on, the rest filled. -/
def packEls (w : Nat) (xs : List Nat) (fill : Nat) : Vec :=
  (mapEls w (List.range (512 / w)) 0 fun i => (xs.getD i fill, 0)).1

/-- Insert into an ascending list. -/
def insertUp (x : Nat) (l : List Nat) : List Nat :=
  match l with
  | [] => [x]
  | y :: t => if x ≤ y then x :: y :: t else y :: insertUp x t

/-- Sort in ascending order. -/
def sortUp (l : List Nat) : List Nat :=
  l.foldr insertUp []

def execVsort (d a : BitVec 5) (_q : BitVec 1) (k : BitVec 3) (s : State) : Out :=
  s.accepts vmoveFmt fun p =>
    let w := fmtWidth (codeOr p.fc 4)
    let t := s.me
    s.finish (t.wv d (packEls w (sortUp ((activeEls w (t.rk k)).map fun i => elGet (t.rv a) w i)) (2 ^ w - 1)))

def execVcompr (d a : BitVec 5) (_q : BitVec 1) (k : BitVec 3) (s : State) : Out :=
  s.accepts vmoveFmt fun p =>
    let w := fmtWidth (codeOr p.fc 4)
    let t := s.me
    s.finish (t.wv d (packEls w ((activeEls w (t.rk k)).map fun i => elGet (t.rv a) w i) 0))

/-! ### Dot products (17 R239) -/

/-- The number format of a code that names one. -/
def numFmt (c : Nat) : NumFmt :=
  (fmtOf c).getD (.int 8 true)

def execVdot4 (d a b : BitVec 5) (_q : BitVec 1) (k : BitVec 3) (s : State) : Out :=
  s.accepts vdot4Fmt fun p =>
    let fa := numFmt (codeOr p.fa 1)
    let ub := decide (codeOr p.fb 1 = 1)
    let t := s.me
    let r := mapEls 32 (activeEls 32 (t.rk k)) (t.rv d) fun l =>
      let sum := (List.range 4).foldl (fun (acc : Int) j =>
        acc + intProd fa (elGet (t.rv a) 8 (4 * l + j)) (intOf 8 ub (elGet (t.rv b) 8 (4 * l + j)))) (sg 32 (elGet (t.rv d) 32 l))
      (intBits 32 sum, 0)
    s.finish (t.wv d r.1)

def execVfdot (d a b : BitVec 5) (q : BitVec 1) (k : BitVec 3) (s : State) : Out :=
  s.accepts vfdotFmt fun p =>
    let t := s.me
    let r := mapEls 32 (activeEls 32 (t.rk k)) (t.rv d) fun l =>
      kGroup (t.mode p) (elGet (t.rv d) 32 l) ((List.range 2).map fun j =>
        (bf16.decode (elGet (t.rv a) 16 (2 * l + j)), bf16.decode (elGet (t.rv b) 16 (2 * l + j))))
    s.finishFlags (t.wv d r.1) q r.2

/-! ### Predicates (17 R240): they take no format -/

def execKand (d a b : BitVec 3) (_q : BitVec 1) (s : State) : Out := s.plain (s.finish (s.me.wk d (s.me.rk a &&& s.me.rk b)))
def execKor (d a b : BitVec 3) (_q : BitVec 1) (s : State) : Out := s.plain (s.finish (s.me.wk d (s.me.rk a ||| s.me.rk b)))
def execKxor (d a b : BitVec 3) (_q : BitVec 1) (s : State) : Out := s.plain (s.finish (s.me.wk d (s.me.rk a ^^^ s.me.rk b)))
def execKnot (d a : BitVec 3) (_q : BitVec 1) (s : State) : Out := s.plain (s.finish (s.me.wk d (~~~s.me.rk a)))

def execKlen (d : BitVec 3) (a : BitVec 5) (_q : BitVec 1) (s : State) : Out :=
  let c := (s.me.rx a).toInt
  let m : Nat := if c < 0 then 0 else if 16 < c then 16 else c.toNat
  s.plain (s.finish (s.me.wk d (BitVec.ofNat 16 (2 ^ m - 1))))

def execKpop (d : BitVec 5) (a : BitVec 3) (_q : BitVec 1) (s : State) : Out :=
  s.plain (s.finish (s.me.wx d (popc ((s.me.rk a).setWidth 64))))

/-! ### Reductions and scans (06 R85, 17 R236, R237) -/

/-- One level of the tree: pairs combine, a lone child passes on. -/
def pairUp (f : Nat → Nat → Nat × Flags5) (l : List (Option Nat)) : List (Option Nat) × Flags5 :=
  match l with
  | some x :: some y :: t => let r := pairUp f t; let z := f x y; (some z.1 :: r.1, z.2 ||| r.2)
  | some x :: none :: t => let r := pairUp f t; (some x :: r.1, r.2)
  | none :: y :: t => let r := pairUp f t; (y :: r.1, r.2)
  | [x] => ([x], 0)
  | [] => ([], 0)

/-- The whole tree of at most 2^n leaves. -/
def treeUp (f : Nat → Nat → Nat × Flags5) (n : Nat) (l : List (Option Nat)) : Option Nat × Flags5 :=
  match n with
  | 0 => (l.headD none, 0)
  | n + 1 => let p := pairUp f l; let r := treeUp f n p.1; (r.1, p.2 ||| r.2)

/-- The elements with the inactive ones absent. -/
def leaves (w : Nat) (m : Mask) (v : Vec) : List (Option Nat) :=
  (List.range (512 / w)).map fun i => if m.getLsbD (laneOf w i) then some (elGet v w i) else none

/-- An integer reduction; `e` is the result with no active element. -/
def State.vred (s : State) (d a : BitVec 5) (k : BitVec 3) (f : Nat → Nat → Nat → Nat) (e : Nat → Nat) : Out :=
  s.accepts vredFmt fun p =>
    let c := codeOr p.fc 4
    let w := fmtWidth c
    let t := s.me
    let r := treeUp (fun x y => (f w x y % 2 ^ w, 0)) 4 (leaves w (t.rk k) (t.rv a))
    s.finish (t.wx d (extendEl c w (r.1.getD (e w))))

def execVredAdd (d a : BitVec 5) (_q : BitVec 1) (k : BitVec 3) (s : State) : Out := s.vred d a k (fun _ x y => x + y) fun _ => 0
def execVredMin (d a : BitVec 5) (_q : BitVec 1) (k : BitVec 3) (s : State) : Out :=
  s.vred d a k (fun w x y => if sg w y < sg w x then y else x) fun w => 2 ^ (w - 1) - 1
def execVredMax (d a : BitVec 5) (_q : BitVec 1) (k : BitVec 3) (s : State) : Out :=
  s.vred d a k (fun w x y => if sg w x < sg w y then y else x) fun w => 2 ^ (w - 1)
def execVredMinu (d a : BitVec 5) (_q : BitVec 1) (k : BitVec 3) (s : State) : Out :=
  s.vred d a k (fun _ x y => if y < x then y else x) fun w => 2 ^ w - 1
def execVredMaxu (d a : BitVec 5) (_q : BitVec 1) (k : BitVec 3) (s : State) : Out :=
  s.vred d a k (fun _ x y => if x < y then y else x) fun _ => 0
def execVredAnd (d a : BitVec 5) (_q : BitVec 1) (k : BitVec 3) (s : State) : Out := s.vred d a k (fun _ x y => x &&& y) fun w => 2 ^ w - 1
def execVredOr (d a : BitVec 5) (_q : BitVec 1) (k : BitVec 3) (s : State) : Out := s.vred d a k (fun _ x y => x ||| y) fun _ => 0
def execVredXor (d a : BitVec 5) (_q : BitVec 1) (k : BitVec 3) (s : State) : Out := s.vred d a k (fun _ x y => x ^^^ y) fun _ => 0

/-- A floating-point reduction: every node's flags go to lane 0. -/
def State.vredf (s : State) (d a : BitVec 5) (q : BitVec 1) (k : BitVec 3) (f : Mode → Nat → Nat → Nat × Flags5) (e : Nat) : Out :=
  s.accepts vredfFmt fun p =>
    let t := s.me
    let r := treeUp (f (t.mode p)) 4 (leaves 32 (t.rk k) (t.rv a))
    s.finishFlags (t.wx d (BitVec.ofNat 64 (r.1.getD e))) q [(0, r.2)]

def execVredFadd (d a : BitVec 5) (q : BitVec 1) (k : BitVec 3) (s : State) : Out := s.vredf d a q k (fun m => fadd fp32 m false) 0
def execVredFmin (d a : BitVec 5) (q : BitVec 1) (k : BitVec 3) (s : State) : Out := s.vredf d a q k (fun _ => fminmax fp32 false) 0x7F800000
def execVredFmax (d a : BitVec 5) (q : BitVec 1) (k : BitVec 3) (s : State) : Out := s.vredf d a q k (fun _ => fminmax fp32 true) 0xFF800000

/-- One step of a scan: element i combines with element i - step, the left operand first; the flags name the element. -/
def scanStep (f : Nat → Nat → Nat × Flags5) (step : Nat) (l : List (Option Nat)) : List (Option Nat × Flags5) :=
  (List.range l.length).map fun i =>
    let y := l.getD i none
    if i < step then (y, 0)
    else match l.getD (i - step) none, y with
      | some x, some y => let z := f x y; (some z.1, z.2)
      | some x, none => (some x, 0)
      | none, y => (y, 0)

/-- The scan's steps in order, with the flags each element raised. -/
def scanAll (f : Nat → Nat → Nat × Flags5) (steps : List Nat) (l : List (Option Nat)) : List (Option Nat) × List (Nat × Flags5) :=
  match steps with
  | [] => (l, [])
  | n :: t =>
    let r := scanStep f n l
    let q := scanAll f t (r.map (·.1))
    (q.1, (r.mapIdx fun i e => (i, e.2)) ++ q.2)

/-- A scan at a width, in the rows of integers or of FP32; a combination raises its flags in the lane of its element (17 R237), and none in
an inactive lane (06 R80, log 21). -/
def State.vscan (s : State) (ok : Pfx → Bool) (dflt : Nat) (d a : BitVec 5) (q : BitVec 1) (k : BitVec 3)
    (f : Nat → Mode → Nat → Nat → Nat × Flags5) : Out :=
  s.accepts ok fun p =>
    let w := fmtWidth (codeOr p.fc dflt)
    let t := s.me
    let r := scanAll (f w (t.mode p)) (if w = 64 then [1, 2, 4] else [1, 2, 4, 8]) (leaves w (t.rk k) (t.rv a))
    let v := mapEls w (activeEls w (t.rk k)) (t.rv d) fun i => ((r.1.getD i none).getD 0, 0)
    s.finishFlags (t.wv d v.1) q ((r.2.filter fun e => (t.rk k).getLsbD (laneOf w e.1)).map fun e => (laneOf w e.1, e.2))

def execVscanAdd (d a : BitVec 5) (q : BitVec 1) (k : BitVec 3) (s : State) : Out :=
  s.vscan vredFmt 4 d a q k fun w _ x y => ((x + y) % 2 ^ w, 0)
def execVscanMin (d a : BitVec 5) (q : BitVec 1) (k : BitVec 3) (s : State) : Out :=
  s.vscan vredFmt 4 d a q k fun w _ x y => (if sg w y < sg w x then y else x, 0)
def execVscanMax (d a : BitVec 5) (q : BitVec 1) (k : BitVec 3) (s : State) : Out :=
  s.vscan vredFmt 4 d a q k fun w _ x y => (if sg w x < sg w y then y else x, 0)
def execVscanFadd (d a : BitVec 5) (q : BitVec 1) (k : BitVec 3) (s : State) : Out :=
  s.vscan vredfFmt 6 d a q k fun _ m x y => fadd fp32 m false x y

/-! ### Conversion (17 R241) -/

def execVcvt (d a : BitVec 5) (q : BitVec 1) (k : BitVec 3) (s : State) : Out :=
  s.accepts vcvtFmt fun p =>
    let ca := codeOr p.fa 6
    let cc := codeOr p.fc 4
    let wa := fmtWidth ca
    let wc := fmtWidth cc
    let w := max wa wc
    let t := s.me
    let els := activeEls w (t.rk k)
    let r := fun i => convert (numFmt ca) (numFmt cc) (t.mode p) p.sat (elGet (t.rv a) wa i)
    let v := (mapEls wc els (t.rv d) r).1
    let keep := BitVec.ofNat 512 (vecGet v 0 64 % 2 ^ (512 / w * wc))
    s.finishFlags (t.wv d keep) q (els.map fun i => (laneOf w i, (r i).2))

def execVpack (d a b : BitVec 5) (q : BitVec 1) (s : State) : Out :=
  s.accepts vpackFmt fun p =>
    let ca := codeOr p.fa 6
    let cc := codeOr p.fc 7
    let wa := fmtWidth ca
    let n := 512 / wa
    let t := s.me
    let r := fun i => convert (numFmt ca) (numFmt cc) (t.mode p) p.sat (elGet (if i < n then t.rv a else t.rv b) wa (i % n))
    let v := (mapEls (fmtWidth cc) (List.range (2 * n)) 0 r).1
    s.finishFlags (t.wv d v) q ((List.range (2 * n)).map fun i => (laneOf wa (i % n), (r i).2))

def execVunpk (d a b : BitVec 5) (q : BitVec 1) (s : State) : Out :=
  s.accepts vunpkFmt fun p =>
    let ca := codeOr p.fa 7
    let cc := codeOr p.fc 6
    let wc := fmtWidth cc
    let n := 512 / wc
    let t := s.me
    let h := bits (t.rx b) 0 1
    let r := mapEls wc (List.range n) 0 fun i => convert (numFmt ca) (numFmt cc) (t.mode p) p.sat (elGet (t.rv a) (fmtWidth ca) (h * n + i))
    s.finishFlags (t.wv d r.1) q r.2

end Sys2Proof.Machine
end

