-- ==== Sys2Proof/Machine/Copy.lean ====
section
/-! DEFINITION. The copy engines: CPY, a command's progress, its record and watermarks (18 R242 to R257, 23 R306), and the TAG
instructions (18 R258, R259; 08 R118). -/

namespace Sys2Proof.Machine

/-! ### Accesses of an engine of a core (08 R107, R119): who 64 + c is copy channel c, 80 the matrix load pipe -/

/-- What an engine's access gives: it waits, it fails with a cause, or a value. -/
inductive Eng (α : Type) where
  | wait
  | fail (cause : Nat)
  | ok (v : α)
  deriving DecidableEq, Repr

/-- Translate and check an engine's access. A miss waits for its walk; once the walk has found nothing the access fails as a translation
fault, whatever entry comes later (09 R119). A copy channel's failed miss stays until its command has ended. -/
def State.engLook (s : State) (n who : Nat) (space : BitVec 12) (va : Word) (kind size : Nat) : Eng Acc × State :=
  match (s.core n).misses.find? fun m => decide (m.ctx = who ∧ m.region = regionOf va ∧ m.space = space ∧ m.failed = true ∧ bits va 56 4 < 8) with
  | some m => (.fail 4, if who < 80 then s else s.dropMiss n m)
  | none => match s.resolve n space va kind size 1 false with
    | .ok a => (.ok a, s.touchTlb n space va)
    | .fault c => (.fail c, s)
    | .miss => (.wait, s.missFor n who space va kind false)

/-- The part of a range in its first line. -/
def firstPart (loc n : Nat) : Nat :=
  min n (64 - loc % 64)

/-- Read bytes at their homes, line by line; `fuel` is at least the number of lines. -/
def State.linesRead (s : State) (a : Acc) (loc n fuel : Nat) : (Nat × Bool) × State :=
  match fuel with
  | 0 => ((0, false), s)
  | f + 1 =>
    if n = 0 then ((0, false), s)
    else
      let k := firstPart loc n
      let r := s.homeRead a loc k
      let q := r.2.linesRead a (loc + k) (n - k) f
      ((r.1.1 + q.1.1 * 2 ^ (8 * k), r.1.2 || q.1.2), q.2)

/-- Read n bytes at their homes. -/
def State.spanRead (s : State) (a : Acc) (n : Nat) : (Nat × Bool) × State :=
  s.linesRead a a.loc n (n / 64 + 2)

/-- Write bytes at their homes across at most one line boundary. -/
def State.spanWrite (s : State) (a : Acc) (n w : Nat) : State :=
  let k := firstPart a.loc n
  let r := s.storeAt a a.loc k (w % 2 ^ (8 * k)) 2
  if k = n then r.2 else (r.2.storeAt a (a.loc + k) (n - k) (w / 2 ^ (8 * k)) 2).2

/-- The value of n bytes in the lines of a reply. -/
def replyBytes (ls : List (BitVec 512 × BitVec 8)) (off n : Nat) : Eng Nat :=
  if n = 0 then .ok 0
  else match ls with
    | [] => .wait
    | (d, p) :: t =>
      let k := firstPart off n
      if (⟨d, p, false, 0, 0⟩ : Line).bad off k then .fail 5
      else match replyBytes t 0 (n - k) with
        | .ok v => .ok (vecGet d off k + v * 2 ^ (8 * k))
        | e => e

/-- The oldest answer of another package to an engine: the lines of a read, nothing of a write or an add, or a refusal, which is an access
fault (08 R88, R89). -/
def State.engAnswer (s : State) : Eng (List (BitVec 512 × BitVec 8)) × State :=
  match s.pkg.podReplies with
  | [] => (.wait, s)
  | r :: t =>
    let s1 := { s with pkg := { s.pkg with podReplies := t } }
    match r with
    | .none => (.wait, s1)
    | .fault => (.fail 3, s1)
    | .data ls => (.ok ls, s1)

/-- Read for an engine of a core; a read that a turn table or a down host link loses is an access fault (15 R214, 28 R356). -/
def State.engRead (s : State) (n : Nat) (a : Acc) (k : Nat) : Eng Nat × State :=
  if s.misrouted (fromNode n) (homeNode a.loc) 0 then (.fail 3, s.logFate n (fromNode n) (homeNode a.loc) 0 0 a.va)
  else if isRemote a.loc then match s.engAnswer with
    | (.wait, s1) => (.wait, s1)
    | (.fail c, s1) => (.fail c, s1)
    | (.ok ls, s1) => (replyBytes ls (a.loc % 64) k, s1)
  else if isHost a.loc ∧ s.pkg.linkUp = false then (.fail 3, s)
  else
    let r := s.spanRead a k
    (if r.1.2 then .fail 5 else .ok r.1.1, r.2)

/-- Write for an engine of a core: another package acknowledges the write or refuses it; one that a down host link or a turn table loses
is logged and counts as written (28 R356, 15 R214). -/
def State.engWrite (s : State) (n : Nat) (lid : BitVec 32) (a : Acc) (w : Nat) : Eng Unit × State :=
  if s.misrouted (fromNode n) (homeNode a.loc) 1 then (.ok (), s.logFate n (fromNode n) (homeNode a.loc) 1 lid a.va)
  else if isRemote a.loc then match s.engAnswer with
    | (.wait, s1) => (.wait, s1)
    | (.fail c, s1) => (.fail c, s1)
    | (.ok _, s1) => (.ok (), s1)
  else if isHost a.loc ∧ s.pkg.linkUp = false then (.ok (), s.logErr 5 a.va lid (s.coordOf n 0) 0)
  else (.ok (), s.spanWrite a a.size w)

/-! ### Requests (18 R243, R244) -/

def CopyCmd.kind (c : CopyCmd) : Nat := bits c.w0 60 4
def CopyCmd.chan (c : CopyCmd) : Nat := bits c.w0 56 4
def CopyCmd.src (c : CopyCmd) : Nat := bits c.w0 52 4
def CopyCmd.dst (c : CopyCmd) : Nat := bits c.w0 48 4
def CopyCmd.clamp (c : CopyCmd) : Bool := c.w0.getLsbD 36
def CopyCmd.sat (c : CopyCmd) : Bool := c.w0.getLsbD 35
def CopyCmd.rm (c : CopyCmd) : BitVec 3 := c.w0.extractLsb' 32 3
def CopyCmd.len (c : CopyCmd) : Nat := bits c.w0 0 32
def CopyCmd.raw (c : CopyCmd) : Bool := decide (c.src = 0 ∧ c.dst = 0)
def CopyCmd.spitch (c : CopyCmd) : Nat := bits c.w3 40 24
def CopyCmd.dpitch (c : CopyCmd) : Nat := bits c.w3 16 24
/-- Bytes of a source row: ROW, or one row of LEN. -/
def CopyCmd.row (c : CopyCmd) : Nat := if bits c.w3 0 16 = 0 then c.len else bits c.w3 0 16
def CopyCmd.shift (c : CopyCmd) : Nat := bits c.w3 0 7
/-- Bytes of an accumulator: INT64 or FX128. -/
def CopyCmd.accSize (c : CopyCmd) : Nat := if bits c.w3 8 2 = 0 then 8 else 16
def CopyCmd.esize (c : CopyCmd) : Nat := bits c.w3 32 16
def CopyCmd.count (c : CopyCmd) : Nat := bits c.w3 0 32

/-- An element's size in bytes for alignment; an SS4 side counts as byte-aligned. -/
def elBytes (code : Nat) : Nat :=
  max 1 (fmtWidth code / 8)

/-- Is the conversion one that the kind may have? -/
def CopyCmd.convOk (c : CopyCmd) : Bool :=
  match c.kind with
  | 0 => c.raw || (convCodes.contains c.src && convCodes.contains c.dst)
  | 1 => convCodes.contains c.src && decide (c.dst = 0)
  | _ => c.raw

/-- The rules of R244 that depend on the kind. -/
def CopyCmd.kindOk (c : CopyCmd) : Bool :=
  let d := c.w1.toNat
  let e := c.w2.toNat
  match c.kind with
  | 0 =>
    let sb := if c.raw then 1 else elBytes c.src
    let db := if c.raw then 1 else elBytes c.dst
    decide (bits c.w3 0 16 % sb = 0 ∧ (c.len = 0 ∨ c.len % c.row = 0) ∧ c.len % sb = 0 ∧
      d % sb = 0 ∧ c.spitch % sb = 0 ∧ e % db = 0 ∧ c.dpitch % db = 0)
  | 1 => decide (bits c.w3 7 1 = 0 ∧ bits c.w3 10 54 = 0 ∧ c.shift ≤ 96 ∧ bits c.w3 8 2 < 2 ∧
      c.len % elBytes c.src = 0 ∧ d % elBytes c.src = 0 ∧ e % c.accSize = 0)
  | 2 => decide (c.w3 = 0 ∧ c.len % 8 = 0 ∧ e % 8 = 0)
  | _ => decide (bits c.w3 48 16 = 0 ∧ 8 ≤ c.esize ∧ c.esize ≤ 4096 ∧ c.esize % 8 = 0 ∧ c.len = c.count * c.esize ∧
      d % 8 = 0 ∧ e % 8 = 0)

/-- Is a request well formed (18 R244)? -/
def CopyCmd.ok (c : CopyCmd) : Bool :=
  decide (c.kind ≤ 4 ∧ bits c.w0 37 11 = 0 ∧ c.rm ≠ 6 ∧ c.rm ≠ 7) && c.convOk &&
  (!c.clamp || decide (c.kind = 1)) &&
  (!(c.raw || decide (c.kind = 1)) || (decide (c.rm = 0) && !c.sat)) &&
  c.kindOk

/-! ### The CPY instructions -/

def chanOf (w : Word) : Nat := bits w 0 4

/-- A core's copy channel. -/
def Core.chan (c : Core) (k : Nat) : Chan :=
  mget ⟨none, false, 0⟩ c.chans k

def Core.setChan (c : Core) (k : Nat) (h : Chan) : Core :=
  { c with chans := mset ⟨none, false, 0⟩ c.chans k h }

/-- May the executing thread push: 0 yes, 1 the FIFO is full, 2 it has 16 unpopped commands. -/
def State.pushState (s : State) : Nat :=
  if 16 ≤ s.myCore.copyFifo.length then 1 else if 16 ≤ s.me.copyQ.length then 2 else 0

/-- Accept the request in a register quad (18 R254). -/
def State.acceptCopy (s : State) (a : BitVec 3) : State :=
  let c := s.myCore
  let t := s.me
  let k := chanOf (t.rx (quad a 0) >>> 56)
  let r : CopyCmd := ⟨c.nextCmd, s.cur.ctx, t.gen, t.lid, t.seq, c.nextStore, t.space, t.rmode,
    t.rx (quad a 0), t.rx (quad a 1), t.rx (quad a 2), t.rx (quad a 3), (c.chan k).phase, false, 0, none, [], [], 0, false, none, []⟩
  (s.putCore { c with copyFifo := c.copyFifo ++ [r], nextCmd := c.nextCmd + 1 }).putMe
    { t with copyQ := t.copyQ ++ [⟨c.nextCmd, k, none, [], false⟩], seq := t.seq + 1 }

def execCopy (a : BitVec 3) (s : State) : Out :=
  s.plain (if s.pushState = 0 then let s := s.acceptCopy a; s.finish s.me else .next s.stall)

def execCopyt (d : BitVec 5) (a : BitVec 3) (s : State) : Out :=
  s.plain (
    let p := s.pushState
    let s := if p = 0 then s.acceptCopy a else s
    s.finish (s.me.wx d (BitVec.ofNat 64 p)))

/-- Has a channel a command in the FIFO or a record not yet popped? -/
def Core.chanBusy (c : Core) (k : Nat) : Bool :=
  (c.copyFifo.any fun r => decide (r.chan = k)) || c.ctxs.any fun t => t.2.copyQ.any fun r => decide (r.chan = k)

/-- Is a window descriptor valid for a channel (18 R255)? -/
def Core.windowOk (c : Core) (k : Nat) (w : Word) : Bool :=
  let base := bits w 0 21
  let size := bits w 32 21
  decide (bits w 21 11 = 0 ∧ bits w 53 11 = 0 ∧ base % 64 = 0 ∧ size % 64 = 0 ∧ 64 ≤ size ∧ base + size ≤ 0xFC000) &&
  c.chans.all fun e => decide (e.1 = k) || (match e.2.bound with
    | some b => !meets b.base b.size base size
    | none => true)

/-- A status with the channel's phase in bit 8. -/
def bindStatus (st : Nat) (ph : Bool) : Word :=
  BitVec.ofNat 64 (st + ph.toNat * 256)

def execCpbind (d a b : BitVec 5) (s : State) : Out :=
  s.plain (
    let c := s.myCore
    let t := s.me
    let k := chanOf (t.rx a)
    let w := t.rx b
    let h := c.chan k
    if c.windowOk k w = false then s.finish (t.wx d (bindStatus 2 h.phase))
    else if c.chanBusy k then s.finish (t.wx d (bindStatus 1 h.phase))
    else
      let s := s.putCore (c.setChan k { h with bound := some ⟨s.cur.ctx, t.gen, t.lid, bits w 0 21, bits w 32 21, []⟩, phase := !h.phase })
      s.finish (s.me.wx d (bindStatus 0 (!h.phase))))

def execCpunb (d a : BitVec 5) (s : State) : Out :=
  s.plain (
    let c := s.myCore
    let k := chanOf (s.me.rx a)
    if (c.chan k).bound = none then s.finish (s.me.wx d 2)
    else if c.chanBusy k then s.finish (s.me.wx d 1)
    else
      let s := s.putCore (c.setChan k { c.chan k with bound := none })
      s.finish (s.me.wx d 0))

/-- Invalidate the L1 lines that overlap a record's write ranges (04 R54). -/
def State.dropRanges (s : State) (r : RecSlot) : State :=
  let c := s.myCore
  s.putCore { c with l1 := if r.anyRange then [] else r.ranges.foldl (fun l e => l1Drop l e.1 e.2) c.l1 }

/-- CPPOP and BKPOP write the oldest record and acquire its command's writes; its FLAGS, from bit `f` up, go to lane 0 (18 R250, 26 R333,
R334). -/
def State.popRecord (s : State) (f : Nat) (d : BitVec 5) (r : RecSlot) (w : Word) (rest : Ctx → Ctx) : Out :=
  let s := (s.dropRanges r).raiseSum s.cur.core (w.extractLsb' f 5)
  s.finish (((rest s.me).raise 0 (w.extractLsb' f 5)).wx d w)

def execCppop (d : BitVec 5) (s : State) : Out :=
  s.plain (match s.me.copyQ with
    | [] => s.finish (s.me.wx d 0xF000000000000000)
    | r :: q => match r.record with
      | none => .next s.stall
      | some w => s.popRecord 40 d r w fun t => { t with copyQ := q })

/-- The state word of CPSTAT (18 R257). WM and BASE of a channel that is not bound, which the spec does not give, read 0 (DESIGN CHOICE,
log 91). -/
def Core.cpstat (c : Core) (k : Nat) : Word :=
  let h := c.chan k
  let inflt := (c.copyFifo.filter fun r => decide (r.chan = k)).length
  let unpop := (c.ctxs.map fun t => (t.2.copyQ.filter fun r => decide (r.chan = k) && r.record.isSome).length).sum
  BitVec.ofNat 64 (h.bound.isSome.toNat * 2 ^ 63 + h.phase.toNat * 2 ^ 62 + inflt * 2 ^ 53 + unpop * 2 ^ 42 +
    (match h.bound with
      | some b => b.wm * 2 ^ 21 + b.base
      | none => 0))

def execCpstat (d a : BitVec 5) (s : State) : Out :=
  s.plain (
    let w := s.me.rx a
    let c := s.myCore
    s.finish (s.me.wx d (if w.getLsbD 4 then (c.chan (chanOf w)).stopAddr else c.cpstat (chanOf w))))

/-! ### A command runs (18 R245 to R249) -/

/-- The first command of a channel in the FIFO. -/
def Core.headCmd (c : Core) (k : Nat) : Option CopyCmd :=
  c.copyFifo.find? fun r => decide (r.chan = k)

/-- Replace a command in the FIFO. -/
def State.putCmd (s : State) (n : Nat) (r : CopyCmd) : State :=
  let c := s.core n
  s.setCore n { c with copyFifo := c.copyFifo.map fun q => if q.id = r.id then r else q }

/-- The command ends at a failing piece. -/
def CopyCmd.stopAt (c : CopyCmd) (cause : Nat) (va : Word) : CopyCmd :=
  { c with stop := some (cause, va) }

/-- Add a run of bytes, joining it to a run that ends where it begins. -/
def addRun (l : List (Nat × Nat)) (at0 n : Nat) : List (Nat × Nat) :=
  match l with
  | [] => [(at0, n)]
  | (b, k) :: t => if b + k = at0 then (b, k + n) :: t else (b, k) :: addRun t at0 n

/-- A write of the channel inside its window is counted (18 R251). -/
def State.markWritten (s : State) (n k loc size : Nat) : State :=
  let c := s.core n
  let h := c.chan k
  match h.bound with
  | some b =>
    let lo := max (scratchOff loc) b.base
    let hi := min (scratchOff loc + size) (b.base + b.size)
    if isScratch loc && decide (scratchCore loc = n) && decide (lo < hi) then
      s.setCore n (c.setChan k { h with bound := some { b with written := addRun b.written (lo - b.base) (hi - lo) } })
    else s
  | none => s

/-- The kept translation of a piece that holds an address: pieces end at every 4 KiB granule (08 R105). -/
def CopyCmd.piece (c : CopyCmd) (role run : Nat) (va : Word) (size : Nat) : Option Acc :=
  (c.pieces.find? fun p => decide (p.role = role ∧ p.run = run ∧ p.acc.va.toNat / 4096 = va.toNat / 4096)).map fun p =>
    { p.acc with va := va, loc := p.acc.loc + va.toNat - p.acc.va.toNat, size := size }

/-- Keep a piece's translation, with the one before it in its role. -/
def CopyCmd.keep (c : CopyCmd) (role run : Nat) (a : Acc) : CopyCmd :=
  { c with pieces := ⟨role, run, a⟩ :: ((c.pieces.filter fun p => decide (p.role = role)).take 1 ++ c.pieces.filter fun p => decide (p.role ≠ role)) }

/-- Translate an address of a command, once for each piece: role 0 is the source, 1 the destination, 2 the list (18 R249, 08 R105). -/
def State.pieceLook (s : State) (n : Nat) (c : CopyCmd) (role run : Nat) (va : Word) (size : Nat) : Eng Acc × CopyCmd × State :=
  match c.piece role run va size with
  | some a => (.ok a, c, s)
  | none =>
    let r := s.engLook n (64 + c.chan) c.space va (if role = 1 then 1 else 0) size
    match r.1 with
    | .ok a => (.ok a, c.keep role run a, r.2)
    | e => (e, c, r.2)

/-- Go on once an access is translated; a failing one ends the command. -/
def State.onLook (s : State) (n : Nat) (c : CopyCmd) (role run : Nat) (va : Word) (size : Nat) (k : Acc → CopyCmd → State → State) : State :=
  match s.pieceLook n c role run va size with
  | (.wait, c, s) => s.putCmd n c
  | (.fail e, c, s) => s.putCmd n (c.stopAt e va)
  | (.ok a, c, s) => k a c s

/-- Go on once bytes are read; poison or a failure ends the command. -/
def State.onRead (s : State) (n : Nat) (c : CopyCmd) (a : Acc) (k : Nat → State → State) : State :=
  let r := s.engRead n a a.size
  match r.1 with
  | .wait => r.2.putCmd n c
  | .fail e => r.2.putCmd n (c.stopAt e a.va)
  | .ok v => k v r.2

/-- Go on once bytes of a command are written; a refusal ends the command. -/
def State.onWrite (s : State) (n : Nat) (c : CopyCmd) (a : Acc) (w : Nat) (k : State → State) : State :=
  let r := s.engWrite n c.lid a w
  match r.1 with
  | .wait => r.2.putCmd n c
  | .fail e => r.2.putCmd n (c.stopAt e a.va)
  | .ok _ => k r.2

/-- Read at most `cnt` aligned 8-byte words of the source from address `va`, each once: those read are kept until their unit is done, and
the last for the units to come, so that a command reads the old or the new value of each word (04 R53). Where the first word fails the
command ends at `at0`; where a later one fails, those before it are used, and the command ends when it comes to that word (18 R249). -/
def State.onWords (s : State) (n : Nat) (c : CopyCmd) (run : Nat) (at0 va : Word) (cnt : Nat) (got : List Nat)
    (k : List Nat → CopyCmd → State → State) : State :=
  match cnt with
  | 0 => k got c s
  | m + 1 => match (c.words.find? fun q => decide (q.1 = va)).map (·.2) with
    | some v => s.onWords n c run at0 (va + 8) m (got ++ [v]) k
    | none =>
      let fail := fun (e : Nat) (c : CopyCmd) (s : State) => if got = [] then s.putCmd n (c.stopAt e at0) else k got c s
      match s.pieceLook n c 0 run va 8 with
      | (.wait, c, s) => s.putCmd n c
      | (.fail e, c, s) => fail e c s
      | (.ok a, c, s) =>
        let q := s.engRead n a 8
        match q.1 with
        | .wait => q.2.putCmd n c
        | .fail e => fail e c q.2
        | .ok v => q.2.onWords n { c with words := (va, v) :: c.words } run at0 (va + 8) m (got ++ [v]) k

/-- A unit is done: of the words read, the last is kept. -/
def CopyCmd.unitDone (c : CopyCmd) : CopyCmd :=
  { c with words := c.words.take 1 }

/-- Words joined, lowest first. -/
def joinWords (l : List Nat) : Nat :=
  match l with
  | [] => 0
  | v :: t => v + 2 ^ 64 * joinWords t

/-- Read the source bits from bit `off` of address `va`, `nb` of them or as many as the source's words give: their number and value. -/
def State.onBits (s : State) (n : Nat) (c : CopyCmd) (run : Nat) (va : Word) (off nb : Nat) (k : Nat → Nat → CopyCmd → State → State) : State :=
  let lo := va.toNat % 8 * 8 + off
  s.onWords n c run va (va &&& ~~~7) ((lo + nb + 63) / 64) [] fun l c s => k (min nb (64 * l.length - lo)) (joinWords l / 2 ^ lo) c s

/-- The unit of a raw copy or list move: the bytes up to the next 8-byte word of the destination, written as one (04 R46); fewer only
where the source fails. `next` is the command with so many bytes done. The destination is looked up before the source is read: where both
sides of a unit fail, the spec does not say which is reported (DESIGN CHOICE, log 91). -/
def State.moveUnit (s : State) (n : Nat) (c : CopyCmd) (srun drun : Nat) (sva dva : Word) (size : Nat) (next : CopyCmd → Nat → CopyCmd) : State :=
  s.onLook n c 1 drun dva size fun da c s => s.onBits n c srun sva 0 (8 * size) fun nb v c s =>
    let k := nb / 8
    s.onWrite n c { da with size := k } (v % 2 ^ (8 * k)) fun s =>
      (s.markWritten n c.chan da.loc k).putCmd n { (next c k).unitDone with ranges := addRun c.ranges da.loc k }

/-- Kind 0, raw (18 R245). -/
def State.rawUnit (s : State) (n : Nat) (c : CopyCmd) : State :=
  let r := c.done / c.row
  let o := c.done % c.row
  let sva := c.w1 + BitVec.ofNat 64 (r * c.spitch + o)
  let dva := c.w2 + BitVec.ofNat 64 (r * c.dpitch + o)
  s.moveUnit n c r r sva dva (min (c.row - o) (8 - dva.toNat % 8)) fun c k => { c with done := c.done + k }

/-- Look up a list of destinations before any is written. -/
def State.onLooks (s : State) (n : Nat) (c : CopyCmd) (l : List (Word × Nat)) (k : List Acc → CopyCmd → State → State) : State :=
  match l with
  | [] => k [] c s
  | (va, size) :: t => s.onLook n c 1 0 va size fun a c s => s.onLooks n c t fun as c s => k (a :: as) c s

/-- Write `k` bits of `x` from bit `off` of the bytes at an access, which reach no further than an 8-byte word. A byte written in part is
merged at its home, in one write of its word, and leaves a poisoned word poisoned (18 R245, 13 R184); the first `m` bytes count as
written. -/
def State.putBits (s : State) (n : Nat) (c : CopyCmd) (a : Acc) (off k x m : Nat) (go : State → State) : State :=
  let part := decide (off ≠ 0 ∨ k % 8 ≠ 0)
  let r := if part && !isRemote a.loc then (s.spanRead a a.size).1 else (0, false)
  s.onWrite n c a (if part then r.1 % 2 ^ off + x * 2 ^ off + r.1 / 2 ^ (off + k) * 2 ^ (off + k) else x) fun s =>
    go ((if r.2 && decide (a.size = 8) then s.markPoison a.loc else s).markWritten n c.chan a.loc m)

/-- The first element of the next unit of a converting copy in its row: an SS4 source may stand at the high nibble of a byte, which `entry`
then says. -/
def CopyCmd.element (c : CopyCmd) : Nat :=
  c.done % c.row * 8 / fmtWidth c.src + (if c.entry.isSome then 1 else 0)

/-- How many of `k` elements a unit may write: where the last is the low nibble of an SS4 byte, the place of the high one must pass its
checks first, so that no element of a byte at DONE is written before a stop (18 R249). -/
def State.onHalf (s : State) (n : Nat) (c : CopyCmd) (half : Bool) (k run : Nat) (dva : Word) (size : Nat)
    (go : Nat → CopyCmd → State → State) : State :=
  if half then match s.pieceLook n c 1 run dva size with
    | (.wait, c, s) => s.putCmd n c
    | (.fail e, c, s) => if k ≤ 1 then s.putCmd n (c.stopAt e dva) else go (k - 1) c s
    | (.ok _, c, s) => go k c s
  else go k c s

/-- Kind 0 with a conversion: the elements up to the next 8-byte word of the destination or the end of the row (18 R245, 04 R46); the
destination is looked up first (log 91). -/
def State.convUnit (s : State) (n : Nat) (c : CopyCmd) : State :=
  let ws := fmtWidth c.src
  let wd := fmtWidth c.dst
  let r := c.done / c.row
  let e0 := c.element
  let sva := c.w1 + BitVec.ofNat 64 (r * c.spitch + e0 * ws / 8)
  let dva := c.w2 + BitVec.ofNat 64 (r * c.dpitch + e0 * wd / 8)
  let so := e0 * ws % 8
  let dof := e0 * wd % 8
  let k0 := min (c.row * 8 / ws - e0) ((64 - dva.toNat % 8 * 8 - dof) / wd)
  s.onLook n c 1 r dva 1 fun _ c s =>
  s.onHalf n c (decide ((e0 + k0) * ws % 8 ≠ 0 ∧ e0 + k0 < c.row * 8 / ws)) k0 r (c.w2 + BitVec.ofNat 64 (r * c.dpitch + (e0 + k0) * wd / 8))
    ((wd + 7) / 8) fun k0 c s =>
  s.onLook n c 1 r dva ((dof + k0 * wd + 7) / 8) fun da c s =>
  s.onBits n c r sva so (k0 * ws) fun nb v c s =>
    let k := nb / ws
    let da := { da with size := (dof + k * wd + 7) / 8 }
    let xs := (List.range k).map fun j =>
      convert (numFmt c.src) (numFmt c.dst) (modeRM c.rm c.rmode) c.sat (v / 2 ^ (ws * j) % 2 ^ ws)
    let x := xs.foldr (fun q t => q.1 + t * 2 ^ wd) 0
    let rowEnds := decide (c.row * 8 / ws ≤ e0 + k)
    s.putBits n c da dof (k * wd) x (if (dof + k * wd) % 8 ≠ 0 ∧ rowEnds = false then da.size - 1 else da.size) fun s => s.putCmd n { c.unitDone with
      done := r * c.row + (e0 + k) * ws / 8, entry := if (e0 + k) * ws % 8 = 0 then none else some 0,
      flags := xs.foldl (fun f x => f ||| x.2) c.flags, ranges := addRun c.ranges da.loc da.size }

/-- Kind 2 (18 R246). -/
def State.fillUnit (s : State) (n : Nat) (c : CopyCmd) : State :=
  s.onLook n c 1 0 (c.w2 + BitVec.ofNat 64 c.done) 8 fun da c s => s.onWrite n c da c.w1.toNat fun s =>
    (s.markWritten n c.chan da.loc 8).putCmd n { c with done := c.done + 8, ranges := addRun c.ranges da.loc 8 }

/-- Read the list entry of element i; a misaligned entry ends the command (18 R247, R249). -/
def State.onEntry (s : State) (n : Nat) (c : CopyCmd) (list : Word) (k : Word → CopyCmd → State → State) : State :=
  match c.entry with
  | some e => k e c s
  | none =>
    s.onLook n c 2 0 (list + BitVec.ofNat 64 (8 * (c.done / c.esize))) 8 fun a c s => s.onRead n c a fun v s =>
      let e := BitVec.ofNat 64 v
      if v % 8 ≠ 0 then s.putCmd n (c.stopAt 2 e) else k e c s

/-- Kinds 3 and 4: eight bytes of an element (18 R247). -/
def State.listUnit (s : State) (n : Nat) (c : CopyCmd) : State :=
  let o := c.done % c.esize
  let here := fun (w : Word) => w + BitVec.ofNat 64 c.done
  let i := c.done / c.esize
  s.onEntry n c (if c.kind = 3 then c.w1 else c.w2) fun e c s =>
    let there := e + BitVec.ofNat 64 o
    let c1 := { c with entry := some e }
    s.moveUnit n c1 (if c.kind = 3 then i else 0) (if c.kind = 3 then 0 else i) (if c.kind = 3 then there else here c.w1) (if c.kind = 3 then here c.w2 else there) 8
      fun c k => { c with done := c.done + k, entry := if o + k = c.esize then none else some e }

/-- The addend of an element and its flags (18 R248). -/
def accAddend (v : FVal) (sh w : Nat) (clamp : Bool) : Int × Flags5 :=
  match v with
  | .nan _ => (0, flNV)
  | .inf neg => (if neg then intMin w true else intMax w true, flNV)
  | .fin neg m e =>
    let r := roundShift .rne neg m (-(e + sh))
    let x : Int := if neg then -(r.1 : Int) else r.1
    let nx : Flags5 := if r.2 then flNX else 0
    if intMin w true ≤ x ∧ x ≤ intMax w true then (x, nx)
    else (if clamp then intClamp w true x else x, nx ||| flOF)

/-- Add into one accumulator at its home; one of another package was added to there, as its answer said. -/
def State.accAdd (s : State) (n : Nat) (c : CopyCmd) (a : Acc) (x : Int) : State :=
  if isRemote a.loc then s
  else
    let r := s.homeRead a a.loc a.size
    (r.2.storeAt a a.loc a.size (intBits (8 * a.size) ((r.1.1 : Int) + x)) 1).2.markWritten n c.chan a.loc a.size

/-- Are the lock bits of an accumulator's words free for the channel's turn (08 R116), and has no unlocked write reached them in this
cycle (05 R60)? -/
def State.accFree (s : State) (n : Nat) (c : CopyCmd) (a : Acc) : Bool :=
  !isScratch a.loc || (List.range (a.size / 8)).all fun j => s.lockFree (a.loc + 8 * j) n (64 + c.chan) c.id && !s.bankHas (a.loc + 8 * j) 2

/-- The channel retries for the lock bits of its accumulators, or no longer retries. -/
def State.accQueue (s : State) (n : Nat) (c : CopyCmd) (as : List Acc) (on : Bool) : State :=
  (as.filter fun a => isScratch a.loc).foldl (fun s a => (List.range (a.size / 8)).foldl (fun s j =>
    if on then s.lockQueue (a.loc + 8 * j) n (64 + c.chan) c.id else s.lockUnqueue (a.loc + 8 * j) n (64 + c.chan) c.id) s) s

/-- Go on once another package has answered the adds of a unit, of which `entry` counts those answered; a refusal ends the command,
and so does poison (08 R88). -/
def State.onAnswers (s : State) (n : Nat) (c : CopyCmd) (l : List Acc) (got : Nat) (k : State → State) : State :=
  match l with
  | [] => k s
  | a :: t => match s.engAnswer with
    | (.wait, s1) => s1.putCmd n { c with entry := some (BitVec.ofNat 64 got) }
    | (.fail e, s1) => s1.putCmd n (c.stopAt e a.va)
    | (.ok ls, s1) => if ls.any fun e => decide (e.2 ≠ 0) then s1.putCmd n (c.stopAt 5 a.va) else s1.onAnswers n c t (got + 1) k

/-- Kind 1: one source element, or the two of an SS4 byte (18 R248). The destinations are looked up, then the source is read, then the
destinations' tier, way and poison are tested (DESIGN CHOICE, log 91). -/
def State.accUnit (s : State) (n : Nat) (c : CopyCmd) : State :=
  let ws := fmtWidth c.src
  let nb := elBytes c.src
  let e0 := c.done * 8 / ws
  let els := if ws = 4 then [e0, e0 + 1] else [e0]
  let dva := fun (e : Nat) => c.w2 + BitVec.ofNat 64 (e * c.accSize)
  s.onLooks n c (els.map fun e => (dva e, c.accSize)) fun das c s =>
  s.onBits n c 0 (c.w1 + BitVec.ofNat 64 c.done) 0 (8 * nb) fun _ v c s =>
    match das.find? fun a => isHost a.loc || s.misrouted (fromNode n) (homeNode a.loc) 2 with
    | some a => (if isHost a.loc then s else s.logFate n (fromNode n) (homeNode a.loc) 2 c.lid a.va).putCmd n (c.stopAt 3 a.va)
    | none =>
      match das.find? fun a => (!isRemote a.loc) && (s.homeRead a a.loc a.size).1.2 with
      | some a => s.putCmd n (c.stopAt 5 a.va)
      | none =>
        if das.all fun a => s.accFree n c a then
          let got := (c.entry.map BitVec.toNat).getD 0
          s.onAnswers n c ((das.filter fun a => isRemote a.loc).drop got) got fun s =>
          let xs := els.map fun e =>
            accAddend (srcVal (numFmt c.src) (v / 2 ^ (ws * (e - e0)) % 2 ^ ws)).1 c.shift (8 * c.accSize) c.clamp
          let s1 := (das.zip (xs.map (·.1))).foldl (fun s q => s.accAdd n c q.1 q.2) (s.accQueue n c das false)
          s1.putCmd n { c.unitDone with
            done := c.done + nb, entry := none, flags := xs.foldl (fun f x => f ||| x.2) c.flags,
            ranges := das.foldl (fun l a => addRun l a.loc a.size) c.ranges }
        else (s.accQueue n c das true).putCmd n c

/-- One unit of a running command. -/
def State.copyUnit (s : State) (n : Nat) (c : CopyCmd) : State :=
  if c.len ≤ c.done ∨ c.stop.isSome = true ∨ c.running = false ∨ c.malformed = true then s
  else match c.kind with
  | 0 => if c.raw then s.rawUnit n c else s.convUnit n c
  | 1 => s.accUnit n c
  | 2 => s.fillUnit n c
  | _ => s.listUnit n c

/-- Several units of a channel's command. -/
def State.copyUnits (s : State) (n k units : Nat) : State :=
  match units with
  | 0 => s
  | u + 1 => match (s.core n).headCmd k with
    | some c => (s.copyUnit n c).copyUnits n k u
    | none => s

/-- COPY_COMMAND_START: a channel starts its oldest command once the pusher's release holds; the request is checked (18 R242, R244,
R249). -/
def execCopyCommandStart (core chan : Nat) (s : State) : Out :=
  .next (match (s.core core).headCmd chan with
    | some c =>
      if c.running = false ∧ s.gate core c.ctx c.seq c.qpos 5 = true then s.putCmd core { c with running := true, malformed := !c.ok }
      else s
    | none => s)

/-- WATERMARK_ADVANCE: the channel's command moves on by units, each an 8-byte word or an element, written and acknowledged
(18 R245 to R248, R251). -/
def execWatermarkAdvance (core chan units : Nat) (s : State) : Out :=
  .next (s.copyUnits core chan units)

/-- The record of an ended command (18 R250). -/
def CopyCmd.record (c : CopyCmd) : Word :=
  let st : Nat := if c.malformed then 2 else if c.stop.isSome then 1 else 0
  let done : Nat := if st = 2 then 0 else c.done
  let cause : Nat := match c.stop with
    | some e => if st = 1 then e.1 else 0
    | none => 0
  BitVec.ofNat 64 (st * 2 ^ 60 + c.chan * 2 ^ 56 + cause * 2 ^ 48 + c.flags.toNat * 2 ^ 40 + c.phase.toNat * 2 ^ 32 + done)

/-- Has a started command ended? -/
def CopyCmd.ended (c : CopyCmd) : Bool :=
  c.running && (c.malformed || c.stop.isSome || decide (c.len ≤ c.done))

/-- COPY_COMPLETION: an ended command leaves the FIFO, its retries and misses with it, and posts its record (18 R249, R250); a retired
pusher's record is discarded (18 R252). -/
def execCopyCompletion (core chan : Nat) (s : State) : Out :=
  .next (match (s.core core).headCmd chan with
    | some c =>
      if c.ended then
        let k := s.core core
        let h := k.chan chan
        let k1 := { k.setChan chan (match c.stop with
            | some e => { h with stopAddr := e.2 }
            | none => h) with copyFifo := k.copyFifo.filter fun q => decide (q.id ≠ c.id) }
        let s1 := ((s.setCore core k1).lockForget core (64 + chan)).abandon core (64 + chan)
        let t := s1.ctx core c.ctx
        if t.gen = c.gen then
          s1.setCtx core c.ctx { t with copyQ := t.copyQ.map fun r =>
            if r.cmd = c.id ∧ r.record = none then { r with record := some c.record, ranges := c.ranges } else r }
        else s1
      else s
    | none => s)

/-- CHANNEL_AUTO_UNBIND: a retired thread's binding goes once the channel's commands have completed (23 R306). -/
def execChannelAutoUnbind (core chan : Nat) (s : State) : Out :=
  .next (
    let c := s.core core
    let h := c.chan chan
    match h.bound with
    | some b =>
      if (c.ctx b.ctx).gen ≠ b.gen ∧ (c.headCmd chan).isNone then s.setCore core (c.setChan chan { h with bound := none }) else s
    | none => s)

/-! ### TAG (18 R258, 08 R118) -/

/-- The set of a tag. -/
def Core.tagSet (c : Core) (k : Word) : Nat :=
  (bits k 0 16 ^^^ bits k 16 16 ^^^ bits k 32 16 ^^^ bits k 48 16) % 2 ^ c.tagSets.toNat

/-- Is the table in use for a tag? -/
def Core.tagUse (c : Core) (k : Word) : Bool :=
  c.tagEn && decide (k ≠ ~~~0)

/-- The slot that holds a tag. -/
def Core.tagHit (c : Core) (k : Word) : Option Nat :=
  ((List.range 4).map fun w => 4 * c.tagSet k + w).find? fun n => decide (mfind c.tags n = some k)

/-- A slot becomes the most recently used of its set; each set lists its ways, most recent first. -/
def Core.tagTouch (c : Core) (n : Nat) : Core :=
  { c with tagLru := mput c.tagLru (n / 4) (n % 4 :: (mget [0, 1, 2, 3] c.tagLru (n / 4)).filter fun w => decide (w ≠ n % 4)) }

/-- The slot that a new tag takes: the lowest invalid way, or failing that the least recently used. -/
def Core.tagVictim (c : Core) (k : Word) : Nat :=
  let q := c.tagSet k
  match ((List.range 4).map fun w => 4 * q + w).find? fun n => (mfind c.tags n).isNone with
  | some n => n
  | none => 4 * q + (mget [0, 1, 2, 3] c.tagLru q).getLastD 3

/-- A TAG instruction: -1 and no change where the table is out of use for the operand. -/
def State.tagOp (s : State) (d a : BitVec 5) (f : Core → Word → Core × Word) : Out :=
  s.plain (
    let k := s.me.rx a
    let r := if s.myCore.tagUse k then f s.myCore k else (s.myCore, ~~~0)
    let s := s.putCore r.1
    s.finish (s.me.wx d r.2))

def execTlook (d a : BitVec 5) (s : State) : Out :=
  s.tagOp d a fun c k => match c.tagHit k with
    | some n => (c.tagTouch n, BitVec.ofNat 64 n)
    | none => (c, ~~~0)

def execTins (d a : BitVec 5) (s : State) : Out :=
  s.tagOp d a fun c k => match c.tagHit k with
    | some n => (c.tagTouch n, BitVec.ofNat 64 (n + 2 ^ 63))
    | none =>
      let n := c.tagVictim k
      ({ c.tagTouch n with tags := mput c.tags n k }, BitVec.ofNat 64 n)

/-- TDEL leaves the order as it is: an invalid way is taken before any order is looked at, so the two readings of R258 agree. -/
def execTdel (d a : BitVec 5) (s : State) : Out :=
  s.tagOp d a fun c k => match c.tagHit k with
    | some n => ({ c with tags := mdel c.tags n }, BitVec.ofNat 64 n)
    | none => (c, ~~~0)

def execTstat (d a : BitVec 5) (s : State) : Out :=
  s.tagOp d a fun c k => (c, if k.toNat < 4 * 2 ^ c.tagSets.toNat then (mfind c.tags k.toNat).getD (~~~0) else ~~~0)

end Sys2Proof.Machine
end

