-- ==== Sys2Proof/Machine/Matrix.lean ====
section
/-! DEFINITION. Matrix slices, gangs and their power: MX, gang start, K-groups, grants (22 R283 to R305, 28 R372, R373). -/

namespace Sys2Proof.Machine

/-! ### Slices, blocks and formats -/

def State.putMx (s : State) (n : Nat) (m : Slice) : State :=
  s.setCore n { s.core n with mx := m }

/-- Element (i, j) of accumulator k is key 4096 k + 64 i + j. -/
def accKey (k i j : Nat) : Nat := 4096 * k + 64 * i + j

/-- The kind tag of an accumulator. -/
def Slice.tag (m : Slice) (k : Nat) : Nat := m.tags.toNat / 4 ^ k % 4

def Slice.putTag (m : Slice) (k v : Nat) : Slice :=
  { m with tags := BitVec.ofNat 8 (m.tags.toNat - m.tag k * 4 ^ k + v * 4 ^ k) }

/-- Zero an accumulator. -/
def Slice.zero (m : Slice) (k : Nat) : Slice :=
  { m with acc := m.acc.filter fun e => decide (e.1 / 4096 ≠ k) }

/-- The cores of a core's block of 2^c, ascending (22 R284). -/
def blockOf (n c : Nat) : List Nat :=
  let g := 2 ^ c
  let x := coreX n % 16 / g * g + 16 * baseOf n
  (List.range g).map fun k => coreNo (x + k) (coreY n)

/-- The rows of the table of R288: the tag they set. -/
def mxKind (fa fb fc : Nat) : Option Nat :=
  match fa, fb, fc with
  | 7, 7, 6 => some 0
  | 11, 7, 6 => some 0
  | 1, 1, 4 => some 1
  | 11, 1, 4 => some 2
  | 12, 1, 4 => some 2
  | _, _, _ => none

/-- The formats a prefix gives MXGO. -/
def mxCodes (p : Pfx) : Nat × Nat × Nat :=
  let fb := codeOr p.fb 7
  (codeOr p.fa 7, fb, if p.fc = 0 then (if fb = 7 then 6 else if fb = 1 then 4 else 0) else p.fc)

def mxgoFmt (p : Pfx) : Bool :=
  let c := mxCodes p
  decide (p.sat = false ∧ p.scm = 0) && (mxKind c.1 c.2.1 c.2.2).isSome

/-- The RM code of a governing mode: RM, or the code of rmode (06 R72, R73). -/
def rmCode (rm rmode : BitVec 3) : BitVec 3 :=
  if rm = 0 then rmode + 1 else rm

/-! ### mxprog (22 R295) -/

def mxStatus (w : Word) : Nat := bits w 60 4

/-- Replace the STATUS of mxprog by one other than 3, which has CAUSE 0. -/
def mxPutStatus (w : Word) (st : Nat) : Word :=
  (w &&& 0x000FFFFFFFFFFFFF) ||| BitVec.ofNat 64 (st * 2 ^ 60)

/-- mxprog of an operation. -/
def mxWord (st cause member src : Nat) (o : MxOp) (g : BitVec 3) : Word :=
  BitVec.ofNat 64 (st * 2 ^ 60 + cause * 2 ^ 52 + member * 2 ^ 48 + src * 2 ^ 47 + o.acc.toNat * 2 ^ 44 + o.kdone * 2 ^ 28 +
    o.fa.toNat * 2 ^ 24 + o.fb.toNat * 2 ^ 20 + o.fc.toNat * 2 ^ 16 + o.rm.toNat * 2 ^ 13 + g.toNat * 2 ^ 10)

def MxOp.k (o : MxOp) : Nat := bits o.w3 32 16
def MxOp.z (o : MxOp) : Bool := o.w3.getLsbD 48

/-! ### Ownership (22 R285, R287) -/

/-- MXGANG's status. -/
def State.gangStatus (s : State) (c : Nat) : Nat :=
  let m := s.myCore.mx
  if 4 < c then 2
  else if (blockOf s.cur.core c).any fun n => !s.active n then 3
  else match m.owner with
    | none => 0
    | some i => if i ≠ s.cur.ctx then 1 else if m.op.isSome ∨ m.form.isSome then 4 else 0

def execMxgang (d a : BitVec 5) (s : State) : Out :=
  s.plain (
    let c := bits (s.me.rx a) 0 3
    let st := s.gangStatus c
    let s := if st = 0 then s.putMx s.cur.core { s.myCore.mx with owner := some s.cur.ctx, g := BitVec.ofNat 3 c } else s
    s.finish (s.me.wx d (BitVec.ofNat 64 st)))

def execMxleave (d : BitVec 5) (s : State) : Out :=
  s.plain (
    let m := s.myCore.mx
    if m.owner ≠ some s.cur.ctx then s.finish (s.me.wx d 1)
    else if m.op.isSome then .next s.stall
    else
      let s := s.putMx s.cur.core { m with owner := none }
      s.finish (s.me.wx d 0))

/-- The owner goes on; any other thread takes the access fault of R285. -/
def State.owned (s : State) (k : Out) : Out :=
  if s.myCore.mx.owner = some s.cur.ctx then k else .next (s.trapMe 3 0 0)

/-! ### Issuing an operation (22 R289, R291, R296, R303) -/

/-- Ask for a grant where the slice holds none. -/
def State.askGrant (s : State) (n : Nat) : State :=
  let m := (s.core n).mx
  if m.grant ∨ m.request then s else s.putMx n { m with request := true, reqAt := s.clock.toNat }

/-- The executing thread enters gang wait with its operation. -/
def State.gangWait (s : State) (a : BitVec 3) (res : Bool) (acc : BitVec 2) (fa fb fc : Nat) (rm : BitVec 3) (kd : Nat) : Out :=
  let t := s.me
  let o : MxOp := ⟨s.cur.ctx, res, acc, t.rx (quad a 0), t.rx (quad a 1), t.rx (quad a 2), t.rx (quad a 3),
    BitVec.ofNat 4 fa, BitVec.ofNat 4 fb, BitVec.ofNat 4 fc, rm, kd, 0, false, s.myCore.nextStore, t.seq⟩
  let s := (s.putMx s.cur.core { s.myCore.mx with form := some o }).askGrant s.cur.core
  .next (s.putMe { s.me with run := .waiting .gang, stallAt := none, seq := t.seq + 1 })

def execMxgo (d : BitVec 2) (a : BitVec 3) (s : State) : Out :=
  s.accepts mxgoFmt fun p => s.owned (
    let c := mxCodes p
    s.gangWait a false d c.1 c.2.1 c.2.2 (rmCode p.rm s.me.rmode) 0)

/-- MXRES continues a stopped operation by the fields of mxprog; in any other state it does nothing. -/
def execMxres (a : BitVec 3) (s : State) : Out :=
  s.plain (s.owned (
    let w := s.me.mxprog
    if mxStatus w = 3 ∨ mxStatus w = 4 then
      s.gangWait a true (w.extractLsb' 44 2) (bits w 24 4) (bits w 20 4) (bits w 16 4) (w.extractLsb' 13 3) (bits w 28 16)
    else s.finish s.me))

/-! ### Reading, clearing, draining (22 R298 to R300) -/

def execMxmov (d : BitVec 5) (a : BitVec 2) (b : BitVec 5) (l : BitVec 4) (s : State) : Out :=
  s.plain (s.owned (
    let m := s.myCore.mx
    if m.op.isSome then .next s.stall
    else
      let x := s.me.rx b
      let v := packEls 32 ((List.range 16).map fun k => (mget 0 m.acc (accKey a.toNat (bits x 0 6) (16 * bits x 6 2 + k))).toNat) 0
      .next (s.openWin s.me (.v d) 0xFFFF l .none (some (.val v)))))

def execMxzero (d : BitVec 2) (s : State) : Out :=
  s.plain (s.owned (
    let m := s.myCore.mx
    if m.op.isSome then .next s.stall
    else
      let s := s.putMx s.cur.core (m.zero d.toNat)
      s.finish (s.me.mend (.acc d))))

def mxdrainFmt (p : Pfx) : Bool :=
  decide (p.fa = 0 ∧ p.fb = 0) && inRow p.fc 6 [1, 2, 3, 4, 5, 6, 7, 8, 9, 10, 11, 14]

/-- The 8-byte words of a drain's output, row by row. -/
def drainWords (oaddr : Word) (ostr w : Nat) : List (Nat × Word) :=
  (List.range 64).flatMap fun i => (List.range w).map fun k => (i * w + k, oaddr + BitVec.ofNat 64 (i * ostr + 8 * k))

/-- How many scales a mode reads. -/
def scaleCount (scm : Nat) : Nat := [0, 64, 64, 128, 1].getD scm 0

/-- The scales that element (i, j) is multiplied by. -/
def scalesOf (scm : Nat) (xs : List Nat) (i j : Nat) : List Nat :=
  match scm with
  | 1 => [xs.getD i 0]
  | 2 => [xs.getD j 0]
  | 3 => [xs.getD i 0, xs.getD (64 + j) 0]
  | 4 => [xs.getD 0 0]
  | _ => []

/-- Read scales as loads of the thread: none where one must wait, or the address of a poisoned one. -/
def State.readScales (s : State) (es : List (Nat × Acc)) : Option (Except (Nat × Word) (List Nat)) × State :=
  match es with
  | [] => (some (.ok []), s)
  | (_, a) :: r =>
    let n := s.cur.core
    let i := s.cur.ctx
    if s.me.behind s.me.seq a.loc a.size then (none, s)
    else
      let far := isRemote a.loc && (mfind s.myCore.l1 (a.loc / 64)).isNone
      let rep := if far then s.pkg.podReplies.head?.bind fun q => lineOfReply q 0 else none
      let g := s.readFor n i s.me.seq a rep
      let s1 := if far then { g.2 with pkg := { g.2.pkg with podReplies := g.2.pkg.podReplies.tail } } else g.2
      match g.1 with
      | .wait => (none, s)
      | .fault c => (some (.error (c, a.va)), s1)
      | .val v => match s1.readScales r with
        | (some (.ok l), s2) => (some (.ok (v :: l)), s2)
        | q => q

/-- The drained elements of an accumulator with their flags, row by row (06 R84). -/
def drainEls (m : Slice) (k : Nat) (scm : Nat) (xs : List Nat) (fc : Nat) (md : Mode) (sat : Bool) : List (Nat × Flags5) :=
  (List.range 64).flatMap fun i => (List.range 64).map fun j =>
    drain (decide (m.tag k ≠ 0)) (if m.tag k = 2 then 6 else 0) (mget 0 m.acc (accKey k i j)).toNat (scalesOf scm xs i j) (numFmt fc) md sat

/-- Elements of w bits, packed into 8-byte words, lowest first. -/
def packWords (w : Nat) (n : Nat) (xs : List Nat) : List Word :=
  let per := 64 / w
  (List.range n).map fun q => BitVec.ofNat 64 ((((xs.drop (q * per)).take per).mapIdx fun i x => x * 2 ^ (w * i)).sum)

/-- MXDRAIN (22 R300): the scales are read and the flags raised once; the stores retire as their levels' counts allow, and the accumulator is
zeroed after the last. -/
def execMxdrain (d : BitVec 2) (a : BitVec 3) (s : State) : Out :=
  s.accepts mxdrainFmt fun p => s.owned (
    let t := s.me
    let m := s.myCore.mx
    let fc := codeOr p.fc 6
    let w := fmtWidth fc
    let oaddr := t.rx (quad a 0)
    let w1 := t.rx (quad a 1)
    let sc := t.rx (quad a 2)
    let w3 := t.rx (quad a 3)
    let done := fun (s : State) =>
      let s1 := if w3.getLsbD 0 then s.putMx s.cur.core (s.myCore.mx.zero d.toNat) else s
      s1.finish s1.me
    s.storing done (
      if m.op.isSome ∨ t.acquiring = true then .next s.stall
      else if bits w1 32 32 ≠ 0 ∨ bits w3 1 63 ≠ 0 then .next (s.trapMe 3 1 oaddr)
      else if oaddr.toNat % 64 ≠ 0 ∨ w1.toNat % 64 ≠ 0 then .next (s.trapMe 2 1 oaddr)
      else s.checkElems 1 8 (drainWords oaddr w1.toNat w) fun os s1 =>
        s1.checkElems 0 4 ((List.range (scaleCount p.scm)).map fun k => (k, sc + BitVec.ofNat 64 (4 * k))) fun ss s2 =>
          if !s2.allBelow os || !s2.allBelow ss then .next s.stall
          else match s2.readScales ss with
            | (none, _) => .next s.stall
            | (some (.error e), s3) => .next (s3.trapMe e.1 0 e.2)
            | (some (.ok xs), s3) =>
              let es := drainEls m d.toNat p.scm xs fc (t.mode p) p.sat
              let fl : Flags5 := es.foldl (fun f e => f ||| e.2) 0
              let s4 := s3.raiseSum s.cur.core fl
              (s4.putMe (s4.me.raise 0 fl)).storeAll ((os.map (·.2)).zip (packWords w (os.length) (es.map (·.1)))) done))

/-- PWREQ (22 R304). -/
def execPwreq (d : BitVec 5) (s : State) : Out :=
  s.plain (
    let n := s.cur.core
    let m := s.myCore.mx
    if m.grant then
      let s := s.putMx n { m with idleAt := s.clock.toNat }
      s.finish (s.me.wx d 0)
    else
      let s := s.askGrant n
      s.finish (s.me.wx d 1))

/-! ### Starting a gang (22 R290, R291, R296) -/

/-- The operations of a block in gang wait, in member order; none where a member lacks one. -/
def State.forms (s : State) (ns : List Nat) : Option (List MxOp) :=
  ns.mapM fun n => (s.core n).mx.form

/-- A member's own rules (22 R289, R290, R296); the leader's A descriptor counts for the leader alone. -/
def MxOp.ok (o : MxOp) (leader : Bool) : Bool :=
  let ea := elBytes o.fa.toNat
  let eb := elBytes o.fb.toNat
  decide (o.k ≠ 0 ∧ bits o.w1 32 32 = 0 ∧ bits o.w3 49 15 = 0 ∧ o.w2.toNat % eb = 0 ∧ bits o.w3 0 32 % eb = 0) &&
  (!leader || decide (o.w0.toNat % ea = 0 ∧ o.w1.toNat % ea = 0)) &&
  (mxKind o.fa.toNat o.fb.toNat o.fc.toNat).isSome && decide (1 ≤ o.rm.toNat ∧ o.rm.toNat ≤ 5) &&
  (!o.res || decide (o.kdone % 32 = 0 ∧ o.kdone < o.k))

/-- Do the members agree, each well formed? -/
def opsOk (os : List MxOp) : Bool :=
  match os with
  | [] => false
  | l :: _ => l.ok true && os.all fun o => o.ok false &&
    decide (o.res = l.res ∧ o.k = l.k ∧ o.fa = l.fa ∧ o.fb = l.fb ∧ o.fc = l.fc ∧ o.rm = l.rm ∧ o.z = l.z)

/-- Change a member thread's mxprog, and let it leave gang wait. -/
def State.leaveWait (s : State) (n i : Nat) (f : Word → Word) : State :=
  let t := { s.ctx n i with mxprog := f (s.ctx n i).mxprog }
  s.setCtx n i (if t.run = .waiting .gang then t.next else t)

/-- Start one member: mxprog set, the accumulator's tag set, the operation runs. -/
def State.startMember (s : State) (n : Nat) (o : MxOp) : State :=
  let m := (s.core n).mx
  let tag := (mxKind o.fa.toNat o.fb.toNat o.fc.toNat).getD 0
  (s.putMx n { m.putTag o.acc.toNat tag with op := some { o with running := true }, form := none }).leaveWait n o.ctx
    fun _ => mxWord 1 0 0 0 o m.g

/-- A member of a malformed operation: STATUS 2 and nothing runs. -/
def State.refuseMember (s : State) (n : Nat) (o : MxOp) : State :=
  (s.putMx n { (s.core n).mx with form := none, idleAt := s.clock.toNat }).leaveWait n o.ctx fun w => mxPutStatus w 2

/-- Is a slice ready to compute? -/
def Slice.ready (m : Slice) : Bool := m.grant && m.awake

/-- GANG_START: every core of a core's block has recorded the same g and waits, holds a grant and is awake, and its previous operation
has ended (22 R291). -/
def execGangStart (core : Nat) (s : State) : Out :=
  .next (
    let g := (s.core core).mx.g
    let ns := blockOf core g.toNat
    match s.forms ns with
    | none => s
    | some os =>
      if ns.all fun n => decide ((s.core n).mx.g = g ∧ (s.core n).mx.op = none) && (s.core n).mx.ready then
        (ns.zip os).foldl (fun s e => if opsOk os then s.startMember e.1 e.2 else s.refuseMember e.1 e.2) s
      else s)

/-! ### K-groups (22 R292 to R294, R297) -/

/-- Read bytes through a member's load pipe, cut at lines; a window's bytes wait for its watermark (22 R293). -/
def State.pipeRead (s : State) (n : Nat) (space : BitVec 12) (va : Word) (len fuel : Nat) : Eng Nat × State :=
  match fuel with
  | 0 => (.ok 0, s)
  | f + 1 =>
    if len = 0 then (.ok 0, s)
    else
      let k := min len (64 - va.toNat % 64)
      let l := s.engLook n 80 space va 0 k
      match l.1 with
      | .wait => (.wait, l.2)
      | .fail c => (.fail c, l.2)
      | .ok a =>
        if l.2.belowMark a.loc k then
          let r := l.2.engRead n a k
          match r.1 with
          | .wait => (.wait, r.2)
          | .fail c => (.fail c, r.2)
          | .ok v =>
            let q := r.2.pipeRead n space (va + BitVec.ofNat 64 k) (len - k) f
            match q.1 with
            | .ok x => (.ok (v + x * 2 ^ (8 * k)), q.2)
            | .wait => (.wait, q.2)
            | .fail c => (.fail c, q.2)
        else (.wait, l.2)

/-- Read a list of rows of bytes. -/
def State.pipeRows (s : State) (n : Nat) (space : BitVec 12) (vas : List Word) (len : Nat) : Eng (List Nat) × State :=
  match vas with
  | [] => (.ok [], s)
  | va :: t =>
    let r := s.pipeRead n space va len (len / 64 + 2)
    match r.1 with
    | .wait => (.wait, r.2)
    | .fail c => (.fail c, r.2)
    | .ok v =>
      let q := r.2.pipeRows n space t len
      match q.1 with
      | .ok l => (.ok (v :: l), q.2)
      | .wait => (.wait, q.2)
      | .fail c => (.fail c, q.2)

/-- The rows of A of a group: 64 rows of n elements. -/
def MxOp.aRows (o : MxOp) (g0 : Nat) : List Word :=
  (List.range 64).map fun i => o.w0 + BitVec.ofNat 64 (i * o.w1.toNat + g0 * fmtWidth o.fa.toNat / 8)

/-- The rows of a member's strip of B of a group. -/
def MxOp.bRows (o : MxOp) (g0 n : Nat) : List Word :=
  (List.range n).map fun k => o.w2 + BitVec.ofNat 64 ((g0 + k) * bits o.w3 0 32)

/-- Where the first read of a group that fails stands: cause, member, pipe. -/
inductive Reads where
  | wait
  | fail (cause member src : Nat)
  | ok (a : List Nat) (bs : List (List Nat))
  deriving DecidableEq, Repr

/-- Read the strips of the members from a number on. -/
def State.stripReads (s : State) (os : List (Nat × MxOp)) (m g0 n : Nat) (a : List Nat) (acc : List (List Nat)) : Reads × State :=
  match os with
  | [] => (.ok a acc, s)
  | (c, o) :: t =>
    let r := s.pipeRows c (s.ctx c o.ctx).space (o.bRows g0 n) (64 * fmtWidth o.fb.toNat / 8)
    match r.1 with
    | .wait => (.wait, r.2)
    | .fail e => (.fail e m 1, r.2)
    | .ok b => r.2.stripReads t (m + 1) g0 n a (acc ++ [b])

/-- Read a group: A by the leader, then each member's strip (22 R292, R294). -/
def State.groupReads (s : State) (os : List (Nat × MxOp)) (g0 n : Nat) : Reads × State :=
  match os with
  | [] => (.wait, s)
  | (c, o) :: _ =>
    let r := s.pipeRows c (s.ctx c o.ctx).space (o.aRows g0) ((n * fmtWidth o.fa.toNat + 7) / 8)
    match r.1 with
    | .wait => (.wait, r.2)
    | .fail e => (.fail e 0 0, r.2)
    | .ok a => r.2.stripReads os 0 g0 n a []

/-- One element of a group: the old value, a row of A and a column of B. -/
def mxElement (fa fb : Nat) (tag : Nat) (md : Mode) (n i j : Nat) (old : Nat) (a b : List Nat) : Nat × Flags5 :=
  let wa := fmtWidth fa
  let wb := fmtWidth fb
  let av := fun (k : Nat) => a.getD i 0 / 2 ^ (wa * k) % 2 ^ wa
  let bv := fun (k : Nat) => b.getD k 0 / 2 ^ (wb * j) % 2 ^ wb
  if tag = 0 then kGroup md old ((List.range n).map fun k => ((srcVal (numFmt fa) (av k)).1, (srcVal (numFmt fb) (bv k)).1))
  else (intBits 32 ((List.range n).foldl (fun (x : Int) k => x + intProd (numFmt fa) (av k) (intOf 8 true (bv k))) (intOf 32 true old)), 0)

/-- Commit a group on one member (22 R292). -/
def State.commitMember (s : State) (n : Nat) (o : MxOp) (g0 k : Nat) (a b : List Nat) : State :=
  let m := (s.core n).mx
  let tag := (mxKind o.fa.toNat o.fb.toNat o.fc.toNat).getD 0
  let els := (List.range 64).flatMap fun i => (List.range 64).map fun j =>
    let q := accKey o.acc.toNat i j
    (q, mxElement o.fa.toNat o.fb.toNat tag (modeRM o.rm 0) k i j (if o.z && decide (g0 = 0) then 0 else (mget 0 m.acc q).toNat) a b)
  let acc := els.foldl (fun c e => mset 0 c e.1 (BitVec.ofNat 32 e.2.1)) m.acc
  let o1 := { o with kdone := g0 + k, flags := els.foldl (fun f e => f ||| e.2.2) o.flags }
  s.putMx n { m with acc := acc, op := some o1 }

/-- A member's operation ends or stops with a status: mxprog written, flags raised, the idle count started, its pipe's misses dropped
(22 R292, R294, R297). -/
def State.endMember (s : State) (n : Nat) (st cause member src : Nat) : State :=
  match (s.core n).mx.op with
  | none => s
  | some o =>
    let m := (s.core n).mx
    let s1 := (s.putMx n { m with op := none, idleAt := s.clock.toNat, stopped := [o.w0, o.w1, o.w2, o.w3] }).abandon n 80
    let t := s1.ctx n o.ctx
    (s1.raiseSum n o.flags).setCtx n o.ctx ({ t with mxprog := mxWord st cause member src o m.g }.raise 0 o.flags)

/-- A member goes on: mxprog's KDONE follows. -/
def State.markMember (s : State) (n : Nat) : State :=
  match (s.core n).mx.op with
  | none => s
  | some o =>
    let t := s.ctx n o.ctx
    s.setCtx n o.ctx { t with mxprog := mxWord 1 0 0 0 o (s.core n).mx.g }

/-- A slice loses its grant and is gated; where its operation goes on, or its owner waits in gang wait, it asks again at once (22 R303,
28 R373). -/
def Slice.lose (m : Slice) (goesOn : Bool) (now : Nat) : Slice :=
  let again := goesOn || m.form.isSome
  { m with revoking := false, grant := false, awake := false, request := m.request || again, reqAt := if again then now else m.reqAt }

/-- A slice whose grant was revoked gives it up at a group boundary (28 R373). -/
def State.dropRevoked (s : State) (again : Bool) (n : Nat) : State :=
  let m := (s.core n).mx
  if m.revoking then s.putMx n (m.lose again s.clock.toNat) else s

/-- Is a pre-emption halt or the termination of a launch under way (22 R292, R301)? -/
def State.haltPending (s : State) (lid : BitVec 32) : Bool :=
  match s.launchOf lid with
  | some l => (match l.phase with
    | .halting | .ending _ => true
    | _ => false)
  | none => false

/-- The running operations of a block. -/
def State.running (s : State) (ns : List Nat) : Option (List (Nat × MxOp)) :=
  ns.mapM fun n => (s.core n).mx.op.map fun o => (n, o)

/-- K_GROUP_COMMIT: the gang of a core commits one group, ends, stops at a fault, or stops for a pre-emption halt; it pauses while a
member lacks a grant (22 R292 to R294, 28 R373). -/
def execKGroupCommit (core : Nat) (s : State) : Out :=
  .next (
    let ns := blockOf core (s.core core).mx.g.toNat
    match s.running ns with
    | none => s
    | some os => match os with
      | [] => s
      | (_, l) :: _ =>
        let g0 := l.kdone
        let n := min 32 (l.k - g0)
        if !(ns.all fun n => (s.core n).mx.grant && (s.core n).mx.awake) ||
          !(os.all fun e => s.gate e.1 e.2.ctx e.2.seq e.2.qpos 5) then s
        else
          let r := s.groupReads os g0 n
          match r.1 with
          | .wait => { r.2 with pkg := { r.2.pkg with podReplies := s.pkg.podReplies } }
          | .fail c m q => ns.foldl (fun s n => (s.endMember n 3 c m q).dropRevoked false n) r.2
          | .ok a bs =>
            let s1 := (os.zip bs).foldl (fun s e => s.commitMember e.1.1 e.1.2 g0 n a e.2) r.2
            if l.k ≤ g0 + n then ns.foldl (fun s n => (s.endMember n 0 0 0 0).dropRevoked false n) s1
            else if os.any fun e => s.haltPending (s.ctx e.1 e.2.ctx).lid then ns.foldl (fun s n => (s.endMember n 4 0 0 0).dropRevoked false n) s1
            else ns.foldl (fun s n => (s.markMember n).dropRevoked true n) s1)

/-! ### Power (22 R303, 28 R372, R373) -/

/-- The cores of a chiplet. -/
def chipletCores (c : Nat) : List Nat :=
  (List.range 512).filter fun n => decide (chipletOf n = c)

/-- The cap of a chiplet: GCAP's byte, halved under throttle, at least 1. -/
def State.capOf (s : State) (c : Nat) : Nat :=
  let v := (s.pkg.gcap.extractLsb' (8 * c) 8).toNat
  if s.pkg.currentThrottle ∨ s.pkg.thermalThrottle then max 1 (v / 2) else v

/-- The grants a chiplet holds. -/
def State.grantsOf (s : State) (c : Nat) : Nat :=
  ((chipletCores c).filter fun n => (s.core n).mx.grant).length

/-- The oldest request of a chiplet, the lowest core first among equals. -/
def State.oldestRequest (s : State) (c : Nat) : Option Nat :=
  (chipletCores c).foldl (fun r n => if (s.core n).mx.request then match r with
    | none => some n
    | some m => if (s.core n).mx.reqAt < (s.core m).mx.reqAt then some n else r else r) none

/-- May the governor act again: eight cycles since its last grant or revocation? -/
def slotFree (m : Map Nat) (c now : Nat) : Bool :=
  match mfind m c with
  | none => true
  | some t => decide (t + 8 ≤ now)

/-- POWER_GRANT: one grant to the oldest request, at most one every 8 cycles and within the cap (22 R303). -/
def execPowerGrant (chiplet : Nat) (s : State) : Out :=
  .next (
    let now := s.clock.toNat
    match s.oldestRequest chiplet with
    | none => s
    | some n =>
      if slotFree s.pkg.lastGrant chiplet now && decide (s.grantsOf chiplet < s.capOf chiplet) then
        let s1 := s.putMx n { (s.core n).mx with grant := true, request := false, grantAt := now, idleAt := now }
        { s1 with pkg := { s1.pkg with lastGrant := mput s1.pkg.lastGrant chiplet now } }
      else s)

/-- SLICE_AWAKE: mxwake cycles after its grant a gated slice is awake (22 R303). -/
def execSliceAwake (core : Nat) (s : State) : Out :=
  .next (
    let m := (s.core core).mx
    if m.grant ∧ m.awake = false ∧ m.grantAt + Config.mxwake ≤ s.clock.toNat then s.putMx core { m with awake := true } else s)

/-- SLICE_GATE: a slice idle for mxidle cycles is gated and gives up its grant; mxidle 0 never gates (22 R303, 14 R208). -/
def execSliceGate (core : Nat) (s : State) : Out :=
  .next (
    let m := (s.core core).mx
    let k := (s.core core).mxidle.toNat
    if m.grant ∧ m.op = none ∧ m.form = none ∧ k ≠ 0 ∧ m.idleAt + k ≤ s.clock.toNat then
      s.putMx core { m with grant := false, awake := false, revoking := false }
    else s)

/-- The highest core of a chiplet whose grant may be revoked. -/
def State.revocable (s : State) (c : Nat) : Option Nat :=
  (chipletCores c).reverse.find? fun n => (s.core n).mx.grant && !(s.core n).mx.revoking

/-- Does the gang that a core's slice is in compute: does every member hold a grant and is it awake? If not it is paused. -/
def State.gangRuns (s : State) (n : Nat) : Bool :=
  (blockOf n (s.core n).mx.g.toNat).all fun k => (s.core k).mx.ready

/-- GRANT_REVOKE: while a chiplet holds more grants than its cap, one is revoked every 8 cycles, the highest core first. A slice with
no operation is gated at once, and one in gang wait or of a paused gang asks again; a running one gives its grant up at its group boundary
(28 R373). -/
def execGrantRevoke (chiplet : Nat) (s : State) : Out :=
  .next (
    let now := s.clock.toNat
    let pending := ((chipletCores chiplet).filter fun n => (s.core n).mx.revoking).length
    match s.revocable chiplet with
    | none => s
    | some n =>
      if slotFree s.pkg.lastRevoke chiplet now && decide (s.capOf chiplet + pending < s.grantsOf chiplet) then
        let m := (s.core n).mx
        let m1 : Slice := if m.op.isSome && s.gangRuns n then { m with revoking := true } else m.lose m.op.isSome now
        let s1 := s.putMx n m1
        { s1 with pkg := { s1.pkg with lastRevoke := mput s1.pkg.lastRevoke chiplet now } }
      else s)

/-- CURRENT_SAMPLE: 16 consecutive samples above 3,000 A throttle; 64 consecutive below 2,800 A lift both restrictions, the
temperature permitting (28 R372). -/
def execCurrentSample (amps : BitVec 16) (s : State) : Out :=
  .next (
    let overRun := if 3000 < amps.toNat then s.pkg.overRun + 1 else 0
    let underRun := if amps.toNat < 2800 then s.pkg.underRun + 1 else 0
    let thr := if 16 ≤ overRun then true else if 64 ≤ underRun then false else s.pkg.currentThrottle
    let hot := if 64 ≤ underRun ∧ s.pkg.temperature.toNat ≤ 105 then false else s.pkg.thermalThrottle
    { s with pkg := { s.pkg with amps := amps, overRun := overRun, underRun := underRun, currentThrottle := thr, thermalThrottle := hot } })

/-- THERMAL_THROTTLE: a junction above 105 °C applies the throttle and logs it (28 R372). -/
def execThermalThrottle (celsius : BitVec 8) (s : State) : Out :=
  .next (
    let s1 := { s with pkg := { s.pkg with temperature := celsius } }
    if 105 < celsius.toNat ∧ s.pkg.thermalThrottle = false then
      { s1 with pkg := { s1.pkg with thermalThrottle := true, underRun := 0 } }.logErr 6 0 0 0 0
    else s1)

/-- THERMAL_TRIP: at 115 °C every core stops and boot status reports it; the state is then lost (28 R372). -/
def execThermalTrip (celsius : BitVec 8) (s : State) : Out :=
  .next (
    let s1 := { s with pkg := { s.pkg with temperature := celsius } }
    if 115 ≤ celsius.toNat then { s1 with pkg := { s1.pkg with tripped := true, bootst := 5 } } else s1)

end Sys2Proof.Machine
end

