-- ==== Sys2Proof/Machine/Bank.lean ====
section
/-! DEFINITION. Bank engines: the BK instructions, commands on their way and at the engine, bank code (26 R324 to R347, 27 R354, R355). -/

namespace Sys2Proof.Machine

/-! ### Commands from a core (26 R327 to R330, R334 to R336) -/

def bkpushFmt (p : Pfx) : Bool :=
  [0, 1, 11, 12].contains p.fa && [0, 1, 7].contains p.fb && (decide (p.fc ≤ 11) || decide (p.fc = 14))

/-- The descriptor of a bank payload (26 R329). -/
def bankPayloadOk (w : Word) : Bool :=
  decide (bits w 41 23 = 0 ∧ bits w 21 11 = 0 ∧ bits w 32 9 ≤ 256 ∧ bits w 0 21 + bits w 32 9 ≤ 0x100000)

/-- The executing thread pushes a command: a place in its bank record queue, and the command on its way. -/
def State.pushBank (s : State) (c : BankCmd) : State :=
  let t := s.me
  { s.putMe { t with bankQ := t.bankQ ++ [⟨c.id, c.ch, none, [], false⟩], seq := t.seq + 1 } with bankCmds := s.bankCmds ++ [c] }

/-- What every command of the executing thread carries. -/
def State.bankCmd (s : State) : BankCmd where
  id := s.me.seq
  core := s.cur.core
  ctx := s.cur.ctx
  gen := s.me.gen
  lid := s.me.lid
  seq := s.me.seq
  qpos := s.myCore.nextStore
  space := s.me.space
  ch := 0
  valid := false
  load := false
  start := 0
  words := []
  w0 := 0
  w1 := 0
  w2 := 0
  w3 := 0
  payload := []
  fa := 0
  fb := 0
  fc := 0
  rm := 0
  sat := false
  scm := 0
  rd := none
  wr := none

def execBkpush (d : BitVec 5) (a : BitVec 3) (s : State) : Out :=
  s.accepts bkpushFmt fun p =>
    let w := s.me.rx d
    if bankPayloadOk w = false then .next (s.trapMe 3 0 w)
    else s.withPayload 0 (bits w 0 21) (bits w 32 9) fun bs =>
      if 16 ≤ s.me.bankQ.length then .next s.stall
      else
        let t := s.me
        let s := s.pushBank { s.bankCmd with
          w0 := t.rx (quad a 0), w1 := t.rx (quad a 1), w2 := t.rx (quad a 2), w3 := t.rx (quad a 3), payload := bs,
          fa := BitVec.ofNat 4 (codeOr p.fa 11), fb := BitVec.ofNat 4 (codeOr p.fb 1), fc := BitVec.ofNat 4 (codeOr p.fc 6),
          rm := rmCode p.rm t.rmode, sat := p.sat, scm := BitVec.ofNat 3 p.scm }
        s.finish s.me

/-- Does an address of a thread lie in a layout 2 page (27 R355)? -/
def State.inChannel (s : State) (n : Nat) (space : BitVec 12) (va : Word) : Bool :=
  decide (bits va 56 8 < 8) && (match s.tlbOf n space va with
    | some e => decide (bits e.te1 56 2 = 2)
    | none => false)

/-- An engine address of BKLOAD or BKSTAT, checked as an access of a kind (26 R335, R336, 27 R355). -/
def State.withEngine (s : State) (kind : Nat) (va : Word) (k : Nat → State → Out) : Out :=
  s.withAcc kind 1 va false fun acc s =>
    if s.inChannel s.cur.core s.me.space va then k (acc.loc / chanSize) s else .next (s.trapMe 3 kind va)

/-- 32-bit words of bytes. -/
def wordsOfBytes (n : Nat) (bs : List Byte) : List (BitVec 32) :=
  (List.range n).map fun i => BitVec.ofNat 32 (joinBytes ((bs.drop (4 * i)).take 4))

def execBkload (d a b : BitVec 5) (s : State) : Out :=
  s.plain (s.withEngine 1 (s.me.rx d) fun ch s =>
    let va := s.me.rx a
    s.withScratch 1 4 4 va fun acc =>
      let x := s.me.rx b
      let start := bits x 16 10
      let count := bits x 0 11
      let off := scratchOff acc.loc
      if scratchCore acc.loc ≠ s.cur.core then .next (s.trapMe 3 1 va)
      else if bits x 11 5 ≠ 0 ∨ bits x 26 38 ≠ 0 ∨ count = 0 ∨ 1024 < start + count then .next (s.trapMe 3 1 x)
      else if 2 ^ 20 < off + 4 * count then .next (s.trapMe 3 1 (va + BitVec.ofNat 64 (2 ^ 20 - off)))
      else s.withPayload 1 off (4 * count) fun bs =>
        if 16 ≤ s.me.bankQ.length then .next s.stall
        else
          let s := s.pushBank { s.bankCmd with ch := ch, valid := true, load := true, start := start, words := wordsOfBytes count bs, w1 := s.me.rx d }
          s.finish s.me)

def execBkpop (d : BitVec 5) (s : State) : Out :=
  s.plain (match s.me.bankQ with
    | [] => s.finish (s.me.wx d 0xF000000000000000)
    | r :: q => match r.record with
      | none => .next s.stall
      | some w => s.popRecord 55 d r w fun t => { t with bankQ := q })

def execBkstat (d a b : BitVec 5) (l : BitVec 4) (s : State) : Out :=
  s.plain (s.withEngine 0 (s.me.rx a) fun ch s =>
    .next (s.openWin s.me (.x d) 0xFFFF l (.bkstat (s.me.rx a) ch ((s.me.rx b).getLsbD 0)) none))

/-! ### Engines -/

def State.eng (s : State) (ch : Nat) : Engine :=
  mget Engine.reset s.engines ch

def State.setEng (s : State) (ch : Nat) (e : Engine) : State :=
  { s with engines := mset Engine.reset s.engines ch e }

/-- An engine's instruction word (26 R326). -/
def Engine.word (e : Engine) (i : Nat) : BitVec 32 :=
  mget 0xF0000000 e.istore i

def BankCmd.tag (c : BankCmd) : Nat := if c.load then 0 else bits c.w3 32 16
def BankCmd.rlen (c : BankCmd) : Nat := bits c.w0 32 32
def BankCmd.wlen (c : BankCmd) : Nat := bits c.w0 0 32

/-- BKSTAT's value (26 R336). -/
def State.bkstatValue (s : State) (ch : Nat) (sel : Bool) : Word :=
  let e := s.eng ch
  BitVec.ofNat 64 (if sel then s.usableOf ch / 2 ^ 16 * 2 ^ 16 + ch
    else (match e.run with
      | some r => r.pc % 1024 * 2 ^ 54 + 2 ^ 53 + r.cmd.tag * 2 ^ 32
      | none => 0) + min 16 e.fifo.length * 2 ^ 48 + e.done.toNat)

/-- BKSTAT_SAMPLE: the request arrives at the engine and takes the value (26 R336). -/
def execBkstatSample (core ctx seq : Nat) (s : State) : Out :=
  .next (match s.winOf core ctx seq with
    | some w => match w.pend with
      | .bkstat _ ch sel => s.land core ctx seq (.val ((s.bkstatValue ch sel).setWidth 512))
      | _ => s
    | none => s)

/-! ### A push reaches its engine (26 R329, R331; 27 R354) -/

/-- What validating a range gives: the page, the CAUSE of STATUS 1, or a wait for a walk. -/
def State.bankPage (s : State) (c : BankCmd) (va : Word) (len kind : Nat) : Eng (Option BankPage) × State :=
  if len = 0 then (.ok none, s)
  else
    let r := s.engLook c.core 81 c.space va kind 1
    match r.1 with
    | .wait => (.wait, r.2)
    | .fail e => (.fail e, r.2)
    | .ok a => if r.2.inChannel c.core c.space va then match r.2.tlbOf c.core c.space va with
        | some e =>
          let off := a.loc % chanSize
          (.ok (some ⟨a.loc / chanSize, off - bits va 0 (pageShift e.te0), 2 ^ pageShift e.te0, off, len, a.key, a.buf⟩), r.2)
        | none => (.fail 3, r.2)
      else (.fail 3, r.2)

/-- Does a range pass the end of its page? -/
def BankPage.past (p : BankPage) : Bool :=
  decide (p.first + p.len < p.off + p.rlen)

/-- A validated command, or the STATUS and CAUSE of its record (26 R329). -/
def State.validateBank (s : State) (c : BankCmd) : Eng (Except (Nat × Nat) BankCmd) × State :=
  if bits c.w3 58 6 ≠ 0 ∨ (c.rlen = 0 ∧ c.wlen = 0) then (.ok (.error (2, 0)), s)
  else
    let r := s.bankPage c c.w1 c.rlen 0
    match r.1 with
    | .wait => (.wait, r.2)
    | .fail e => (.ok (.error (1, e)), r.2)
    | .ok rd =>
      let q := r.2.bankPage c c.w2 c.wlen 2
      match q.1 with
      | .wait => (.wait, q.2)
      | .fail e => (.ok (.error (1, e)), q.2)
      | .ok wr =>
        let ps := rd.toList ++ wr.toList
        let ch := (ps.map BankPage.ch).headD 0
        if ps.any BankPage.past ∨ (ps.any fun p => decide (p.ch ≠ ch)) then (.ok (.error (2, 0)), q.2)
        else (.ok (.ok { c with ch := ch, valid := true, rd := rd, wr := wr }), q.2)

/-- Post a record into the command's place; a retired pusher's is discarded (26 R347). -/
def State.postBank (s : State) (c : BankCmd) (w : Word) : State :=
  let t := s.ctx c.core c.ctx
  if t.gen = c.gen then
    s.setCtx c.core c.ctx { t with bankQ := t.bankQ.map fun r =>
      if r.cmd = c.id ∧ r.record = none then
        { r with record := some w, ranges := c.wr.toList.map fun p => (p.ch * chanSize + p.off, p.rlen) } else r }
  else s

/-- Must a command let an earlier one of its thread go first: in validation, or at the same engine? -/
def BankCmd.after (c b : BankCmd) : Bool :=
  decide (b.core = c.core ∧ b.ctx = c.ctx ∧ b.gen = c.gen ∧ b.seq < c.seq) && (!b.valid || (c.valid && decide (b.ch = c.ch)))

/-- The commands on their way with one replaced or taken out. -/
def State.putBank (s : State) (k : Nat) (c : Option BankCmd) : State :=
  { s with bankCmds := match c with
    | some b => setNth s.bankCmds k b
    | none => dropNth s.bankCmds k }

/-- A validated command takes a FIFO place; beyond the 16 places it waits (26 R331). -/
def State.enterFifo (s : State) (k : Nat) (c : BankCmd) : State :=
  let e := s.eng c.ch
  if e.fifo.length < 16 then (s.putBank k none).setEng c.ch { e with fifo := e.fifo ++ [c] } else s.putBank k (some c)

/-- BANK_COMMAND_PUSH: a command is validated, and takes its place in its engine's FIFO. -/
def execBankCommandPush (msg : Nat) (s : State) : Out :=
  .next (match nth s.bankCmds msg with
    | none => s
    | some c =>
      if s.bankCmds.any c.after then s
      else if c.valid then s.enterFifo msg c
      else
        let r := s.validateBank c
        match r.1 with
        | .wait | .fail _ => r.2
        | .ok (.error (st, cause)) =>
          (r.2.putBank msg none).postBank c (BitVec.ofNat 64 (st * 2 ^ 60 + cause * 2 ^ 47 + c.tag * 2 ^ 16))
        | .ok (.ok b) => if s.bankCmds.any b.after then r.2.putBank msg (some b) else r.2.enterFifo msg b)

/-! ### A command starts and ends (26 R331, R335, R345; 04 R52, R54) -/

/-- The slice lines that meet a range of a channel. -/
def State.linesIn (s : State) (p : BankPage) : List Nat :=
  (s.lines.map (·.1)).filter fun ln => meets (ln * 64) 64 (p.ch * chanSize + p.off) p.rlen

/-- The registers of a starting command. -/
def BankCmd.regs (c : BankCmd) : Map (BitVec 32) :=
  let at0 := fun (p : Option BankPage) => BitVec.ofNat 32 ((p.map BankPage.off).getD 0)
  msetList 0 [] 0 [at0 c.rd, at0 c.wr, c.w3.setWidth 32]

/-- BANK_COMMAND_START: an idle engine takes its oldest command once the pusher's release holds; dirty slice lines of the read range are
written back and those of the write range leave the slice (04 R54). -/
def execBankCommandStart (ch : Nat) (s : State) : Out :=
  .next (
    let e := s.eng ch
    match e.run, e.fifo with
    | none, c :: q =>
      if s.gate c.core c.ctx c.seq c.qpos 5 then
        let s1 := (c.rd.toList.flatMap s.linesIn).foldl (fun s ln => s.writeBack ln false) s
        let s2 := (c.wr.toList.flatMap s.linesIn).foldl (fun s ln => s.writeBack ln true) s1
        s2.setEng ch { e with
          fifo := q, loops := [], e := c.regs, payload := c.payload ++ List.replicate (256 - c.payload.length) 0,
          fa := c.fa, fb := c.fb, fc := c.fc, rm := c.rm, sat := c.sat, scm := c.scm,
          run := some ⟨c, if c.load then c.start else bits c.w3 48 10, s.clock.toNat, 0, none, none⟩ }
      else s
    | _, _ => s)

/-- An engine's running command and the way it ends, if it has. -/
def State.putRun (s : State) (ch : Nat) (r : BankRun) : State :=
  s.setEng ch { s.eng ch with run := some r }

/-- The running command ends; it posts its record later. -/
def State.endRun (s : State) (ch : Nat) (r : BankRun) (status cause : Nat) (code : BitVec 16) : State :=
  s.putRun ch { r with ended := some ⟨status, cause, code⟩ }

/-- BKLOAD_RUN: a BKLOAD writes its words (26 R335). -/
def execBkloadRun (ch : Nat) (s : State) : Out :=
  .next (match (s.eng ch).run with
    | some r =>
      if r.cmd.load ∧ r.ended = none then
        let e := s.eng ch
        (s.setEng ch { e with istore := msetList 0xF0000000 e.istore r.cmd.start r.cmd.words }).endRun ch r 0 0 0
      else s
    | none => s)

/-- ENGINE_WATCHDOG: a command that has run 2^24 engine cycles ends with STATUS 5 (26 R345). -/
def execEngineWatchdog (ch : Nat) (s : State) : Out :=
  .next (match (s.eng ch).run with
    | some r => if r.ended = none ∧ r.startAt + Config.engineWatchdog ≤ s.clock.toNat then s.endRun ch r 5 0 0 else s
    | none => s)

/-- How a command ended, with its transfers' faults (26 R345): a fault of its own stands, else the fault of the transfer started
first replaces its status and cause. -/
def BankRun.final (r : BankRun) (d : BankEnd) : BankEnd :=
  if d.status = 1 ∧ d.cause ≠ 0 then d
  else match r.xferFault with
    | some (_, c) => ⟨1, c, d.code⟩
    | none => d

/-- BANK_RECORD_POST: an ended command with no transfer pending posts its record and frees the engine (26 R333, R345). -/
def execBankRecordPost (ch : Nat) (s : State) : Out :=
  .next (
    let e := s.eng ch
    match e.run with
    | some r => match r.ended, e.xfers with
      | some d0, [] =>
        let d := r.final d0
        let w := d.status * 2 ^ 60 + r.flags.toNat * 2 ^ 55 + d.cause * 2 ^ 47 + min r.pc 1023 * 2 ^ 37 + r.cmd.tag * 2 ^ 16 + d.code.toNat
        (s.setEng ch { e with run := none, done := e.done + 1 }).postBank r.cmd (BitVec.ofNat 64 w)
      | _, _ => s
    | none => s)

/-! ### An engine's memory (26 R332, R346) -/

/-- The page of a command that holds an offset: for a read either page, for a write the write page. -/
def BankCmd.pageAt (c : BankCmd) (write : Bool) (off : Nat) : Option BankPage :=
  ((if write then c.wr.toList else c.rd.toList ++ c.wr.toList)).find? fun p => decide (p.first ≤ off ∧ off < p.first + p.len)

/-- Does every byte of a range lie in a page the command named? -/
def BankCmd.covers (c : BankCmd) (off n : Nat) : Bool :=
  (List.range ((off + n - 1) / 64 - off / 64 + 1)).all fun k => (c.pageAt false (max off ((off / 64 + k) * 64))).isSome

/-- Read bytes line by line at the channel: the value and whether a word is poisoned. -/
def State.chanRead (s : State) (c : BankCmd) (off n fuel : Nat) : (Nat × Bool) × State :=
  match fuel with
  | 0 => ((0, false), s)
  | f + 1 =>
    if n = 0 then ((0, false), s)
    else
      let k := min n (64 - off % 64)
      let p := (c.pageAt false off).getD ⟨0, 0, 0, 0, 0, 0, 0⟩
      let r := s.dramLine ((c.ch * chanSize + off) / 64) p.key p.buf
      let q := r.2.chanRead c (off + k) (n - k) f
      ((vecGet r.1.data (off % 64) k + q.1.1 * 2 ^ (8 * k), r.1.bad (off % 64) k || q.1.2), q.2)

/-- A read of a command: its value or the CAUSE of the fault it meets. -/
def State.bankRead (s : State) (c : BankCmd) (off n : Nat) : Except Nat Nat × State :=
  if n = 0 then (.ok 0, s)
  else if c.covers off n then
    let r := s.chanRead c off n (n / 64 + 2)
    (if r.1.2 then .error 5 else .ok r.1.1, r.2)
  else (.error 3, s)

/-- A write of a command within one line, merged at the channel; none where it leaves the write page. -/
def State.bankWrite (s : State) (c : BankCmd) (off n w : Nat) : Option State :=
  (c.pageAt true off).map fun p =>
    let ln := (c.ch * chanSize + off) / 64
    let r := s.dramLine ln p.key p.buf
    let whole : BitVec 8 := (List.range 8).foldl (fun m i =>
      if decide (off % 64 ≤ i * 8 ∧ i * 8 + 8 ≤ off % 64 + n) then m ||| (1 <<< i) else m) 0
    r.2.dramPut ln { r.1 with data := vecPut r.1.data (off % 64) n w, pois := r.1.pois &&& ~~~whole, key := p.key, buf := p.buf }

/-! ### Transfers (26 R340) -/

/-- The number of a transfer. -/
def Xfer.id (x : Xfer) : Nat :=
  match x with
  | .lda i _ _ _ _ _ | .copy i _ _ _ _ => i

/-- The parts of a transfer: the lines of a BLDA, the 8-byte words of a BCOPY. -/
def Xfer.parts (x : Xfer) : Nat :=
  match x with
  | .lda _ _ _ n _ _ => n
  | .copy _ _ _ n _ => n / 8

/-- Is a part of a transfer still to be moved, and may it be? A BCOPY's lines ascend, the words of one in any order; a BLDA's lines may come in
any order: what a word that does not wait reads is old or new for each part (26 R340). -/
def Xfer.mayMove (x : Xfer) (k : Nat) : Bool :=
  decide (k < x.parts) && (match x with
    | .lda _ _ _ _ _ done => !done.contains k
    | .copy _ _ _ _ done => !done.contains k &&
        (List.range (k / 8 * 8)).all fun j => done.contains j)

/-- A part has been moved. -/
def Xfer.mark (x : Xfer) (k : Nat) : Xfer :=
  match x with
  | .lda i ab o n src done => .lda i ab o n src (k :: done)
  | .copy i a d n done => .copy i a d n (k :: done)

/-- Line k of an activation buffer's load: the fault it meets, and the state. -/
def State.loadLine (s : State) (ch : Nat) (c : BankCmd) (ab doff : Nat) (src : Option Nat) (k : Nat) : Option Nat × State :=
  match src with
  | none =>
    let e := s.eng ch
    (none, s.setEng ch { e with ab := msetList 0 e.ab (16384 * ab + 64 * (doff + k)) ((e.payload.drop (64 * k)).take 64) })
  | some a =>
    let r := s.bankRead c (a + 64 * k) 64
    match r.1 with
    | .error f => (some f, r.2)
    | .ok v =>
      let e := r.2.eng ch
      (none, r.2.setEng ch { e with ab := msetList 0 e.ab (16384 * ab + 64 * (doff + k)) (splitBytes 64 v) })

/-- Word k of a copy; the line that holds it is read whole. -/
def State.copyWord (s : State) (c : BankCmd) (a d k : Nat) : Option Nat × State :=
  let r := s.bankRead c (a + 64 * (k / 8)) 64
  match r.1 with
  | .error f => (some f, r.2)
  | .ok v => match r.2.bankWrite c (d + 8 * k) 8 (v / 2 ^ (64 * (k % 8)) % 2 ^ 64) with
    | none => (some 3, r.2)
    | some s1 => (none, s1)

/-- Move one part of a transfer. -/
def State.movePart (s : State) (ch : Nat) (c : BankCmd) (x : Xfer) (k : Nat) : Option Nat × State :=
  match x with
  | .lda _ ab doff _ src _ => s.loadLine ch c ab doff src k
  | .copy _ a d _ _ => s.copyWord c a d k

/-- Move parts in order, up to the first fault. -/
def State.moveParts (s : State) (ch : Nat) (c : BankCmd) (x : Xfer) (ks : List Nat) : Option Nat × State :=
  match ks with
  | [] => (none, s)
  | k :: r =>
    let q := s.movePart ch c x k
    match q.1 with
    | some f => (some f, q.2)
    | none => q.2.moveParts ch c x r

/-- A transfer of the running command. -/
def State.xferOf (s : State) (ch id : Nat) : Option (BankRun × Xfer) :=
  match (s.eng ch).run, (s.eng ch).xfers.find? fun x => decide (x.id = id) with
  | some r, some x => some (r, x)
  | _, _ => none

/-- XFER: one part of a pending transfer is moved ahead of the transfer's end; one that faults stays for the end (26 R340). -/
def State.xferTurn (s : State) (ch id k : Nat) : State :=
  match s.xferOf ch id with
  | none => s
  | some (r, x) =>
    if x.mayMove k = false then s
    else
      let q := s.movePart ch r.cmd x k
      match q.1 with
      | some _ => s
      | none =>
        let e := q.2.eng ch
        q.2.setEng ch { e with xfers := e.xfers.map fun y => if y.id = id then y.mark k else y }

/-- A transfer has finished; the fault of the one started first counts, and ends a command still running (26 R345). -/
def State.xferDone (s : State) (ch id : Nat) (fault : Option Nat) : State :=
  let e := s.eng ch
  let e1 := { e with xfers := e.xfers.filter fun x => decide (x.id ≠ id) }
  match fault, e.run with
  | some f, some r =>
    let first : Nat × Nat := match r.xferFault with
      | some (i, g) => if i < id then (i, g) else (id, f)
      | none => (id, f)
    s.setEng ch { e1 with run := some { r with xferFault := some first, ended := some (r.ended.getD ⟨1, 0, 0⟩) } }
  | _, _ => s.setEng ch e1

/-- A transfer moves what it has not moved, up to the first fault, and finishes. -/
def State.finishXfer (s : State) (ch id : Nat) (r : BankRun) (x : Xfer) : State :=
  let done := match x with
    | .lda _ _ _ _ _ l | .copy _ _ _ _ l => l
  let q := s.moveParts ch r.cmd x ((List.range x.parts).filter fun k => !done.contains k)
  q.2.xferDone ch id q.1

/-- BLDA_COMPLETE: a background load of an activation buffer finishes. -/
def execBldaComplete (ch id : Nat) (s : State) : Out :=
  .next (match s.xferOf ch id with
    | some (r, .lda i ab o n src l) => s.finishXfer ch id r (.lda i ab o n src l)
    | _ => s)

/-- BCOPY_COMPLETE: a background copy finishes. -/
def execBcopyComplete (ch id : Nat) (s : State) : Out :=
  .next (match s.xferOf ch id with
    | some (r, .copy i a d n l) => s.finishXfer ch id r (.copy i a d n l)
    | _ => s)

/-! ### Bank code (26 R337 to R344) -/

def Engine.re (e : Engine) (i : BitVec 4) : Nat := (mget 0 e.e i.toNat).toNat
def Engine.we (e : Engine) (i : BitVec 4) (v : Nat) : Engine := { e with e := mset 0 e.e i.toNat (BitVec.ofNat 32 v) }

/-- What a word does to the engine: it goes on at a word, waits, or ends the command. -/
inductive BankStep where
  | goto (pc : Nat) (e : Engine)
  | wait
  | stop (status cause : Nat) (code : BitVec 16)

/-- Run a word that touches the engine alone. -/
def State.onEngine (s : State) (f : Engine → BankRun → BankStep) : Out :=
  .next (
    let ch := s.cur.ch
    let e := s.eng ch
    match e.run with
    | none => s
    | some r =>
      if r.ended.isSome then s
      else match f e r with
        | .goto pc e1 => s.setEng ch { e1 with run := some { r with pc := pc } }
        | .wait => s
        | .stop st cause code => s.endRun ch r st cause code)

def execBnop (s : State) : Out :=
  s.onEngine fun e r => .goto (r.pc + 1) e

def execBset (d z : BitVec 4) (i : BitVec 20) (s : State) : Out :=
  s.onEngine fun e r => .goto (r.pc + 1) (e.we d (i.toNat * 2 ^ z.toNat))

def execBadd (d a : BitVec 4) (i : BitVec 20) (s : State) : Out :=
  s.onEngine fun e r => .goto (r.pc + 1) (e.we d (e.re a + (i.signExtend 32).toNat))

/-- Start a transfer. -/
def Engine.start (e : Engine) (x : Nat → Xfer) : Engine :=
  { e with xfers := e.xfers ++ [x e.nextXfer], nextXfer := e.nextXfer + 1 }

def execBlda (b : BitVec 3) (a : BitVec 4) (l : BitVec 12) (o : BitVec 8) (s : State) : Out :=
  s.onEngine fun e r =>
    if e.re a % 64 ≠ 0 then .stop 1 2 0 else .goto (r.pc + 1) (e.start fun id => .lda id b.toNat o.toNat l.toNat (some (e.re a)) [])

def execBldaP (b : BitVec 3) (l : BitVec 12) (o : BitVec 8) (s : State) : Out :=
  s.onEngine fun e r => .goto (r.pc + 1) (e.start fun id => .lda id b.toNat o.toNat l.toNat none [])

/-- BLOOP reads its count once; the word it names must be BEND. -/
def execBloop (c : BitVec 4) (k : BitVec 10) (s : State) : Out :=
  s.onEngine fun e r =>
    let target := r.pc + k.toNat
    if 1023 < target ∨ e.word target ≠ 0x80000000 then .stop 4 0 0
    else if e.re c = 0 then .goto (target + 1) e
    else if 4 ≤ e.loops.length then .stop 4 0 0
    else .goto (r.pc + 1) { e with loops := (r.pc + 1, BitVec.ofNat 32 (e.re c)) :: e.loops }

def execBend (s : State) : Out :=
  s.onEngine fun e r => match e.loops with
    | [] => .stop 4 0 0
    | (start, n) :: t => if n = 1 then .goto (r.pc + 1) { e with loops := t } else .goto start { e with loops := (start, n - 1) :: t }

/-- Is a transfer pending that BWAIT waits for? -/
def Engine.pending (e : Engine) (m : BitVec 8) (c : Bool) : Bool :=
  e.xfers.any fun x => match x with
    | .lda _ ab _ _ _ _ => m.getLsbD ab
    | .copy _ _ _ _ _ => c

def execBwait (m : BitVec 8) (c : BitVec 1) (s : State) : Out :=
  s.onEngine fun e r => if e.pending m (decide (c = 1)) then .wait else .goto (r.pc + 1) e

def execBfmt (a b c : BitVec 4) (m : BitVec 3) (sat : BitVec 1) (scm : BitVec 3) (nosc : BitVec 1) (s : State) : Out :=
  s.onEngine fun e r => .goto (r.pc + 1) { e with
    fa := if a = 0 then e.fa else a, fb := if b = 0 then e.fb else b, fc := if c = 0 then e.fc else c, rm := if m = 0 then e.rm else m,
    sat := decide (sat = 1), scm := if nosc = 1 then 0 else if scm = 0 then e.scm else scm }

/-- Are result rows within the buffer? -/
def rowsOk (r n : Nat) : Bool := decide (r + n ≤ 1024)

/-- BZERO checks its rows before it writes any. -/
def execBzero (d n : BitVec 4) (s : State) : Out :=
  s.onEngine fun e r =>
    if e.re n = 0 then .goto (r.pc + 1) e
    else if rowsOk (e.re d) (e.re n) = false then .stop 1 3 0
    else .goto (r.pc + 1) { e with result := e.result.filter fun q => !(decide (e.re d ≤ q.1 / 8 ∧ q.1 / 8 < e.re d + e.re n)) }

def execBcopy (d a b : BitVec 4) (s : State) : Out :=
  s.onEngine fun e r =>
    if e.re a % 64 ≠ 0 ∨ e.re d % 64 ≠ 0 ∨ e.re b % 64 ≠ 0 then .stop 1 2 0
    else .goto (r.pc + 1) (e.start fun id => .copy id (e.re a) (e.re d) (e.re b) [])

def execBhalt (s : State) : Out :=
  s.onEngine fun _ _ => .stop 0 0 0

def execBtrap (c : BitVec 16) (s : State) : Out :=
  s.onEngine fun _ _ => .stop 3 0 c

/-- Run a word that also reads or writes the channel: `f` answers the fault, if any, and the state it leaves. -/
def State.onChannel (s : State) (f : Engine → BankRun → Option BankStep) (g : Engine → BankRun → State → Option Nat × State) : Out :=
  let ch := s.cur.ch
  match (s.eng ch).run with
  | none => .next s
  | some r =>
    if r.ended.isSome then .next s
    else match f (s.eng ch) r with
      | some _ => s.onEngine fun e r => (f e r).getD .wait
      | none =>
        let q := g (s.eng ch) r s
        let r1 := ((q.2.eng ch).run).getD r
        .next (match q.1 with
          | some c => q.2.endRun ch r1 1 c 0
          | none => q.2.putRun ch { r1 with pc := r1.pc + 1 })

/-- BSYNC waits for every transfer, then writes its word at the channel (26 R340, R346). -/
def execBsync (a b : BitVec 4) (s : State) : Out :=
  s.onChannel
    (fun e _ => if e.xfers ≠ [] then some .wait else if e.re a % 8 ≠ 0 then some (.stop 1 2 0) else none)
    (fun e r s => match s.bankWrite r.cmd (e.re a) 8 (e.re b) with
      | none => (some 3, s)
      | some s1 => (none, s1))

/-- Steps 2 to 4 of 26 R341. -/
def rowChecks (a : Nat) (n R : Nat) (aligned : Nat → Bool) (go : Engine) (pc : Nat) : Option BankStep :=
  if n = 0 then some (.goto (pc + 1) go)
  else if rowsOk R n = false then some (.stop 1 3 0)
  else if aligned a = false then some (.stop 1 2 0)
  else none

/-- The result columns a MASK names, ascending. -/
def maskCols (m : BitVec 8) : List Nat :=
  (List.range 8).filter fun v => m.getLsbD v

/-- Change entries of the result buffer and add flags to the command's. -/
def State.putResults (s : State) (ch : Nat) (es : List (Nat × Nat × Flags5)) : State :=
  let e := s.eng ch
  s.setEng ch { e with
    result := es.foldl (fun m q => mset 0 m q.1 (BitVec.ofNat 32 q.2.1)) e.result,
    run := e.run.map fun r => { r with flags := es.foldl (fun f q => f ||| q.2.2) r.flags } }

/-- Is the current pair of formats a kind of 26 R342? -/
def Engine.browKind (e : Engine) : Bool :=
  match e.fa.toNat, e.fb.toNat with
  | 11, 1 | 12, 1 | 1, 1 | 11, 7 => true
  | _, _ => false

/-- Cut a list into groups of 32. -/
def groups32 {α : Type} (l : List α) (fuel : Nat) : List (List α) :=
  match fuel with
  | 0 => []
  | f + 1 => if l.isEmpty then [] else l.take 32 :: groups32 (l.drop 32) f

/-- One entry of BROW: the old entry, the weights and the activations (26 R342). -/
def Engine.dot (e : Engine) (k : Nat) (row : Nat) (v old : Nat) : Nat × Flags5 :=
  let fa := e.fa.toNat
  let fb := e.fb.toNat
  let wa := fmtWidth fa
  let wb := fmtWidth fb
  let ws := (List.range k).map fun i => row / 2 ^ (wa * i) % 2 ^ wa
  let xs := (List.range k).map fun i => joinBytes ((List.range (wb / 8)).map fun j => mget 0 e.ab (16384 * v + i * (wb / 8) + j))
  if fb = 7 then
    (groups32 (ws.zip xs) (k / 32 + 1)).foldl (fun (r : Nat × Flags5) g =>
      let q := kGroup (modeRM e.rm 0) r.1 (g.map fun p => ((srcVal (numFmt fa) p.1).1, (srcVal (numFmt fb) p.2).1))
      (q.1, r.2 ||| q.2)) (old, 0)
  else (intBits 32 ((ws.zip xs).foldl (fun (t : Int) p => t + intProd (numFmt fa) p.1 (intOf 8 true p.2)) (intOf 32 true old)), 0)

/-- The rows of BROW, ascending, up to the first fault. -/
def State.browRows (s : State) (ch : Nat) (c : BankCmd) (cols : List Nat) (k bytes a R n : Nat) : Option Nat × State :=
  match n with
  | 0 => (none, s)
  | m + 1 =>
    let q := s.bankRead c a bytes
    match q.1 with
    | .error f => (some f, q.2)
    | .ok row =>
      let e := q.2.eng ch
      let es := cols.map fun v => (8 * R + v, e.dot k row v (mget 0 e.result (8 * R + v)).toNat)
      (q.2.putResults ch es).browRows ch c cols k bytes (a + bytes) (R + 1) m

def execBrow (m : BitVec 8) (a n k z : BitVec 4) (s : State) : Out :=
  s.onChannel
    (fun e r =>
      if e.browKind = false then some (.stop 4 0 0)
      else rowChecks (e.re a) (e.re n) (e.re z)
        (fun o => decide (o % 8 = 0 ∧ e.re k % 16 = 0 ∧ e.re k * fmtWidth e.fb.toNat / 8 ≤ 16384)) e r.pc)
    (fun e r s => s.browRows s.cur.ch r.cmd (maskCols m) (e.re k) (e.re k * fmtWidth e.fa.toNat / 8) (e.re a) (e.re z) (e.re n))

/-- How many scales BSCL reads (26 R343). -/
def bsclCount (scm n : Nat) : Nat := [0, n, 8, n + 8, 1].getD scm 0

/-- The scales of entry (R + r, v). -/
def bsclScales (scm : Nat) (xs : Nat → Nat) (n r v : Nat) : List Nat :=
  match scm with
  | 1 => [xs r]
  | 2 => [xs v]
  | 3 => [xs r, xs (n + v)]
  | 4 => [xs 0]
  | _ => []

def execBscl (m : BitVec 8) (a n z : BitVec 4) (s : State) : Out :=
  s.onChannel
    (fun e r => rowChecks (e.re a) (e.re n) (e.re z) (fun o => decide (e.scm = 0 ∨ o % 4 = 0)) e r.pc)
    (fun e r s =>
      let q := s.bankRead r.cmd (e.re a) (4 * bsclCount e.scm.toNat (e.re n))
      match q.1 with
      | .error f => (some f, q.2)
      | .ok w =>
        let isInt := decide (e.fb = 1)
        let f := if e.fb = 1 ∧ (e.fa = 11 ∨ e.fa = 12) then 6 else 0
        let es := (List.range (e.re n)).flatMap fun i => (maskCols m).map fun v =>
          let key := 8 * (e.re z + i) + v
          (key, drain isInt f (mget 0 e.result key).toNat (bsclScales e.scm.toNat (fun j => w / 2 ^ (32 * j) % 2 ^ 32) (e.re n) i v)
            (numFmt e.fc.toNat) (modeRM e.rm 0) e.sat)
        (none, q.2.putResults s.cur.ch es))

/-- Write bytes in ascending order, each 8-byte word at once, up to the first word that leaves the write page (26 R344). A step takes one
byte or more, so `fuel` is the number of bytes. -/
def State.writeWords (s : State) (c : BankCmd) (a : Nat) (bs : List Byte) (fuel : Nat) : Option Nat × State :=
  match fuel with
  | 0 => (none, s)
  | f + 1 =>
    if bs.isEmpty then (none, s)
    else
      let k := min bs.length (8 - a % 8)
      match s.bankWrite c a k (joinBytes (bs.take k)) with
      | none => (some 3, s)
      | some s1 => s1.writeWords c (a + k) (bs.drop k) f

/-- The output of BWR: vector after vector, the rows of each in order (26 R344). -/
def Engine.output (e : Engine) (cols : List Nat) (R n : Nat) : List Byte :=
  cols.flatMap fun v => (List.range n).flatMap fun i =>
    splitBytes (fmtWidth e.fc.toNat / 8) (mget 0 e.result (8 * (R + i) + v)).toNat

def execBwr (m : BitVec 8) (a n z : BitVec 4) (s : State) : Out :=
  s.onChannel
    (fun e r => rowChecks (e.re a) (e.re n) (e.re z) (fun o => decide (o % (fmtWidth e.fc.toNat / 8) = 0)) e r.pc)
    (fun e r s =>
      let bs := e.output (maskCols m) (e.re z) (e.re n)
      s.writeWords r.cmd (e.re a) bs bs.length)

/-! ### The engine runs its next word (26 R337) -/

/-- The meanings of the bank-code rows. -/
def execAlg : BankAlg (State → Out) where
  bnop := execBnop
  bset := execBset
  badd := execBadd
  blda := execBlda
  bldaP := execBldaP
  brow := execBrow
  bscl := execBscl
  bwr := execBwr
  bloop := execBloop
  bend := execBend
  bsync := execBsync
  bwait := execBwait
  bfmt := execBfmt
  bzero := execBzero
  bcopy := execBcopy
  bhalt := execBhalt
  btrap := execBtrap

/-- An engine with a running command runs the word at its pc; an illegal word, or a pc past the store, ends the command with STATUS 4. -/
def State.engineTurn (s : State) (ch : Nat) : Out :=
  let s := { s with cur := { s.cur with ch := ch } }
  let e := s.eng ch
  match e.run with
  | none => .next s
  | some r =>
    if r.ended.isSome || r.cmd.load then .next s
    else if 1023 < r.pc then .next (s.endRun ch { r with pc := 1023 } 4 0 0)
    else match decodeBankWith execAlg (e.word r.pc) with
      | some f => f s
      | none => .next (s.endRun ch r 4 0 0)

end Sys2Proof.Machine
end

