-- ==== Sys2Proof/Machine/Query.lean ====
section
/-! DEFINITION. Query sets: membership, the rendezvous table, splitting, candidate queues and visited tables (20 R261 to R278, 21 R282). -/

namespace Sys2Proof.Machine

/-! ### Membership (20 R272) -/

/-- The number of ones. -/
def popCount (n : Nat) (w : Nat) : Nat :=
  ((List.range n).filter fun i => w.testBit i).length

/-- The members of a set from an index on, ascending. -/
def membersFrom (q : BitVec 256) (c : Nat) : List Nat :=
  (List.range 256).filter fun i => q.getLsbD i && decide (c ≤ i)

def execQdef (d : BitVec 5) (s : State) : Out :=
  s.plain (
    let t := { s.me with qm := s.me.qm ||| s.me.qd, qd := 0 }
    s.finish (t.wx d (BitVec.ofNat 64 (popCount 256 t.qm.toNat))))

def execQidx (d a : BitVec 5) (s : State) : Out :=
  s.plain (
    let t := s.me
    let l := membersFrom t.qm (t.rx a).toNat
    let t1 := (t.wv d (packEls 32 (l.take 16) 0xFFFFFFFF)).wk 7 (BitVec.ofNat 16 (2 ^ min l.length 16 - 1))
    s.finish (t1.wx a (if 16 < l.length then BitVec.ofNat 64 (l.getD 15 0 + 1) else 256)))

/-- The lowest member, all ones for none. -/
def lowest (q : BitVec 256) : Word :=
  match (membersFrom q 0).head? with
  | some i => BitVec.ofNat 64 i
  | none => ~~~0

/-- The set without its lowest member. -/
def dropLowest (q : BitVec 256) : BitVec 256 :=
  match (membersFrom q 0).head? with
  | some i => q &&& ~~~((1 : BitVec 256) <<< i)
  | none => q

def execQpop (d : BitVec 5) (s : State) : Out :=
  s.plain (s.finish ({ s.me with qm := dropLowest s.me.qm }.wx d (lowest s.me.qm)))

def execQfirst (d : BitVec 5) (s : State) : Out :=
  s.plain (s.finish (s.me.wx d (lowest s.me.qm)))

/-- Word w of a set, and the set with it replaced. -/
def setWord (q : BitVec 256) (w : Nat) : Word := q.extractLsb' (64 * w) 64
def putWord (q : BitVec 256) (w : Nat) (v : Word) : BitVec 256 :=
  (q &&& ~~~((0xFFFFFFFFFFFFFFFF : BitVec 256) <<< (64 * w))) ||| (v.setWidth 256 <<< (64 * w))

def execQget (d a : BitVec 5) (s : State) : Out :=
  s.plain (
    let t := s.me
    let x := t.rx a
    s.finish (t.wx d (setWord (if x.getLsbD 2 then t.qd else t.qm) (bits x 0 2))))

def execQput (a b : BitVec 5) (s : State) : Out :=
  s.plain (
    let t := s.me
    let x := t.rx a
    let w := bits x 0 2
    s.finish (if x.getLsbD 2 then { t with qd := putWord t.qd w (t.rx b) }.mend .qd else { t with qm := putWord t.qm w (t.rx b) }.mend .qm))

/-- The set of one slot that a register names. -/
def oneOf (x : Word) : BitVec 256 :=
  (1 : BitVec 256) <<< bits x 0 8

def execQadd (a : BitVec 5) (s : State) : Out :=
  s.plain (s.finish { s.me with qm := s.me.qm ||| oneOf (s.me.rx a) })

def execQdel (a : BitVec 5) (s : State) : Out :=
  s.plain (s.finish { s.me with qm := s.me.qm &&& ~~~oneOf (s.me.rx a) })

/-! ### The rendezvous table (20 R266 to R269) -/

/-- The entry of a key. -/
def Core.rvFind (c : Core) (lid : BitVec 32) (tag : BitVec 16) (node : BitVec 31) : Option Rendezvous :=
  c.rvt.find? fun e => decide (e.lid = lid ∧ e.tag = tag ∧ e.node = node)

/-- The place of a new entry: the lowest free one of the holder's bank, else of the lowest other bank that has one. -/
def Core.rvPlace (c : Core) (g : Nat) : Option Nat :=
  (((List.range 16).map fun j => 16 * g + j) ++ List.range 64).find? fun p => c.rvt.all fun e => decide (e.place ≠ p)

/-- Replace an entry. -/
def Core.rvPut (c : Core) (e : Rendezvous) : Core :=
  { c with rvt := c.rvt.map fun q => if q.place = e.place then e else q }

/-- Free an entry. -/
def Core.rvFree (c : Core) (e : Rendezvous) : Core :=
  { c with rvt := c.rvt.filter fun q => decide (q.place ≠ e.place) }

def execQarr (d a : BitVec 5) (s : State) : Out :=
  s.plain (
    let n := s.cur.core
    let i := s.cur.ctx
    let t := s.me
    let c := s.myCore
    let node : BitVec 31 := (t.rx a).setWidth 31
    if !s.gate n i t.seq c.nextStore 1 then .next s.stall
    else if t.qm = 0 then s.finish (t.wx d 2)
    else match c.rvFind t.lid t.qbat node with
      | some e =>
        if e.holder = i then s.finish (t.wx d 0)
        else if e.isSealed then s.finish (t.wx d 3)
        else
          let s := s.putCore (c.rvPut { e with mask := e.mask ||| t.qm, count := e.count + 1 })
          s.finish ({ s.me with qm := 0 }.wx d 1)
      | none => match c.rvPlace (groupOf i) with
        | some p =>
          let s := s.putCore { c with rvt := c.rvt ++ [⟨p, t.lid, t.qbat, node, false, i, 0, 0⟩] }
          s.finish (s.me.wx d 0)
        | none => s.finish (t.wx d 2))

/-- The entry that the executing context holds for a node. -/
def State.myEntry (s : State) (a : BitVec 5) : Option Rendezvous :=
  match s.myCore.rvFind s.me.lid s.me.qbat ((s.me.rx a).setWidth 31) with
  | some e => if e.holder = s.cur.ctx then some e else none
  | none => none

def execQseal (d a : BitVec 5) (s : State) : Out :=
  s.plain (match s.myEntry a with
    | none => s.finish (s.me.wx d (BitVec.ofNat 64 (2 ^ 63 + popCount 256 s.me.qm.toNat)))
    | some e =>
      let q := if e.isSealed then s.me.qm else s.me.qm ||| e.mask
      let s := (s.putCore (s.myCore.rvPut { e with isSealed := true })).acquired 1
      s.finish ({ s.me with qm := q }.wx d (BitVec.ofNat 64 (e.count * 2 ^ 16 + popCount 256 q.toNat))))

def execQdep (a : BitVec 5) (s : State) : Out :=
  s.plain (match s.myEntry a with
    | none => s.finish s.me
    | some e =>
      let s1 := s.putCore (s.myCore.rvFree e)
      if e.isSealed then s1.finish s1.me
      else
        let s2 := s1.acquired 1
        s2.finish { s2.me with qm := s2.me.qm ||| e.mask })

/-! ### Splitting (20 R270) -/

/-- The clone's context. -/
def Ctx.clone (t old : Ctx) (d : BitVec 5) (pc : Word) (q : BitVec 256) : Ctx :=
  { Ctx.reset with
    run := .ready, pc := pc, x := t.x, qm := q, tid := t.tid, lid := t.lid, rmode := t.rmode, ehandler := t.ehandler, cls := t.cls,
    space := t.space, cvd := t.cvd, qtb := t.qtb, qstr := t.qstr, qbat := t.qbat,
    spawnno := t.spawnno * 64 + t.scnt.setWidth 64 + 1, gen := old.gen, seq := old.seq }.wx d 1

def execQsplit (d a b : BitVec 5) (s : State) : Out :=
  s.plain (
    let n := s.cur.core
    let t := s.me
    let pc := t.rx b
    let p : BitVec 256 := (t.rv a).setWidth 256
    let L := t.qm &&& ~~~p
    let S := t.qm &&& p
    if pc.toNat % 4 ≠ 0 then .next (s.trapMe 2 0 pc)
    else if L = 0 then s.finish (t.wx d 0)
    else if S = 0 then s.finish (t.wx d 3)
    else if !s.gate n s.cur.ctx t.seq s.myCore.nextStore 1 then .next s.stall
    else if s.handedPast n 1 then .next s.stall
    else match s.idleFor n t.lid t.cls with
      | some j =>
        let s1 := (s.handOut n 1).setCtx n j (t.clone (s.ctx n j) d pc L)
        let s2 := s1.setCore n { s1.core n with held := (s1.core n).held.filter fun h => decide (h.1 ≠ j) }
        s2.finish ({ s2.me with qm := S, scnt := t.scnt + 1 }.wx d 1)
      | none => s.finish ({ t with qm := S, qd := t.qd ||| L, scnt := t.scnt + 1 }.wx d 2))

/-! ### Slots (20 R263 to R265) -/

/-- Bytes of a slot, and the own-scratch offset of slot k. -/
def Ctx.stride (t : Ctx) : Nat := 256 * 2 ^ t.qstr.toNat
def Ctx.slotOff (t : Ctx) (k : Nat) : Nat := t.qtb.toNat * 256 + k * t.stride

/-- The most candidates a slot may hold. -/
def Ctx.capMax (t : Ctx) : Nat := (t.stride - 64) / 8

/-- The executing core's scratch at an offset. -/
def State.mine (s : State) (off : Nat) : Nat := scratchAt s.cur.core + off

/-- n bytes of the executing core's scratch. -/
def State.peek (s : State) (off n : Nat) : Nat := s.rawRead (s.mine off) n

/-- Write n bytes of the executing core's scratch at the bank. -/
def State.poke (s : State) (off n w : Nat) : State :=
  (s.storeAt ⟨0, s.mine off, n, false, 0, 0⟩ (s.mine off) n w 2).2

/-! ### The query unit (20 R277) -/

/-- An access of another falls between two words of a CQ instruction. -/
def State.happen (s : State) (b : Between) : State :=
  match (match b with
    | .store n id => execStoreWriteAtHome n id s
    | .load n i q => if n = s.cur.core ∧ i = s.cur.ctx then .next s else execResultLands n i q .none s
    | .copy n k => execWatermarkAdvance n k 1 s
    | .bank ch => s.engineTurn ch
    | .part ch id k => .next (s.xferTurn ch id k)) with
  | .next t => t
  | _ => s

/-- The query unit comes to its next word: what the tape lets fall before it happens first. -/
def State.nextWord (s : State) : State :=
  match s.cur.mixed with
  | [] => s
  | l =>
    let s1 := (l.filter fun e => decide (e.1 = s.cur.unit)).foldl (fun s e => s.happen e.2) s
    { s1 with cur := { s1.cur with unit := s.cur.unit + 1 } }

/-- Read the aligned 8-byte word at an offset: none where it is poisoned. -/
def State.unitWord (s : State) (o : Nat) : Option Nat × State :=
  let s1 := s.nextWord
  (if mget false s1.poison (s1.mine o / 8) then none else some (s1.peek o 8), s1)

/-- Read words in turn, up to the first poisoned one, whose offset stands for all. -/
def State.unitWords (s : State) (os : List Nat) : Except Nat (List Nat) × State :=
  match os with
  | [] => (.ok [], s)
  | o :: t => match s.unitWord o with
    | (none, s1) => (.error o, s1)
    | (some v, s1) => match s1.unitWords t with
      | (.ok l, s2) => (.ok (v :: l), s2)
      | (.error e, s2) => (.error e, s2)

/-- Write n bytes of a word in turn. -/
def State.unitPoke (s : State) (off n w : Nat) : State :=
  s.nextWord.poke off n w

/-- A CQ instruction acts once the thread's stores to the core's scratch are at their banks, its loads of the ranges are performed, and,
where it writes, all its loads, its fences hold and no watermark covers the ranges (20 R277, 04 R45, R48, 18 R251). -/
def State.withUnit (s : State) (wr : Bool) (rs : List (Nat × Nat)) (k : Out) : Out :=
  let n := s.cur.core
  let i := s.cur.ctx
  let t := s.me
  if t.acquiring || (wr && !t.loadsDone t.seq) || !s.fencesOpen n i t.seq ||
    s.myCore.storeQ.any (fun e => decide (e.ctx = i) && !e.written && isScratch e.acc.loc && decide (scratchCore e.acc.loc = n)) ||
    rs.any (fun r => t.behind t.seq (s.mine r.1) r.2 || !s.belowMark (s.mine r.1) r.2) then .next s.stall
  else k

/-- The check of a slot's place; kind is that of R378. -/
def State.withSlot (s : State) (kind k : Nat) (go : Nat → Out) : Out :=
  let off := s.me.slotOff k
  if 0xFC000 < off + s.me.stride then .next (s.trapMe 3 kind (myScratch off)) else go off

/-- The trap of a poisoned word. -/
def State.poisonMe (s : State) (kind off : Nat) : State :=
  s.trapMe 5 kind (myScratch off)

/-- Go on once words are read; a poisoned one traps. -/
def State.withWords (s : State) (kind : Nat) (os : List Nat) (go : List Nat → State → Out) : Out :=
  match s.unitWords os with
  | (.error o, s1) => .next (s1.poisonMe kind o)
  | (.ok l, s1) => go l s1

/-- ID and the key (DIST, ID) of an entry (20 R264). -/
def entId (e : Nat) : Nat := e % 2 ^ 31
def entKey (e : Nat) : Nat := e / 2 ^ 32 * 2 ^ 31 + entId e
def entX (e : Nat) : Bool := e.testBit 31

/-- Strictly ascending keys. -/
def keysUp (l : List Nat) : Bool :=
  match l with
  | [] => true
  | [_] => true
  | a :: b :: t => decide (entKey a < entKey b) && keysUp (b :: t)

/-- No two entries of one ID. -/
def idsOnce (l : List Nat) : Bool :=
  match l with
  | [] => true
  | a :: t => t.all (fun b => decide (entId b ≠ entId a)) && idsOnce t

/-- A slot as a CQ instruction finds it: its offset, CAP, LEN, the header words it has read and its entries. -/
structure Slot where
  off : Nat
  cap : Nat
  len : Nat
  hs : List Nat
  es : List Nat
  deriving DecidableEq, Repr

/-- The bytes of a malformed slot that may change: not SW, QPTR, VPTR or VB (20 R265). -/
def freeSlotByte (o old new : Nat) : Nat :=
  if 32 ≤ o ∧ o < 64 then old
  else if o = 20 then new / 32 * 32 + old % 32
  else new

/-- The outcome of CQMRG, CQBEST and CQCNT on a malformed slot: some value, and free bytes in the slot, written word by word (20 R265,
log 15). -/
def State.openSlot (s : State) (d : BitVec 5) (off : Nat) : Out :=
  if !s.belowMark (s.mine off) s.me.stride then .next s.stall
  else
    let f := s.takeFree
    let word := fun (s : State) (k : Nat) => joinBytes ((List.range 8).map fun o =>
      BitVec.ofNat 8 (freeSlotByte (8 * k + o) (s.peek (off + 8 * k + o) 1) (Config.freeByte f.1 (8 * k + o)).toNat))
    let s1 := (List.range (s.me.stride / 8)).foldl (fun s k => let s1 := s.nextWord; s1.poke (off + 8 * k) 8 (word s1 k)) f.2
    s1.finish (s1.me.wx d (Config.freeWord f.1))

/-- Read a slot for CQMRG, CQBEST or CQCNT: its place, then the header words at `hdr` and the entries, each word that it reads once below
every watermark (20 R265, R277, 18 R251), and whether it is well formed. -/
def State.withQueue (s : State) (kind k : Nat) (d : BitVec 5) (hdr : List Nat) (go : Slot → State → Out) : Out :=
  s.withSlot kind k fun off =>
    let wr := decide (kind ≠ 0)
    s.withUnit wr [(off, 8 * hdr.length)] (
      s.withWords kind (hdr.map fun o => off + o) fun hs s1 =>
        let len := hs.getD 0 0 % 2 ^ 32
        let cap := hs.getD 0 0 / 2 ^ 32
        let n := min len s1.me.capMax
        s1.withUnit wr [(off + 64, 8 * n)] (
          s1.withWords kind ((List.range n).map fun j => off + 64 + 8 * j) fun es s2 =>
            if cap = 0 ∨ s2.me.capMax < cap ∨ cap < len ∨ keysUp es = false ∨ idsOnce es = false then s2.openSlot d off
            else go ⟨off, cap, len, hs, es⟩ s2))

/-- The slot number of a register. -/
def slotOf (x : Word) : Nat := bits x 0 8

/-- CQCNT: LEN, and the entries not expanded (20 R273). -/
def execCqcnt (d a : BitVec 5) (s : State) : Out :=
  s.plain (s.withQueue 0 (slotOf (s.me.rx a)) d [0] fun q s =>
    s.finish (s.me.wx d (BitVec.ofNat 64 ((q.es.filter fun e => !entX e).length * 2 ^ 32 + q.len))))

/-- Insert an entry by its key. -/
def insertKey (e : Nat) (l : List Nat) : List Nat :=
  match l with
  | [] => [e]
  | a :: t => if entKey e ≤ entKey a then e :: a :: t else a :: insertKey e t

/-- The offered pairs, one per ID, that of lowest key (20 R274). -/
def offered (dist ids : Vec) : List Nat :=
  let ps := (List.range 16).filterMap fun l =>
    let x := elGet ids 32 l
    let y := elGet dist 32 l
    if x.testBit 31 ∨ y.testBit 31 then none else some (y * 2 ^ 32 + x)
  ps.foldl (fun r e => match r.find? fun q => decide (entId q = entId e) with
    | none => r ++ [e]
    | some q => if entKey e < entKey q then r.map fun z => if entId z = entId e then e else z else r) []

/-- Write the entries of a queue. -/
def State.putEntries (s : State) (off : Nat) (es : List Nat) : State :=
  (es.mapIdx fun j e => (j, e)).foldl (fun s p => s.unitPoke (off + 64 + 8 * p.1) 8 p.2) s

/-- CQMRG (20 R274). -/
def execCqmrg (d a b : BitVec 5) (s : State) : Out :=
  s.plain (s.withQueue 2 (slotOf (s.me.rx d)) d [0] fun q s =>
    let ps := (offered (s.me.rv a) (s.me.rv b)).filter fun e => q.es.all fun z => decide (entId z ≠ entId e)
    let es := (ps.foldl (fun l e => insertKey e l) q.es).take q.cap
    s.withUnit true [(q.off + 64, 8 * es.length)] (
      let s1 := (s.putEntries q.off es).unitPoke q.off 4 es.length
      s1.finish (s1.me.wx d (BitVec.ofNat 64 (ps.filter fun e => es.any fun z => decide (entId z = entId e)).length))))

/-- The index of the first entry not expanded. -/
def firstOpen (l : List Nat) : Option Nat :=
  (List.range l.length).find? fun j => !entX (l.getD j 0)

/-- CQBEST (20 R275): idempotent within a step. -/
def execCqbest (d a b : BitVec 5) (s : State) : Out :=
  s.plain (
    let step := (s.me.rx b).toNat % 2 ^ 32
    s.withQueue 2 (slotOf (s.me.rx a)) d [0, 8, 16] fun q s =>
      let nexp := q.hs.getD 1 0 % 2 ^ 32
      if q.hs.getD 1 0 / 2 ^ 32 = step then s.finish (s.me.wx d (sextNat (q.hs.getD 2 0 % 2 ^ 32) 32))
      else
        let s1 := s.unitPoke (q.off + 12) 4 step
        match firstOpen q.es with
        | none =>
          let s2 := s1.unitPoke (q.off + 16) 4 0xFFFFFFFF
          s2.finish (s2.me.wx d (~~~0))
        | some j =>
          let e := q.es.getD j 0
          let s2 := ((s1.unitPoke (q.off + 64 + 8 * j) 8 (e + 2 ^ 31)).unitPoke (q.off + 8) 4 (nexp + 1)).unitPoke (q.off + 16) 4 (entId e)
          s2.finish (s2.me.wx d (BitVec.ofNat 64 (entId e))))

/-- What the header of a slot says of its visited table: VPTR, VB, and whether the checks of R265 hold. -/
structure Visited where
  ptr : Nat
  vb : Nat
  resOk : Bool
  ok : Bool
  deriving DecidableEq, Repr

/-- The same from header words 2, 3 and 4. -/
def visitedOf (ws : List Nat) : Visited :=
  let w2 := ws.getD 0 0
  let w3 := ws.getD 1 0
  let ptr := ws.getD 2 0
  let vb := w2 / 2 ^ 32 % 32
  let res := decide (w2 / 2 ^ 37 = 0 ∧ w3 / 2 ^ 32 = 0 ∧ vb ≤ 17)
  ⟨ptr, vb, res, res && decide (ptr + 4 * 2 ^ vb ≤ 0xFC000)⟩

/-- The etval of a header that fails the checks: the table where it lies outside, else the slot. -/
def Visited.etval (v : Visited) (off : Nat) : Word :=
  if v.resOk then myScratch v.ptr else myScratch off

/-- CQINIT (20 R273). DEDUCED: it uses header words 0 to 4, the ones it reads or writes, so poison in any of them traps. The checks of R265
need words 2 to 4 and come before the others are read (13 R181). -/
def execCqinit (d a b : BitVec 5) (s : State) : Out :=
  s.plain (s.withSlot 2 (slotOf (s.me.rx a)) fun off =>
    s.withUnit true [(off, 40)] (
      s.withWords 2 [off + 16, off + 24, off + 32] fun ws s =>
        let v := visitedOf ws
        let cap := (s.me.rx b).toNat
        let fits := decide (1 ≤ cap ∧ cap ≤ s.me.capMax)
        if v.ok = false then .next (s.trapMe 3 2 (v.etval off))
        else s.withUnit true (if fits then [(v.ptr, 4 * 2 ^ v.vb)] else []) (
          s.withWords 2 ([off, off + 8] ++ if v.vb = 0 ∧ fits = true then [v.ptr / 8 * 8] else []) fun _ s =>
            if fits = false then s.finish (s.me.wx d 1)
            else
              let s1 := (((s.unitPoke off 8 (cap * 2 ^ 32)).unitPoke (off + 8) 8 (0xFFFFFFFF * 2 ^ 32)).unitPoke (off + 16) 4 0xFFFFFFFF).unitPoke (off + 24) 4 0
              let s2 := (List.range (2 ^ v.vb)).foldl (fun s i => s.unitPoke (v.ptr + 4 * i) 4 0xFFFFFFFF) s1
              let s3 := { s2 with poison := clearPoison s2.poison (s.mine v.ptr) (4 * 2 ^ v.vb) }
              s3.finish (s3.me.wx d 0))))

/-! ### VVIS (20 R276) -/

/-- What probing a table gives: found, inserted at an index, full, a poisoned word's offset, or a word not below a watermark. -/
inductive Probe where
  | found
  | insert (i : Nat)
  | full
  | poison (off : Nat)
  | wait
  deriving DecidableEq, Repr

/-- Probe a table of 2^vb entries from index i. -/
def State.probe (s : State) (ptr vb n : Nat) (k i : Nat) : Probe × State :=
  match k with
  | 0 => (.full, s)
  | k + 1 =>
    let o := ptr + 4 * i
    if !s.belowMark (s.mine o) 4 then (.wait, s)
    else match s.unitWord (o / 8 * 8) with
      | (none, s1) => (.poison (o / 8 * 8), s1)
      | (some w, s1) =>
        let x := w / 2 ^ (8 * (o % 8)) % 2 ^ 32
        if x = n then (.found, s1) else if x = 0xFFFFFFFF then (.insert i, s1) else s1.probe ptr vb n k ((i + 1) % 2 ^ vb)

/-- The first probe of a node id. -/
def hashOf (n vb : Nat) : Nat :=
  n * 0x9E3779B1 % 2 ^ 32 / 2 ^ (32 - vb)

/-- A lane of VVIS: its number, slot offset and node, and its slot's table as the checks of R265 have read it before any lane, or the
poisoned word that they met. DEDUCED: the checks read VPTR and VB once (log 86). -/
structure VisLane where
  lane : Nat
  off : Nat
  node : Nat
  head : Except Nat Visited

/-- One lane: a poisoned word's offset, a wait, or new and full. VCNT is read before the table is written. -/
def State.visLane (s : State) (l : VisLane) : Except (Option Nat) (Bool × Bool) × State :=
  match l.head with
  | .error o => (.error (some o), s)
  | .ok v => match s.probe v.ptr v.vb l.node (2 ^ v.vb) (hashOf l.node v.vb) with
    | (.found, s1) => (.ok (false, false), s1)
    | (.full, s1) => (.ok (false, true), s1)
    | (.poison o, s1) => (.error (some o), s1)
    | (.wait, s1) => (.error none, s1)
    | (.insert i, s1) => match s1.unitWord (l.off + 24) with
      | (none, s2) => (.error (some (l.off + 24)), s2)
      | (some w, s2) => (.ok (true, false), (s2.unitPoke (v.ptr + 4 * i) 4 l.node).unitPoke (l.off + 24) 4 (w % 2 ^ 32 + 1))

/-- The lanes in order; a poisoned word traps with the lanes below processed. Where a word that one of them reaches is not below its
watermark the instruction has not issued (18 R251): `s0` is the state before it. -/
def State.visLanes (s s0 : State) (d : BitVec 2) (ls : List VisLane) (new full : Mask) : Out :=
  match ls with
  | [] => s.finish ((s.me.wk (d ++ 0#1) new).wk (d ++ 1#1) full)
  | l :: t => match s.visLane l with
    | (.error none, _) => .next s0.stall
    | (.error (some o), s1) => .next (s1.poisonMe 2 o)
    | (.ok r, s1) => s1.visLanes s0 d t (if r.1 then new ||| (1 <<< l.lane) else new) (if r.2 then full ||| (1 <<< l.lane) else full)

/-- The checks of R265 for every lane (number, slot offset, node): the etval of the first that fails, or the lanes. A poisoned header is met
when its lane is processed. -/
def State.visHeads (s : State) (ls : List (Nat × Nat × Nat)) : Except Word (List VisLane) × State :=
  match ls with
  | [] => (.ok [], s)
  | (l, off, n) :: t =>
    if 0xFC000 < off + s.me.stride then (.error (myScratch off), s)
    else
      let h := s.unitWords [off + 16, off + 24, off + 32]
      let head : Except Nat Visited := match h.1 with
        | .error o => .error o
        | .ok ws => .ok (visitedOf ws)
      match head with
      | .ok ⟨ptr, vb, res, false⟩ => (.error ((⟨ptr, vb, res, false⟩ : Visited).etval off), h.2)
      | _ => match h.2.visHeads t with
        | (.error e, s2) => (.error e, s2)
        | (.ok r, s2) => (.ok (⟨l, off, n, head⟩ :: r), s2)

def execVvis (d : BitVec 2) (a b : BitVec 5) (s : State) : Out :=
  s.plain (
    let t := s.me
    let ls := (List.range 16).filterMap fun l =>
      let k := elGet (t.rv a) 32 l
      let n := elGet (t.rv b) 32 l
      if 256 ≤ k ∨ n.testBit 31 then none else some (l, t.slotOff k, n)
    s.withUnit true ((ls.filter fun l => decide (l.2.1 + 64 ≤ 0xFC000)).map fun l => (l.2.1 + 16, 24)) (
      match s.visHeads ls with
      | (.error e, s1) => .next (s1.trapMe 3 2 e)
      | (.ok ls, s1) => s1.visLanes s d ls 0 0))

end Sys2Proof.Machine
end

