-- ==== Sys2Proof/Machine/Curve.lean ====
section
/-! DEFINITION. Curve coordinates: CV and VCV (24 R307 to R322). -/

namespace Sys2Proof.Machine

/-- The shape of a code: D dimensions of B bits (24 R307). -/
structure Shape where
  d : Nat
  b : Nat
  deriving DecidableEq, Repr

def Ctx.shape (t : Ctx) : Shape := ⟨t.cvd.toNat % 16, t.cvd.toNat / 16⟩

/-- Number of codes. -/
def Shape.size (g : Shape) : Nat := 2 ^ (g.d * g.b)

/-- axis(c, a) (24 R308). -/
def Shape.axis (g : Shape) (c a : Nat) : Nat :=
  (List.range g.b).foldl (fun r j => if c.testBit (j * g.d + a) then r + 2 ^ j else r) 0

/-- code(v0, …), from a coordinate function. -/
def Shape.code (g : Shape) (v : Nat → Nat) : Nat :=
  (List.range g.b).foldl (fun r j => (List.range g.d).foldl (fun r a =>
    if (v a).testBit j then r + 2 ^ (j * g.d + a) else r) r) 0

/-- The coordinates of a code. -/
def Shape.point (g : Shape) (c : Nat) : List Nat :=
  (List.range g.d).map fun a => g.axis c a

/-- A CV instruction needs a shape (24 R307). -/
def State.withShape (s : State) (k : Shape → Out) : Out :=
  s.plain (if s.me.cvd = 0 then .next s.illegal else k s.me.shape)

/-- An x operand as a code: bits at and above D * B ignored. -/
def State.codeOf (s : State) (g : Shape) (a : BitVec 5) : Nat :=
  (s.me.rx a).toNat % g.size

def execCvenc (d a : BitVec 5) (s : State) : Out :=
  s.withShape fun g => s.finish (s.me.wx d (BitVec.ofNat 64 (g.code fun x => elGet (s.me.rv a) 64 x)))

def execCvdec (d a : BitVec 5) (s : State) : Out :=
  s.withShape fun g => s.finish (s.me.wv d (packEls 64 (g.point (s.codeOf g a)) 0))

/-- Axis by axis: the result code and the overflow flags (24 R314). -/
def Shape.addSub (g : Shape) (sub : Bool) (x y : Nat) : Nat × BitVec 8 :=
  let z := fun (a : Nat) => if sub then (g.axis x a : Int) - g.axis y a else (g.axis x a : Int) + g.axis y a
  (g.code fun a => (z a % (2 ^ g.b : Nat)).toNat,
   BitVec.ofNat 8 ((List.range g.d).foldl (fun r a => if z a < 0 ∨ (2 ^ g.b : Nat) ≤ z a then r + 2 ^ a else r) 0))

/-- CVADD and CVSUB. -/
def State.cvAddSub (s : State) (sub : Bool) (d a b : BitVec 5) : Out :=
  s.withShape fun g =>
    let r := g.addSub sub (s.me.rx a).toNat (s.me.rx b).toNat
    s.finish ({ s.me with cvf := s.me.cvf ||| r.2 }.wx d (BitVec.ofNat 64 r.1))

def execCvadd (d a b : BitVec 5) (s : State) : Out := s.cvAddSub false d a b
def execCvsub (d a b : BitVec 5) (s : State) : Out := s.cvAddSub true d a b

/-- Does a code lie in the box of two corners (24 R310)? -/
def Shape.inBox (g : Shape) (lo hi c : Nat) : Bool :=
  (List.range g.d).all fun a => decide (g.axis lo a ≤ g.axis c a ∧ g.axis c a ≤ g.axis hi a)

/-- Is a box empty? -/
def Shape.empty (g : Shape) (lo hi : Nat) : Bool :=
  (List.range g.d).any fun a => decide (g.axis hi a < g.axis lo a)

def execCvin (d a : BitVec 5) (b : BitVec 4) (s : State) : Out :=
  s.withShape fun g =>
    s.finish (s.me.wx d (flag (g.inBox (s.codeOf g (pair b 0)) (s.codeOf g (pair b 1)) (s.codeOf g a))))

/-- A cell of level L (first code `c`) against a box: wholly inside, wholly outside, or both. -/
def Shape.cellIn (g : Shape) (lo hi c L : Nat) : Bool :=
  (List.range g.d).all fun a => decide (g.axis lo a ≤ g.axis c a ∧ g.axis c a + 2 ^ L ≤ g.axis hi a + 1)

def Shape.cellOut (g : Shape) (lo hi c L : Nat) : Bool :=
  (List.range g.d).any fun a => decide (g.axis c a + 2 ^ L ≤ g.axis lo a ∨ g.axis hi a < g.axis c a)

/-- The smallest code at or above x of a cell that lies in the box, or (`want` false) outside it. -/
def Shape.seekUp (g : Shape) (lo hi : Nat) (want : Bool) (L c x : Nat) : Option Nat :=
  if c + 2 ^ (g.d * L) ≤ x then none
  else if g.cellIn lo hi c L then (if want then some (max c x) else none)
  else if g.cellOut lo hi c L then (if want then none else some (max c x))
  else match L with
    | 0 => none
    | L + 1 => (List.range (2 ^ g.d)).findSome? fun k => g.seekUp lo hi want L (c + k * 2 ^ (g.d * L)) x

/-- The largest code at or below x of a cell that lies in the box. -/
def Shape.seekDown (g : Shape) (lo hi : Nat) (L c x : Nat) : Option Nat :=
  if x < c then none
  else if g.cellIn lo hi c L then some (min (c + 2 ^ (g.d * L) - 1) x)
  else if g.cellOut lo hi c L then none
  else match L with
    | 0 => none
    | L + 1 => ((List.range (2 ^ g.d)).reverse).findSome? fun k => g.seekDown lo hi L (c + k * 2 ^ (g.d * L)) x

/-- A code or, where there is none, all ones (24 R316). -/
def codeOrOnes (o : Option Nat) : Word :=
  match o with
  | some c => BitVec.ofNat 64 c
  | none => ~~~0

/-- CVNEXT and CVPREV of a code in a box. -/
def Shape.next (g : Shape) (lo hi x : Nat) : Option Nat :=
  if g.empty lo hi then none else g.seekUp lo hi true g.b 0 x
def Shape.prev (g : Shape) (lo hi x : Nat) : Option Nat :=
  if g.empty lo hi then none else g.seekDown lo hi g.b 0 x

def execCvnext (d a : BitVec 5) (b : BitVec 4) (s : State) : Out :=
  s.withShape fun g =>
    s.finish (s.me.wx d (codeOrOnes (g.next (s.codeOf g (pair b 0)) (s.codeOf g (pair b 1)) (s.codeOf g a))))

def execCvprev (d a : BitVec 5) (b : BitVec 4) (s : State) : Out :=
  s.withShape fun g =>
    s.finish (s.me.wx d (codeOrOnes (g.prev (s.codeOf g (pair b 0)) (s.codeOf g (pair b 1)) (s.codeOf g a))))

/-- The smallest level at which two codes share a cell (24 R317). -/
def Shape.level (g : Shape) (x y : Nat) : Nat :=
  ((List.range (g.b + 1)).find? fun L => decide (x / 2 ^ (g.d * L) = y / 2 ^ (g.d * L))).getD g.b

def execCvlev (d a b : BitVec 5) (s : State) : Out :=
  s.withShape fun g => s.finish (s.me.wx d (BitVec.ofNat 64 (g.level (s.codeOf g a) (s.codeOf g b))))

def execCvcell (d a b : BitVec 5) (s : State) : Out :=
  s.withShape fun g =>
    let L := (s.me.rx b).toNat
    s.finish (s.me.wx d (if g.b ≤ L then 0 else BitVec.ofNat 64 (s.codeOf g a / 2 ^ (g.d * L) * 2 ^ (g.d * L))))

/-! ### CVSPLIT (24 R318 to R320) -/

/-- Up to k runs of consecutive codes of a nonempty box, from x on. -/
def Shape.runs (g : Shape) (lo hi : Nat) (k x : Nat) : List (Nat × Nat) :=
  match k with
  | 0 => []
  | k + 1 => match g.next lo hi x with
    | none => []
    | some a =>
      let e := (g.seekUp lo hi false g.b 0 a).getD g.size
      (a, e - 1) :: g.runs lo hi k e

/-- The first k ranges of R319: runs of level-L cells, clipped at START. -/
def Shape.ranges (g : Shape) (lo hi L start k : Nat) : List (Nat × Nat) :=
  if g.empty lo hi ∨ g.size ≤ start then []
  else
    let u := 2 ^ (g.d * L)
    let h : Shape := ⟨g.d, g.b - L⟩
    let up := fun (c : Nat) => c / u
    (h.runs (up lo) (up hi) k (up start)).map fun r => (max start (r.1 * u), r.2 * u + (u - 1))

/-- The output pairs of CVSPLIT. -/
def pairWords (base : Word) (n : Nat) : List (Nat × Word) :=
  (List.range (2 * n)).map fun k => (k, base + BitVec.ofNat 64 (8 * k))

def execCvsplit (d : BitVec 5) (a : BitVec 3) (b : BitVec 5) (s : State) : Out :=
  s.withShape fun g =>
    let t := s.me
    let w := t.rx (quad a 3)
    let n := bits w 0 13
    let out := t.rx b
    let r := g.ranges (s.codeOf g (quad a 0)) (s.codeOf g (quad a 1)) (min (bits w 16 7) g.b) (t.rx (quad a 2)).toNat (n + 1)
    let m := min n r.length
    let vals := (r.take m).flatMap fun p => [p.1, p.2]
    let res : Word := match nth r m with
      | some p => BitVec.ofNat 64 p.1
      | none => ~~~0
    let cnt : Word := BitVec.ofNat 64 (m + if g.d * g.b = 64 ∧ r.length ≤ m then 2 ^ 63 else 0)
    let done := fun (s : State) => s.finish ((s.me.wx (quad a 2) res).wx d cnt)
    s.storing done (
      if bits w 23 41 ≠ 0 ∨ bits w 13 3 ≠ 0 ∨ 4096 < n then .next (s.trapMe 3 1 w)
      else if n ≠ 0 ∧ out.toNat % 8 ≠ 0 then .next (s.trapMe 2 1 out)
      else s.withElems 1 8 (pairWords out n) fun es s =>
        s.storeAll ((es.take (2 * m)).zip vals |>.map fun q => (q.1.2, BitVec.ofNat 64 q.2)) done)

/-! ### The vector forms (24 R321) -/

/-- The active codes: element i is governed by lane 2i. -/
def vcvEls (m : Mask) : List Nat := activeEls 64 m

def execVcvadd (d a b : BitVec 5) (q : BitVec 1) (k : BitVec 3) (s : State) : Out :=
  s.withShape fun g =>
    let t := s.me
    let r := fun (i : Nat) => g.addSub false (elGet (t.rv a) 64 i) (elGet (t.rv b) 64 i)
    let els := vcvEls (t.rk k)
    let v := mapEls 64 els (t.rv d) fun i => ((r i).1, 0)
    let f := els.foldl (fun f i => f ||| (r i).2) t.cvf
    s.finish ({ t with cvf := if q = 1 then t.cvf else f }.wv d v.1)

def execVcvin (d : BitVec 3) (a : BitVec 5) (b : BitVec 4) (_q : BitVec 1) (k : BitVec 3) (s : State) : Out :=
  s.withShape fun g =>
    let t := s.me
    s.finish (t.wk d (cmpMask 64 (t.rk k) fun i =>
      g.inBox (s.codeOf g (pair b 0)) (s.codeOf g (pair b 1)) (elGet (t.rv a) 64 i)))

def execVcvenc (d a : BitVec 5) (_q : BitVec 1) (k : BitVec 3) (s : State) : Out :=
  s.withShape fun g =>
    let t := s.me
    let v := mapEls 64 (vcvEls (t.rk k)) (t.rv d) fun i => (g.code fun x => elGet (t.rv a) 64 i / 2 ^ (x * g.b), 0)
    s.finish (t.wv d v.1)

end Sys2Proof.Machine
end

