-- ==== Sys2Proof/Machine/Launch.lean ====
section
/-! DEFINITION. Launch controllers: accepting records, selecting, distributing, placing and starting threads, and ending a launch
(02 R17 to R29, R36; 28 R359, R363, R364). -/

namespace Sys2Proof.Machine

/-! ### Controllers and queues -/

def State.ctlOf (s : State) (b : Nat) : Ctl := mget Ctl.reset s.ctl b
def State.putCtl (s : State) (b : Nat) (c : Ctl) : State := { s with ctl := mset Ctl.reset s.ctl b c }
def State.queueOf (s : State) (b q : Nat) : Queue := mget Queue.reset (s.ctlOf b).queues q
def State.putQueue (s : State) (b q : Nat) (u : Queue) : State :=
  s.putCtl b { s.ctlOf b with queues := mset Queue.reset (s.ctlOf b).queues q u }

/-- Is a lid live (02 R23)? -/
def State.lidLive (s : State) (lid : BitVec 32) : Bool :=
  (s.launchOf lid).isSome || s.reqs.any (fun r => decide (r.lid = lid)) || s.heldReqs.any (fun r => decide (r.lid = lid)) ||
  s.cores.any fun c => c.2.ctxs.any (fun t => decide (t.2.lid = lid ∧ t.2.run ≠ .idle)) || c.2.rvt.any fun e => decide (e.lid = lid)

/-- The counter after a value (02 R23). -/
def nextCount (c : BitVec 31) : BitVec 31 :=
  if c = 0x7FFFFFFF then 1 else c + 1

/-- The lid of a counter value. -/
def lidOf (b : Nat) (c : BitVec 31) : BitVec 32 :=
  BitVec.ofNat 1 b ++ c

/-- The first counter value from one on whose lid is not live, looking at `k` values. -/
def State.freeCount (s : State) (b : Nat) (c : BitVec 31) (k : Nat) : BitVec 31 :=
  match k with
  | 0 => c
  | k + 1 => if s.lidLive (lidOf b c) then s.freeCount b (nextCount c) k else c

/-- At most this many lids are live. -/
def State.lidBound (s : State) : Nat :=
  s.launches.length + s.reqs.length + s.heldReqs.length + (s.cores.map fun c => c.2.ctxs.length + c.2.rvt.length).sum

/-! ### Records (02 R17, R18, R27) -/

/-- An address field of a record: bits 63:60 zero and aligned. -/
def fieldOk (w : Word) (al : Nat) : Bool :=
  decide (bits w 60 4 = 0 ∧ w.toNat % al = 0)

/-- Is a record malformed (02 R18)? -/
def recMalformed (w : BitVec 512) : Bool :=
  decide (recN w = 0 ∨ w.extractLsb' 189 3 ≠ 0 ∨ (recCor w = true ∧ 32768 < recN w)) ||
  !fieldOk (recEntry w) 4 || !fieldOk (recHandler w) 4 || !fieldOk (recCaddr w) 8

/-- The core that a co-resident thread goes to: the nearest to its hint within RADIUS with a context left, ties to the lower curve
code (02 R27). -/
def State.corPick (s : State) (w : BitVec 512) (room : Nat → Nat) (used : Map Nat) (h : Nat) : Option Nat :=
  (List.range 512).foldl (fun (r : Option Nat) c =>
    let n := coreOfCode c
    if s.takes n && decide (hops h n ≤ recRadius w ∧ mget 0 used n < room n) then match r with
      | none => some n
      | some m => if hops h n < hops h m then some n else r
    else r) none

/-- The assignment of `k` threads from index i on; none where a thread finds no core. -/
def State.corAssign (s : State) (w : BitVec 512) (room : Nat → Nat) (used : Map Nat) (i k : Nat) : Option (List Nat) :=
  match k with
  | 0 => some []
  | k + 1 => match (s.hintOf w i).bind fun h => s.corPick w room used h with
    | none => none
    | some n => (s.corAssign w room (mput used n (mget 0 used n + 1)) (i + 1) k).map fun t => n :: t

/-- The status that refuses a record, if any (02 R18, R19, R27). -/
def State.refusal (s : State) (b q : Nat) (w : BitVec 512) : Option Nat :=
  if q < 8 ∧ 64 ≤ (s.queueOf b q).recs.length then some 3
  else if recMalformed w then some 2
  else if recCor w && (s.corAssign w (fun _ => 64) [] 0 (recN w)).isNone then some 1
  else none

/-- The controller accepts a record: it takes a lid, and a queue place or a status that ends it (02 R18, R22, R23). -/
def State.accept (s : State) (b q : Nat) (w : BitVec 512) (space : BitVec 12) : State :=
  let r := s.refusal b q w
  let c := s.freeCount b (s.ctlOf b).counter (s.lidBound + 1)
  let lid := lidOf b c
  let u := s.queueOf b q
  let l : Launch := ⟨lid, b, q, w, space, s.arrivals, 0, 0, match r with
    | some st => .ending st
    | none => .queued, false, false, 0, [], [], [], []⟩
  let u1 : Queue := match r with
    | none => { u with recs := u.recs ++ [⟨lid, w, space, s.arrivals⟩] }
    | some 3 => { u with overflow := u.overflow + 1 }
    | some _ => u
  let s1 := s.putQueue b q u1
  { s1.putCtl b { s1.ctlOf b with counter := nextCount c } with launches := s1.launches ++ [l], arrivals := s1.arrivals + 1 }

/-- LAUNCH_PORT_WRITE: `data` written at an offset of a port's 64 bytes in `tlps` packets. One aligned write of 64 bytes once the part is
ready is a record; any other write of the port is a port error (02 R19, 28 R362). -/
def execLaunchPortWrite (base q off : Nat) (data : List (BitVec 8)) (tlps : Nat) (s : State) : Out :=
  .next (
    if 2 ≤ base ∨ 8 ≤ q ∨ 64 ≤ off ∨ data = [] then s
    else if s.pkg.bootst = 4 ∧ off = 0 ∧ data.length = 64 ∧ tlps = 1 then
      s.accept base q (BitVec.ofNat 512 (joinBytes data)) (s.queueOf base q).space
    else
      let u := s.queueOf base q
      s.putQueue base q { u with portErr := u.portErr + 1 })

/-- What a read of 8 aligned bytes of a port's 64 gives: the free record places of its queue, and zero beyond the first 8 (02 R19). A
read changes nothing (log 63). -/
def State.portRead (s : State) (base q off : Nat) : Word :=
  if off = 0 then BitVec.ofNat 64 (64 - (s.queueOf base q).recs.length) else 0

/-- An element of a list of messages on their way goes. -/
def State.dropOut (s : State) (k : Nat) : State := { s with outs := dropNth s.outs k }

/-- A status reaches the thread that sent a message, where it is still there. -/
def State.answer (s : State) (o : OutMsg) (r : Res) : State :=
  if (s.ctx o.core o.ctx).gen = o.gen then s.land o.core o.ctx o.seq r else s

/-- LAUNCH_RECORD: after the release the record is read into the device queue of the base, or the queue is full (14 R194, 02 R20). -/
def execLaunchRecord (msg : Nat) (s : State) : Out :=
  .next (match nth s.outs msg with
    | none => s
    | some o => match o.launch with
      | none => s
      | some (q, loc) =>
        if !s.gate o.core o.ctx o.seq o.qpos o.scope then s
        else if anyPoison s.poison loc 64 then (s.dropOut msg).answer o (.fault 5 0 o.msg.pc)
        else if 16 ≤ (s.queueOf o.dest (8 + q)).recs.length then (s.dropOut msg).answer o (.val 1)
        else ((s.accept o.dest (8 + q) (BitVec.ofNat 512 (s.rawRead loc 64)) o.msg.space).dropOut msg).answer o (.val 0))

/-! ### Selecting (02 R21, R29, R38) -/

/-- Is a controller distributing a launch? -/
def State.distributing (s : State) (b : Nat) : Bool :=
  s.launches.any fun l => decide (l.base = b ∧ l.phase = .distributing)

/-- The idle contexts of a core that a launch of a class may take. -/
def State.roomFor (s : State) (n : Nat) (lid : BitVec 32) (cls : BitVec 2) : Nat :=
  ((List.range 64).filter fun i => s.isIdle n i && !s.heldFrom n i lid cls).length

/-- The cores of a waiting co-resident launch's threads, if the assignment succeeds over the contexts that are idle now (02 R27). -/
def State.corCores (s : State) (r : QRec) (c : BitVec 2) : Option (List Nat) :=
  s.corAssign r.words (fun n => s.roomFor n r.lid c) [] 0 (recN r.words)

/-- The heads a controller may serve, with their queues and classes: a co-resident launch is passed over until its assignment succeeds
(02 R21, R27). -/
def State.heads (s : State) (b : Nat) : List (Nat × QRec × BitVec 2) :=
  (List.range 12).filterMap fun q => match (s.queueOf b q).head with
    | none => none
    | some r =>
      let c := s.effClass b q r.words
      if recCor r.words && (s.corCores r c).isNone then none else some (q, r, c)

/-- The head that comes first: the highest class, then the earliest arrival. -/
def bestHead (hs : List (Nat × QRec × BitVec 2)) : Option (Nat × QRec × BitVec 2) :=
  hs.foldl (fun (r : Option (Nat × QRec × BitVec 2)) h => match r with
    | none => some h
    | some g => if h.2.2 < g.2.2 ∨ (h.2.2 = g.2.2 ∧ h.2.1.arrival < g.2.1.arrival) then some h else some g) none

/-- A launch leaves its queue, and contexts held for it are free again (02 R27, 13 R380). -/
def State.dequeue (s : State) (b q : Nat) (lid : BitVec 32) : State :=
  let u := s.queueOf b q
  let s1 := s.putQueue b q { u with recs := u.recs.filter fun r => decide (r.lid ≠ lid), front := u.front.filter fun r => decide (r.lid ≠ lid) }
  { s1 with cores := s1.cores.map fun c => (c.1, { c.2 with held := c.2.held.filter fun h => decide (h.2 ≠ lid) }) }

/-- LAUNCH_SELECT: an idle controller takes a head for distribution; resumed launches go first (02 R21, 13 R380). The class is fixed
here (02 R29, R38). -/
def execLaunchSelect (base : Nat) (s : State) : Out :=
  .next (
    if s.distributing base ∨ (s.ctlOf base).resumed ≠ [] then s
    else match bestHead (s.heads base) with
      | none => s
      | some (q, r, c) =>
        if recCor r.words then s
        else (s.dequeue base q r.lid).modLaunch r.lid fun l => { l with phase := .distributing, cls := c })

/-! ### Thread-start messages (02 R24 to R26) -/

/-- Argument word k of a record. -/
def recArg (w : BitVec 512) (k : Nat) : Word := w.extractLsb' (256 + 64 * k) 64

/-- The message that starts thread i of a launch (02 R16). -/
def Launch.startMsg (l : Launch) (i : Nat) : InMsg where
  kind := 0
  lid := l.lid
  pc := recEntry l.words
  x1 := recArg l.words 0
  x2 := recArg l.words 1
  x3 := recArg l.words 2
  x4 := recArg l.words 3
  spawnno := BitVec.ofNat 64 (i + 1)
  tid := BitVec.ofNat 32 i
  cls := l.cls
  space := l.space
  rmode := 0
  ehandler := recHandler l.words
  payload := []
  bad := []
  badWords := []

/-- A launch from a device thread: its threads see what the launching thread stored before (02 R20). -/
def Launch.fromDevice (l : Launch) : Bool := decide (8 ≤ l.queue)

/-- The k-th core of a message's route, from the controller's column along row 0, then down (02 R25); none past the hint. -/
def routeCore (b h k : Nat) : Option Nat :=
  let x0 := 16 * b + 8
  let dx := ((coreX h : Int) - x0).natAbs
  if k ≤ dx then some (coreNo (if x0 ≤ coreX h then x0 + k else x0 - k) 0)
  else if k ≤ dx + coreY h then some (coreNo (coreX h) (k - dx))
  else none

/-- Send a message out, or hold it where no core qualifies (02 R24). -/
def State.aim (s : State) (l : Launch) (i : Nat) : StartMsg :=
  match s.hintOf l.words i with
  | some h => ⟨l.base, l.lid, i, h, .route 0⟩
  | none => ⟨l.base, l.lid, i, 0, .held s.clock.toNat⟩

/-- THREAD_START_EMIT: the controller sends the next thread's message, at most one in a cycle (02 R25). -/
def execThreadStartEmit (base : Nat) (s : State) : Out :=
  .next (match s.launches.find? fun l => decide (l.base = base ∧ l.phase = .distributing) with
    | none => s
    | some l =>
      if recN l.words ≤ l.next ∨ (s.ctlOf base).emitAt = some s.clock.toNat then s
      else
        let p : Phase := if recN l.words ≤ l.next + 1 then .distributed else .distributing
        let s1 := s.putCtl base { s.ctlOf base with emitAt := some s.clock.toNat }
        { s1.modLaunch l.lid (fun l => { l with next := l.next + 1, phase := p }) with starts := s.starts ++ [s.aim l l.next] })

/-- May a message that waits in a core's queue start now? -/
def State.mayStart (s : State) (n : Nat) (m : InMsg) : Bool :=
  !s.stopped m.lid && (s.idleFor n m.lid m.cls).isSome

/-- May a queued message of a core start now? It then goes before any that arrives (02 R26, 21 R282). -/
def State.inboxReady (s : State) (n : Nat) : Bool :=
  (s.core n).inbox.any (s.mayStart n)

/-- The messages of a kind group in a core's inbound queue: thread-starts, or spawns and sends (02 R26). -/
def Core.inboxCount (c : Core) (start : Bool) : Nat :=
  (c.inbox.filter fun m => decide (m.kind = 0) == start).length

/-- A message enters a core's inbound queue. -/
def State.enqueueAt (s : State) (n : Nat) (m : InMsg) : State :=
  s.setCore n { s.core n with inbox := (s.core n).inbox ++ [m] }

/-- Replace a thread-start message, or take it out. -/
def State.putStart (s : State) (k : Nat) (m : Option StartMsg) : State :=
  { s with starts := match m with
    | some a => setNth s.starts k a
    | none => dropNth s.starts k }

/-- THREAD_START_MESSAGE: a message at a core of its route is taken, goes on, and at its hint is queued or returned (02 R24 to R26). -/
def execThreadStartMessage (msg : Nat) (s : State) : Out :=
  .next (match nth s.starts msg with
    | none => s
    | some m => match s.launchOf m.lid, m.place with
      | some l, .route p => match routeCore m.base m.hint p with
        | none => s.putStart msg (some { m with place := .returned })
        | some n =>
          if s.inboxReady n then s
          else
            let near := s.takes n && decide (hops m.hint n ≤ recRadius l.words)
            match (if near then s.idleFor n l.lid l.cls else none) with
            | some i => ((s.putStart msg none).handOut n 3).startThread n i (l.startMsg m.idx) l.fromDevice
            | none =>
              if n ≠ m.hint then s.putStart msg (some { m with place := .route (p + 1) })
              else if s.takes n && decide ((s.core n).inboxCount true < 16) then (s.putStart msg none).enqueueAt n (l.startMsg m.idx)
              else s.putStart msg (some { m with place := .returned })
      | _, _ => s)

/-- RETURNED_THREAD_START: a returned message reaches the controller, which counts 256 cycles (02 R24, R26). -/
def execReturnedThreadStart (msg : Nat) (s : State) : Out :=
  .next (match nth s.starts msg with
    | some m => if m.place = .returned then s.putStart msg (some { m with place := .timed s.clock.toNat }) else s
    | none => s)

/-- Send a message again with its hint computed afresh, its launch permitting. -/
def State.resend (s : State) (k : Nat) (m : StartMsg) (since : Nat) : State :=
  if s.stopped m.lid ∨ s.clock.toNat < since + Config.reemitAfter then s
  else match s.launchOf m.lid with
    | some l => s.putStart k (some (s.aim l m.idx))
    | none => s

/-- REEMIT_TIMEOUT (02 R24, R26). -/
def execReemitTimeout (msg : Nat) (s : State) : Out :=
  .next (match nth s.starts msg with
    | some m => match m.place with
      | .timed t => s.resend msg m t
      | _ => s
    | none => s)

/-- HELD_MESSAGE_RETRY (02 R24). -/
def execHeldMessageRetry (msg : Nat) (s : State) : Out :=
  .next (match nth s.starts msg with
    | some m => match m.place with
      | .held t => s.resend msg m t
      | _ => s
    | none => s)

/-- CORESIDENT_START: a co-resident head that comes first under R21 starts all its threads, its assignment having succeeded over the idle
contexts (02 R21, R27). -/
def execCoresidentStart (base q : Nat) (s : State) : Out :=
  .next (
    if s.distributing base ∨ (s.ctlOf base).resumed ≠ [] then s
    else match bestHead (s.heads base) with
      | none => s
      | some (q1, r, c) => match s.launchOf r.lid, s.corCores r c with
        | some l0, some ns =>
          if q1 ≠ q ∨ recCor r.words = false then s
          else
            let l := { l0 with cls := c, phase := .distributed, next := recN r.words }
            let s1 := (s.dequeue base q r.lid).modLaunch r.lid fun _ => l
            (ns.zip (List.range ns.length)).foldl (fun s e => match s.idleFor e.1 l.lid c with
              | some i => (s.handOut e.1 3).startThread e.1 i (l.startMsg e.2) l.fromDevice
              | none => s) s1
        | _, _ => s)

/-! ### Spawn and send messages, queued messages (02 R28, 20 R282, 15 R219) -/

/-- SPAWN_MESSAGE: once its release holds, a message reaches its core and its status is decided there. -/
def execSpawnMessage (msg : Nat) (s : State) : Out :=
  .next (match nth s.outs msg with
    | none => s
    | some o =>
      if o.launch.isSome || !s.gate o.core o.ctx o.seq o.qpos o.scope then s
      else
        let n := o.dest
        if (s.core n).parked then (s.dropOut msg).answer o (.val 2)
        else if s.inboxReady n then s
        else match s.idleFor n o.msg.lid o.msg.cls with
          | some i => (((s.dropOut msg).handOut n 3).startThread n i o.msg true).answer o (.val 0)
          | none =>
            if (s.core n).inboxCount false < 16 then ((s.dropOut msg).enqueueAt n o.msg).answer o (.val 1)
            else (s.dropOut msg).answer o (.val 2))

/-- The oldest queued message that may start does, in the lowest idle context it may take; where the core has handed a context to an arriving
message in this cycle, its turn comes in the next (21 R282). -/
def State.startQueued (s : State) (core : Nat) : State :=
  if s.handedPast core 2 then s
  else match (s.core core).inbox.find? (s.mayStart core) with
    | none => s
    | some m => match s.idleFor core m.lid m.cls with
      | none => s
      | some i =>
        let dev := (s.launchOf m.lid).any Launch.fromDevice
        ((s.setCore core { s.core core with inbox := (s.core core).inbox.erase m }).handOut core 2).startThread core i m
          (decide (m.kind ≠ 0) || dev)

/-- INBOUND_MESSAGE_START: a core starts a queued message. -/
def execInboundMessageStart (core : Nat) (s : State) : Out :=
  .next (s.startQueued core)

/-- Every queued message that may start in a cycle does so before the next (21 R282). -/
def State.startAll (s : State) : State :=
  s.cores.foldl (fun s c => c.2.inbox.foldl (fun s _ => s.startQueued c.1) s) s

/-! ### A launch ends (02 R22, R36; 28 R359, R363, R364) -/

/-- Have all copy and bank commands of a launch completed? -/
def State.commandsDone (s : State) (lid : BitVec 32) : Bool :=
  s.cores.all (fun c => c.2.copyFifo.all fun r => decide (r.lid ≠ lid)) &&
  s.bankCmds.all (fun c => decide (c.lid ≠ lid)) &&
  s.engines.all fun e => e.2.fifo.all (fun c => decide (c.lid ≠ lid)) && (match e.2.run with
    | some r => decide (r.cmd.lid ≠ lid)
    | none => true)

/-- Is no message of a launch on its way or queued? -/
def State.messagesDone (s : State) (lid : BitVec 32) : Bool :=
  s.starts.all (fun m => decide (m.lid ≠ lid)) && s.outs.all (fun o => decide (o.msg.lid ≠ lid)) &&
  s.cores.all fun c => c.2.inbox.all fun m => decide (m.lid ≠ lid)

/-- The bits that a launch's threads hold are freed, so that nothing waits for a thread that issues no more (13 R185, 12 R178). -/
def State.freeLocks (s : State) (lid : BitVec 32) : State :=
  (s.threadsOf lid).foldl (fun s e => (s.freeLock e.1 e.2).dropWaits e.1 e.2) s

/-- Is a gang's last group being committed, which a halt leaves to end (22 R292)? -/
def State.lastGroup (s : State) (n : Nat) (o : MxOp) : Bool :=
  decide (o.k ≤ o.kdone + 32) && (blockOf n (s.core n).mx.g.toNat).all fun m => (s.core m).mx.grant && (s.core m).mx.awake

/-- Running operations of a launch's threads stop with STATUS 4 (22 R301). -/
def State.stopGangs (s : State) (lid : BitVec 32) : State :=
  (s.threadsOf lid).foldl (fun s e => match (s.core e.1).mx.op with
    | some o =>
      if o.ctx = e.2 && !s.lastGroup e.1 o then
        (blockOf e.1 (s.core e.1).mx.g.toNat).foldl (fun s n => (s.endMember n 4 0 0 0).dropRevoked false n) s
      else s
    | none => s) s

/-- Has all that a halt waits for happened to a thread: trap entry over, an instruction with stores left completed, results landed, stores
acknowledged, its operation stopped? -/
def State.halts (s : State) (n i : Nat) (ending : Bool) : Bool :=
  let t := s.ctx n i
  (ending || t.trapPend.isNone) && t.todo.isNone &&
  t.windows.all (fun w => w.res.isSome || (ending && (match w.pend with
    | .message _ => true
    | _ => false))) &&
  (s.core n).storeQ.all (fun e => decide (e.ctx ≠ i)) &&
  (match (s.core n).mx.op with
    | some o => decide (o.ctx ≠ i)
    | none => true)

/-- Channels that a launch's threads bound are unbound (18 R252). -/
def State.unbind (s : State) (lid : BitVec 32) : State :=
  { s with cores := s.cores.map fun c => (c.1, { c.2 with chans := c.2.chans.filterMap fun h => match h.2.bound with
      | some b => if b.lid = lid then (if h.2 = ⟨some b, false, 0⟩ then none else some (h.1, { h.2 with bound := none })) else some h
      | none => some h }) }

/-- The messages of a launch are withdrawn. -/
def State.withdraw (s : State) (lid : BitVec 32) : State :=
  { s with
    starts := s.starts.filter fun m => decide (m.lid ≠ lid),
    outs := s.outs.filter fun o => decide (o.msg.lid ≠ lid),
    cores := s.cores.map fun c => (c.1, { c.2 with inbox := c.2.inbox.filter fun m => decide (m.lid ≠ lid) }) }

/-- The number under which a controller's own translations are held (log 22). -/
def ctlNode (b : Nat) : Nat := 1024 + b

/-- The core at a controller's node, for its log entries. -/
def ctlCore (b : Nat) : Nat := coreNo (16 * b + 8) 0

/-- The controller looks up a word of the record as a copy engine does; it has no scratch of its own (02 R22). -/
def State.recordLook (s : State) (l : Launch) (va : Word) : Eng Acc × State :=
  if bits va 56 4 = 13 ∨ bits va 56 4 = 14 then (.fail 3, s) else s.engLook (ctlNode l.base) 82 l.space va 1 8

/-- The launch's status is entered, the vector sent, and the launch is no longer live. `unwritten`: CADDR took no record. -/
def State.enterStatus (s : State) (l : Launch) (st : Nat) (unwritten : Bool) : State :=
  let u := s.queueOf l.base l.queue
  let s1 := s.putQueue l.base l.queue { u with
    lastStatus := BitVec.ofNat 3 st, lastV := true, lastLid := l.lid, ended := u.ended + 1,
    noRecord := if unwritten then u.noRecord + 1 else u.noRecord }
  let s2 := if unwritten then s1.logErr 7 (recCaddr l.words) l.lid (s1.coordOf (ctlCore l.base) 0) 0 else s1
  let c := s2.ctlOf l.base
  let s3 := if c.busy ∧ c.cmdLid = l.lid then s2.putCtl l.base { c with busy := false } else s2
  let s4 := s3.setCore (ctlNode l.base) { s3.core (ctlNode l.base) with tlb := [] }
  let s5 : State := { s4 with launches := s4.launches.filter fun k => decide (k.lid ≠ l.lid) }
  if u.msien && decide (l.queue < 8) then s5.sendVector u.msivec else s5

/-- Word 0 of a completion record (28 R363). -/
def recordWord (lid : BitVec 32) (st : Nat) : Nat :=
  2 ^ 63 + lid.toNat * 2 ^ 8 + st % 8

/-- Write the record where CADDR takes one, CLOCK first, then enter the status (28 R363, 02 R22). -/
def State.report (s : State) (l : Launch) (st : Nat) : State :=
  let ca := recCaddr l.words
  if ca = 0 then s.enterStatus l st false
  else if !fieldOk ca 8 then s.enterStatus l st true
  else
    let a := s.recordLook l ca
    match a.1 with
    | .wait => a.2
    | .fail _ => a.2.enterStatus l st true
    | .ok a0 =>
      let b := a.2.recordLook l (ca + 8)
      match b.1 with
      | .wait => b.2
      | .fail _ => b.2.enterStatus l st true
      | .ok a1 =>
        let n := ctlCore l.base
        if isRemote a0.loc && decide (b.2.pkg.podReplies.length < 2) then b.2
        else
          let w1 := b.2.engWrite n l.lid a1 s.clock.toNat
          let w0 := w1.2.engWrite n l.lid a0 (recordWord l.lid st)
          w0.2.enterStatus l st (decide (w1.1 ≠ .ok () ∨ w0.1 ≠ .ok ()))

/-- LAUNCH_COMPLETION: a launch whose threads have all retired, with its messages and commands, ends with status 0; one that ends with
another status first has its threads halted and idled, its messages withdrawn and its commands completed (02 R36). -/
def execLaunchCompletion (lid : BitVec 32) (s : State) : Out :=
  .next (match s.launchOf lid with
    | none => s
    | some l => match l.phase with
      | .distributed =>
        if recN l.words ≤ l.next ∧ s.threadsOf lid = [] ∧ s.messagesDone lid = true ∧ s.commandsDone lid = true then
          (s.modLaunch lid fun l => { l with phase := .ending 0 }).report l 0
        else s
      | .ending st =>
        let s1 := (s.freeLocks lid).stopGangs lid
        if (s1.threadsOf lid).all (fun e => s1.halts e.1 e.2 true) && s1.commandsDone lid then
          let s2 := (s1.withdraw lid).unbind lid
          let s3 := (s2.threadsOf lid).foldl (fun s e => s.retireCtx e.1 e.2) s2
          (s3.wires.dequeue l.base l.queue lid).report l st
        else s1
      | _ => s)

end Sys2Proof.Machine
end

