-- ==== Sys2Proof/Machine/Preempt.lean ====
section
/-! DEFINITION. Pre-emption, the save region, resume and termination by the host (13 R185 to R189, R380; 22 R301, R302; 28 R360). -/

namespace Sys2Proof.Machine

/-! ### The global region as a controller reads and writes it: under key index 0 and buffer id 0 (log 23) -/

/-- The 8-byte word at an offset of the global region. -/
def State.regionAcc (s : State) (off : Nat) : Option Acc :=
  (s.globalLoc off).map fun loc => ⟨0, loc, 8, false, 0, 0⟩

/-- Its value and whether it is poisoned; none outside the region. -/
def State.regionRead (s : State) (off : Nat) : Option (Nat × Bool) :=
  (s.regionAcc off).map fun a => (s.homeRead a a.loc 8).1

/-- Its value where it reads without a fault. -/
def State.regionWord (s : State) (off : Nat) : Option Nat :=
  match s.regionRead off with
  | some (v, false) => some v
  | _ => none

/-- Is a word of the region poisoned? -/
def State.regionBad (s : State) (off : Nat) : Bool :=
  ((s.regionRead off).map (·.2)).getD false

/-- Its value, 0 where there is none. The spec gives a resume no RESULT for a poisoned word of the save region: what says how the region is to
be read is refused with RESULT 2, a register or a result whose word is poisoned is marked in error (DESIGN CHOICE, log 83). -/
def State.regionVal (s : State) (off : Nat) : Nat :=
  ((s.regionRead off).map (·.1)).getD 0

/-- Write a word of the region, with its poison mark. -/
def State.regionPut (s : State) (off : Nat) (w : Nat × Bool) : State :=
  match s.regionAcc off with
  | none => s
  | some a =>
    let s1 := (s.homeWrite a a.loc 8 w.1).2
    if w.2 then s1.markPoison a.loc else s1

/-- Write consecutive words. -/
def State.regionPuts (s : State) (off : Nat) (ws : List (Nat × Bool)) : State :=
  match ws with
  | [] => s
  | w :: t => (s.regionPut off w).regionPuts (off + 8) t

def clean (ws : List Nat) : List (Nat × Bool) := ws.map fun w => (w, false)

/-- Round up to 64 bytes. -/
def up64 (n : Nat) : Nat := (n + 63) / 64 * 64

/-- Pad a section of words to 64 bytes. -/
def pad64 (ws : List (Nat × Bool)) : List (Nat × Bool) :=
  ws ++ List.replicate ((8 - ws.length % 8) % 8) (0, false)

/-- A core in the coord layout (12 R174). -/
def coordBits (n : Nat) : Nat := coreY n * 2 ^ 7 + coreX n * 4

/-! ### Context records (13 R187) -/

/-- The saved form of a wait: WS, PH and the address. -/
def savedWait (r : Run) : Nat × Bool × Nat :=
  match r with
  | .halted (some (.bar a _ ph _ _ _)) => (1, ph, a.toNat)
  | .halted (some (.word _ _ _ _)) => (2, false, 0)
  | .halted (some .gang) => (3, false, 0)
  | _ => (0, false, 0)

/-- The words of a vector. -/
def vecWords (v : Vec) : List Nat := (List.range 8).map fun k => (v.extractLsb' (64 * k) 64).toNat

/-- The words of a 256-bit set. -/
def setWords (q : BitVec 256) : List Nat := (List.range 4).map fun k => (q.extractLsb' (64 * k) 64).toNat

/-- A window record: 64 bytes of result, then its fields. -/
def Window.words (w : Window) : List Nat :=
  let reg : Nat × Nat := match w.dest with
    | .x n => (0, n.toNat)
    | .v n => (1, n.toNat)
  let r : Nat × List Nat := match w.res with
    | some (.fault c _ a) => (c, a.toNat :: List.replicate 7 0)
    | some (.val v) => (0, if reg.1 = 0 then (v.extractLsb' 0 64).toNat :: List.replicate 7 0 else vecWords v)
    | none => (0, List.replicate 8 0)
  r.2 ++ [w.mask.toNat * 2 ^ 24 + r.1 * 2 ^ 16 + w.left * 2 ^ 12 + w.held.toNat * 2 ^ 11 + reg.1 * 2 ^ 10 + reg.2 * 2 ^ 5]

/-- The windows that a record holds, in issue order: at most 16 (13 R187). -/
def Ctx.recWins (t : Ctx) : List Window :=
  (bySeq t.windows).take 16

/-- The CSRs of a record: number and word. Each is written under its own rule, so that its reserved bits read zero (00 R4, 14 R206). -/
def recCsrs : List (Nat × Nat) :=
  [(0x004, 302), (0x005, 303), (0x006, 304), (0x007, 305), (0x008, 306), (0x009, 307), (0x00A, 308), (0x00B, 309), (0x00C, 310),
   (0x00D, 311), (0x00E, 312), (0x040, 313), (0x041, 314), (0x042, 315), (0x043, 316)]

/-- The registers that a word of a record holds; the pc stands for what every instruction reads (13 R184, log 83). -/
def wordRegs (j : Nat) : List RegName :=
  if j = 0 then []
  else if j < 32 then [.x (BitVec.ofNat 5 j)]
  else if j < 288 then [.v (BitVec.ofNat 5 ((j - 32) / 8))]
  else if j = 288 then [.k 1, .k 2, .k 3]
  else if j = 289 then [.k 4, .k 5, .k 6, .k 7]
  else if j < 294 then [.qm]
  else if j < 298 then [.qd]
  else if j = 298 ∨ j = 317 then [.pc]
  else if j = 299 then [.csr 0x000]
  else if j = 300 then [.csr 0x001]
  else if j = 301 then [.csr 0x003]
  else (recCsrs.filter fun e => decide (e.2 = j)).map fun e => .csr (BitVec.ofNat 12 e.1)

/-- The words of a record with poison marks: a word that holds a register in error is written poisoned (13 R184). -/
def Ctx.marked (t : Ctx) (ws : List Nat) : List (Nat × Bool) :=
  ws.mapIdx fun j w => (w, (wordRegs j).any t.regErr.contains)

/-- A context record. -/
def Ctx.record (t : Ctx) (coord : Word) : List Nat :=
  let k := fun (j : Nat) => (t.rk (BitVec.ofNat 3 j)).toNat
  let ws := savedWait t.run
  (List.range 32).map (fun j => (t.rx (BitVec.ofNat 5 j)).toNat) ++
  (List.range 32).flatMap (fun j => vecWords (t.rv (BitVec.ofNat 5 j))) ++
  [k 0 + k 1 * 2 ^ 16 + k 2 * 2 ^ 32 + k 3 * 2 ^ 48, k 4 + k 5 * 2 ^ 16 + k 6 * 2 ^ 32 + k 7 * 2 ^ 48] ++
  setWords t.qm ++ setWords t.qd ++
  [t.pc.toNat, t.tid.toNat, t.lid.toNat, t.spawnno.toNat, t.rmode.toNat, t.vflg0.toNat, t.vflg1.toNat, t.fmtp.toNat, t.tstat.toNat,
    t.cvd.toNat, t.cvf.toNat, t.qtb.toNat * 256, t.qstr.toNat, t.qbat.toNat, t.mxprog.toNat, t.epc.toNat, t.ecause.toNat, t.etval.toNat,
    t.ehandler.toNat,
    t.recWins.length * 2 ^ 43 + ws.1 * 2 ^ 40 + ws.2.1.toNat * 2 ^ 39 + t.inh.toNat * 2 ^ 38 + t.latchOn.toNat * 2 ^ 37 +
      t.latch.toNat * 2 ^ 18 + t.cls.toNat * 2 ^ 16 + t.space.toNat,
    ws.2.2, coord.toNat] ++
  t.recWins.flatMap Window.words

/-- A 512-bit value of eight words. -/
def wordsVec (g : Nat → Nat) (k : Nat) : Vec :=
  (List.range 8).foldl (fun v j => vecPut v (8 * j) 8 (g (k + j))) 0

/-- The result of a window record: a value, or a fault with its cause, the access kind that the controller kept, and its address. A value
with a poisoned word is no value (13 R184): CAUSE 5 with the address 0 (log 83). -/
def restoredRes (v : Vec) (cause kind : Nat) (bad : Bool) : Res :=
  if cause ≠ 0 then .fault cause kind (v.setWidth 64) else if bad then .fault 5 0 0 else .val v

/-- The window records of a saved context, with what the controller kept of them (log 22). `p` says which words are poisoned. -/
def restoredWindows (g : Nat → Nat) (p : Nat → Bool) (seq : Nat) (x : SavedCtx) (w : Nat) : List Window :=
  (List.range w).map fun j =>
    let m := BitVec.ofNat 64 (g (328 + 9 * j))
    let v := wordsVec g (320 + 9 * j)
    let reg : BitVec 5 := m.extractLsb' 5 5
    { seq := seq + j, qpos := 0, dest := if m.getLsbD 10 then .v reg else .x reg, mask := m.extractLsb' 24 16, left := bits m 12 4,
      held := m.getLsbD 11, pend := .none,
      res := some (restoredRes v (bits m 16 8) (x.kinds.getD j 0) ((List.range 9).any fun k => p (320 + 9 * j + k))) }

/-- The registers of a record whose words are poisoned. -/
def badRegs (p : Nat → Bool) : List RegName :=
  (List.range 318).flatMap fun j => if p j then wordRegs j else []

/-- A completion record from a save region: its reserved bits read zero (00 R4; 18 R250, 26 R333). -/
def recWord (copy : Bool) (w : Word) : Word :=
  w &&& if copy then 0xFFFF1F01FFFFFFFF else 0xFFFFFFE0FFFFFFFF

/-- The places of a restored record queue: a copy record names its channel in bits 59:56 (18 R252); what its command wrote the controller
has kept, and of a record that the region's owner has added nothing is known. -/
def restoredSlots (copy : Bool) (kept : List (List (Nat × Nat))) (ws : List Word) : List RecSlot :=
  (ws.zip (List.range ws.length)).map fun e =>
    ⟨0, if copy then bits e.1 56 4 else 0, some (recWord copy e.1), kept.getD e.2 [], decide (kept.length ≤ e.2)⟩

/-- A context from its record; its generation and order go on from the context that takes it. -/
def Ctx.restored (old : Ctx) (g : Nat → Nat) (p : Nat → Bool) (x : SavedCtx) (cls : BitVec 2) (cq bq : List Word) : Ctx :=
  let b := fun (j : Nat) => BitVec.ofNat 64 (g j)
  let st := b 317
  let set := fun (k : Nat) => (List.range 4).foldl (fun (q : BitVec 256) j => q ||| (BitVec.ofNat 256 (g (k + j)) <<< (64 * j))) 0
  let n := min 16 (bits st 43 5)
  let t : Ctx := { Ctx.reset with
    run := .ready, pc := b 298 &&& ~~~3,
    x := msetList 0 [] 1 ((List.range 31).map fun j => b (j + 1)),
    v := msetList 0 [] 0 ((List.range 32).map fun j => wordsVec g (32 + 8 * j)),
    k := msetList 0 [] 1 ((List.range 7).map fun j => BitVec.ofNat 16 (g (288 + (j + 1) / 4) / 2 ^ (16 * ((j + 1) % 4)))),
    qm := set 290, qd := set 294,
    tid := (b 299).setWidth 32, lid := (b 300).setWidth 32, spawnno := b 301, scnt := (b 306).extractLsb' 8 6,
    space := st.extractLsb' 0 12, cls := cls, latch := st.extractLsb' 18 19, latchOn := st.getLsbD 37, inh := st.getLsbD 38,
    windows := restoredWindows g p old.seq x n, copyQ := restoredSlots true x.copied cq, bankQ := restoredSlots false x.banked bq,
    poisonDue := x.due, poisonHeld := x.heldDue, regErr := badRegs p, gen := old.gen, seq := old.seq + n }
  recCsrs.foldl (fun t e => t.putCsr e.1 (b e.2)) t

/-! ### Section sizes and the region a save needs (13 R188, 28 R360) -/

def ctxBytes (t : Ctx) : Nat := up64 (2560 + 72 * t.recWins.length)
def winBytes (ws : List (Nat × Nat × Nat)) : Nat := (ws.map fun w => 16 + w.2.2).sum
def matBytes : Nat := 0x100C0

/-- The cores whose slices threads of a launch own. -/
def State.ownedBy (s : State) (lid : BitVec 32) : List Nat :=
  (s.cores.map (·.1)).filter fun n => match (s.core n).mx.owner with
    | some i => decide ((s.ctx n i).lid = lid ∧ (s.ctx n i).run ≠ .idle)
    | none => false

/-- The bytes a save needs with every context at 4,000; messages that may still start a thread count as contexts (log 23). -/
def State.saveNeed (s : State) (lid : BitVec 32) (ws : List (Nat × Nat × Nat)) : Nat :=
  let going := (s.starts.filter fun m => decide (m.lid = lid) && (match m.place with
    | .route _ => true
    | _ => false)).length + (s.outs.filter fun o => decide (o.msg.lid = lid) && o.launch.isNone).length
  let nc := (s.threadsOf lid).length + going
  let nm := (s.cores.map fun c => (c.2.inbox.filter fun m => decide (m.lid = lid)).length).sum
  4096 + up64 (16 * nc) + 3712 * nc + up64 (272 * nc) + up64 (winBytes ws) + matBytes * (s.ownedBy lid).length + 320 * nm

/-! ### Commands (28 R360) -/

/-- A command ends with a RESULT. -/
def State.cmdEnd (s : State) (b r : Nat) : State :=
  s.putCtl b { s.ctlOf b with busy := false, result := BitVec.ofNat 4 r }

/-- A command goes on while BUSY is 1. -/
def State.cmdGo (s : State) (b : Nat) (lid : BitVec 32) : State :=
  s.putCtl b { s.ctlOf b with busy := true, result := 0, cmdLid := lid }

/-- The window list from an offset on: none where it cannot be read, an entry out of bounds as such. -/
def State.windowList (s : State) (off k : Nat) : Option (List (Nat × Nat × Nat)) :=
  match k with
  | 0 => some []
  | k + 1 => match s.regionWord off, s.regionWord (off + 8) with
    | some c, some e => (s.windowList (off + 16) k).map fun t => (coordCore (BitVec.ofNat 64 c), e % 2 ^ 32, e / 2 ^ 32) :: t
    | _, _ => none

/-- Is an entry of the list well formed and its core active? -/
def State.windowOk (s : State) (w : Nat × Nat × Nat) : Bool :=
  decide (w.2.1 % 64 = 0 ∧ w.2.2 % 64 = 0 ∧ w.2.1 + w.2.2 ≤ 2 ^ 20) && s.active w.1

/-- The list a command names at LWIN; 0 names none. -/
def State.readWindows (s : State) (at0 : Nat) : Option (List (Nat × Nat × Nat)) :=
  if at0 = 0 then some []
  else if at0 % 64 ≠ 0 then none
  else (s.regionWord at0).bind fun k => s.windowList (at0 + 8) k

/-- Does a stretch of the global region exist? -/
def State.regionHas (s : State) (off n : Nat) : Bool :=
  (s.globalLoc off).isSome && (s.globalLoc (off + n - 1)).isSome

/-- Is a launch waiting at its queue's head? -/
def State.atHead (s : State) (l : Launch) : Bool :=
  decide (l.phase = .queued) && (match (s.queueOf l.base l.queue).head with
    | some r => decide (r.lid = l.lid)
    | none => false)

/-- LCMD_PREEMPT: after its checks the launch halts; one that waits at its queue head leaves its queue (13 R185, R380). -/
def execLcmdPreempt (base : Nat) (lid : BitVec 32) (s : State) : Out :=
  .next (
    let c := s.ctlOf base
    if c.busy then s
    else match s.launchOf lid with
      | none => s.cmdEnd base 1
      | some l =>
        if l.base ≠ base then s.cmdEnd base 1
        else if !(decide (l.phase = .distributing ∨ l.phase = .distributed) || s.atHead l) then s.cmdEnd base 2
        else match s.readWindows c.lwin.toNat with
          | none => s.cmdEnd base 7
          | some ws =>
            let need := s.saveNeed lid ws
            let at0 := c.lsave.toNat / 2 ^ 16 * 2 ^ 16
            if !ws.all s.windowOk then s.cmdEnd base 6
            else if c.lsize.toNat < need ∨ s.regionHas at0 need = false then
              let s1 := s.cmdEnd base 3
              s1.putCtl base { s1.ctlOf base with need := BitVec.ofNat 32 ((need + 0xFFFF) / 2 ^ 16) }
            else
              let s1 := (s.cmdGo base lid).dropResumed lid
              if l.phase = .queued then
                (s1.dequeue base l.queue lid).modLaunch lid fun l => { l with phase := .halted, waitq := true, cls := s.effClass base l.queue l.words, lsave := at0, lwin := ws, saved := [] }
              else s1.modLaunch lid fun l => { l with phase := .halting, lsave := at0, lwin := ws, saved := [] })

/-- Is the pre-emption of a launch in progress, the command that keeps its controller busy? -/
def State.preempting (s : State) (base : Nat) (lid : BitVec 32) : Bool :=
  (s.ctlOf base).busy && decide ((s.ctlOf base).cmdLid = lid) && (match s.launchOf lid with
    | some l => decide (l.phase = .halting ∨ l.phase = .halted)
    | none => false)

/-- LCMD_TERMINATE: a live launch ends with status 5; one that has begun to end keeps its status (02 R36, 28 R364). While the controller is
busy with another command it is ignored (28 R360), but for the launch whose pre-emption is in progress: the halt completes, nothing is
saved, and the record follows (02 R36; log 82). -/
def execLcmdTerminate (base : Nat) (lid : BitVec 32) (s : State) : Out :=
  .next (
    if (s.ctlOf base).busy && !s.preempting base lid then s
    else match s.launchOf lid with
      | none => s.cmdEnd base 1
      | some l =>
        if l.base ≠ base then s.cmdEnd base 1
        else match l.phase with
          | .ending _ => s.cmdEnd base 2
          | _ =>
            ((s.cmdGo base lid).dequeue base l.queue lid).endLaunch lid 5)

/-! ### The halt (13 R185, R186) -/

/-- A context's generation rises, and the commands it pushed go on for the halted context. -/
def State.regen (s : State) (n i : Nat) : State :=
  let t := s.ctx n i
  let g := t.gen + 1
  let mine := fun (c : BankCmd) => if c.core = n ∧ c.ctx = i ∧ c.gen = t.gen then { c with gen := g } else c
  let k := s.core n
  let s1 := s.setCore n { k with copyFifo := k.copyFifo.map fun r => if r.ctx = i ∧ r.gen = t.gen then { r with gen := g } else r }
  { s1.setCtx n i { s1.ctx n i with gen := g } with
    bankCmds := s.bankCmds.map mine,
    engines := s.engines.map fun e => (e.1, { e.2 with fifo := e.2.fifo.map mine, run := e.2.run.map fun r => { r with cmd := mine r.cmd } }) }

/-- Open rendezvous entries are merged into their holder, and freed (20 R269). -/
def State.closeEntries (s : State) (n i : Nat) : State :=
  let c := s.core n
  let mine := c.rvt.filter fun e => decide (e.holder = i)
  let m := mine.foldl (fun (q : BitVec 256) e => if e.isSealed then q else q ||| e.mask) 0
  let s1 := s.setCore n { c with rvt := c.rvt.filter fun e => decide (e.holder ≠ i) }
  s1.setCtx n i { s1.ctx n i with qm := (s1.ctx n i).qm ||| m }

/-- What a context waits for after the halt: an HBAR's arrival is withdrawn, so it issues again (13 R186). -/
def Run.kept (r : Run) : Option Wait :=
  match r with
  | .waiting w => (match w with
    | .hbar _ _ _ _ => none
    | w => some w)
  | _ => none

/-- Before it halts, a BART's time-out expires. Traps that are due wait for the resume (13 R185, R379). -/
def State.beforeHalt (s : State) (n i : Nat) : State :=
  match (s.ctx n i).run with
  | .waiting (.bar _ _ _ d (some _) _) => s.complete n i d 3
  | _ => s

/-- The slice of a context in gang wait forgets the formation, and counts as idle from here on (22 R303). -/
def State.dropForm (s : State) (n i : Nat) : State :=
  match (s.core n).mx.form with
  | some o => if o.ctx = i then s.putMx n { (s.core n).mx with form := none, idleAt := s.clock.toNat } else s
  | none => s

/-- A context is halted in the state that 13 R186 saves. -/
def State.haltCtx (s : State) (n i : Nat) : State :=
  let s1 := ((((((s.beforeHalt n i).freeLock n i).lockForget n i).abandon n i).closeEntries n i).regen n i).dropForm n i
  let t := s1.ctx n i
  s1.setCtx n i { t with
    run := .halted t.run.kept, stallAt := none, stallCnt := 0, trapPend := none, yieldFor := none, barHeld := none, fences := [] }

/-- PREEMPT_HALT_COMPLETE: gangs stop at a group boundary, locks are freed, and once every thread's results have landed and its stores
are acknowledged, every context is halted and queued messages are withdrawn. -/
def execPreemptHaltComplete (lid : BitVec 32) (s : State) : Out :=
  .next (match s.launchOf lid with
    | none => s
    | some l =>
      if l.phase ≠ .halting then s
      else
        let s1 := (s.freeLocks lid).stopGangs lid
        let moving := s1.starts.any (fun m => decide (m.lid = lid) && (match m.place with
          | .route _ => true
          | _ => false)) || s1.outs.any fun o => decide (o.msg.lid = lid)
        if moving || !((s1.threadsOf lid).all fun e => s1.halts e.1 e.2 false) then s1
        else
          let s2 : State := ((s1.threadsOf lid).foldl (fun s e => s.haltCtx e.1 e.2) s1).wires
          let msgs := s2.cores.flatMap fun c => (c.2.inbox.filter fun m => decide (m.lid = lid)).map fun m => (c.1, m)
          let s3 : State := { s2 with cores := s2.cores.map fun c => (c.1, { c.2 with inbox := c.2.inbox.filter fun m => decide (m.lid ≠ lid) }) }
          s3.modLaunch lid fun l => match l.phase with
              | .halting => { l with phase := .halted, msgs := msgs }
              | _ => l)

/-! ### The save (13 R187, R188; 18 R252; 22 R301; 26 R347) -/

/-- The records of a queue: a count and up to 16. -/
def queueWords (q : List RecSlot) : List Nat :=
  let rs := q.filterMap fun r => r.record.map BitVec.toNat
  rs.length :: (rs ++ List.replicate (16 - rs.length) 0)

/-- The registers that a word of a matrix record holds, counted from its accumulators: 2,048 words for each, then mxprog, then the tags. -/
def matRegs (k : Nat) : List RegName :=
  if k < 8192 then [.acc (BitVec.ofNat 2 (k / 2048))]
  else if k = 8193 then [.acc 0, .acc 1, .acc 2, .acc 3]
  else [.csr 0x00E]

/-- A matrix record with its core; what its owner's registers in error stand in is written poisoned (13 R184). -/
def State.matrixWords (s : State) (n : Nat) : List (Nat × Bool) :=
  let m := (s.core n).mx
  let t := m.owner.map fun i => s.ctx n i
  let pr := (t.map fun t => t.mxprog.toNat).getD 0
  let bad := fun (k : Nat) => (t.map fun t => t.regErr.any fun r => decide (r ∈ (matRegs k))).getD false
  (coordBits n, false) ::
    ((List.range 8192).map (fun k => (mget 0 m.acc (2 * k)).toNat + (mget 0 m.acc (2 * k + 1)).toNat * 2 ^ 32) ++ [pr]).mapIdx
      (fun k w => (w, bad k)) ++
    clean ([m.g.toNat + m.owner.isSome.toNat * 8 + m.tags.toNat * 2 ^ 8] ++
      ((m.stopped.map BitVec.toNat) ++ List.replicate (4 - m.stopped.length) 0) ++
      List.replicate (matBytes / 8 - 8199) 0)

/-- The registers that a word of a saved message starts its thread with. -/
def messageRegs (k : Nat) : List RegName :=
  match k with
  | 0 | 1 => [.pc]
  | 2 => [.x 1]
  | 3 => [.x 2]
  | 4 => [.x 3]
  | 5 => [.x 4]
  | 6 => [.csr 0x003]
  | 7 => [.csr 0x000]
  | _ => []

/-- A saved message, with the poison marks of what it carries. -/
def messageWords (n : Nat) (m : InMsg) : List (Nat × Bool) :=
  ([m.kind + m.payload.length * 2 ^ 8 + coordBits n * 2 ^ 32, m.pc.toNat, m.x1.toNat, m.x2.toNat, m.x3.toNat, m.x4.toNat,
    m.spawnno.toNat, m.tid.toNat + m.cls.toNat * 2 ^ 32].mapIdx fun k w => (w, k ≠ 0 && (messageRegs k).any m.bad.contains)) ++
  (List.range 32).map fun k => (joinBytes ((m.payload.drop (8 * k)).take 8), m.badWords.contains k)

/-- A saved window: its list entry, then its scratch with poison marks. -/
def State.windowWords (s : State) (w : Nat × Nat × Nat) : List (Nat × Bool) :=
  clean [coordBits w.1, w.2.1 + w.2.2 * 2 ^ 32] ++
  (List.range (w.2.2 / 8)).map fun k =>
    let loc := scratchAt w.1 + w.2.1 + 8 * k
    (s.rawRead loc 8, anyPoison s.poison loc 8)

/-- What the controller keeps of a context beside its record. -/
def State.keep (s : State) (n i : Nat) : SavedCtx :=
  let t := s.ctx n i
  { place := (n, i)
    wait := match t.run with
      | .halted w => w
      | _ => none
    due := t.poisonDue
    heldDue := t.poisonHeld
    owner := decide ((s.core n).mx.owner = some i)
    kinds := t.recWins.map fun w => match w.res with
      | some (.fault _ k _) => k
      | _ => 0
    copied := (t.copyQ.filter fun r => r.record.isSome).map (·.ranges)
    banked := (t.bankQ.filter fun r => r.record.isSome).map (·.ranges) }

/-- The offsets of the sections: index, records of each context, engine, window, matrix, message, and the total. -/
structure Sections where
  recs : List Nat
  eng : Nat
  win : Nat
  mat : Nat
  msg : Nat
  total : Nat

/-- Running sums. -/
def offsets (at0 : Nat) (ns : List Nat) : List Nat :=
  match ns with
  | [] => []
  | n :: t => at0 :: offsets (at0 + n) t

/-- Lay the sections out (13 R188). -/
def layout (ctxs : List Ctx) (ws : List (Nat × Nat × Nat)) (mats msgs : Nat) : Sections :=
  let r0 := 4096 + up64 (16 * ctxs.length)
  let sizes := ctxs.map ctxBytes
  let eng := r0 + sizes.sum
  let win := eng + up64 (272 * ctxs.length)
  let mat := win + up64 (winBytes ws)
  let msg := mat + matBytes * mats
  ⟨offsets r0 sizes, eng, win, mat, msg, msg + 320 * msgs⟩

/-- The header's words after the first. -/
def headerWords (l : Launch) (nctx nmat : Nat) (x : Sections) : List Nat :=
  [l.space.toNat + l.cls.toNat * 2 ^ 16 + l.waitq.toNat * 2 ^ 18 + l.queue * 2 ^ 20 + recN l.words * 2 ^ 32, if l.waitq then 0 else l.next,
    nctx, 4096, x.eng, l.lwin.length, x.win, nmat, x.mat, l.msgs.length, x.msg, x.total] ++ List.replicate 499 0

/-- A saved context becomes idle: its slice and channels are free, its generation has already risen. -/
def State.idleSaved (s : State) (n i : Nat) : State :=
  let t := s.ctx n i
  ((s.setCore n ((s.core n).release i s.clock.toNat)).setCtx n i { Ctx.reset with gen := t.gen, seq := t.seq, idleAt := some s.clock.toNat }).holdCtx n i

/-- SAVE_REGION_WRITE: once the launch's commands have completed, the controller writes its sections, the header's first word last. -/
def execSaveRegionWrite (lid : BitVec 32) (s : State) : Out :=
  .next (match s.launchOf lid with
    | none => s
    | some l =>
      if l.phase ≠ .halted ∨ s.commandsDone lid = false then s
      else
        let es := s.threadsOf lid
        let ctxs := es.map fun e => s.ctx e.1 e.2
        let mats := s.ownedBy lid
        let x := layout ctxs l.lwin mats.length l.msgs.length
        let b := l.lsave
        let index := ((es.zip ctxs).zip x.recs).flatMap fun q =>
          [q.2, coordBits q.1.1.1 + q.1.1.2 * 2 ^ 16 + q.1.2.tid.toNat * 2 ^ 32]
        let s1 := s.regionPuts (b + 8) (clean (headerWords l es.length mats.length x))
        let s2 := s1.regionPuts (b + 4096) (pad64 (clean index))
        let s3 := ((es.zip ctxs).zip x.recs).foldl (fun s q =>
          s.regionPuts (b + q.2) (pad64 (q.1.2.marked (q.1.2.record (s.coordOf q.1.1.1 (groupOf q.1.1.2)))))) s2
        let s4 := s3.regionPuts (b + x.eng) (pad64 (clean (ctxs.flatMap fun t => queueWords t.copyQ ++ queueWords t.bankQ)))
        let s5 := s4.regionPuts (b + x.win) (pad64 (l.lwin.flatMap s.windowWords))
        let s6 := s5.regionPuts (b + x.mat) (mats.flatMap s.matrixWords)
        let s7 := s6.regionPuts (b + x.msg) (l.msgs.flatMap fun m => messageWords m.1 m.2)
        let s8 := s7.regionPut b (2 ^ 63 + lid.toNat, false)
        let kept := es.map fun e => s.keep e.1 e.2
        let s9 := (es.foldl (fun s e => s.idleSaved e.1 e.2) (s8.unbind lid)).modLaunch lid fun l => { l with phase := .saved, saved := kept }
        s9.cmdEnd l.base 0)

/-! ### Resume (13 R189, R380; 22 R302) -/

/-- The image of a core under a map. -/
def imageOf (m : List (Nat × Nat)) (n : Nat) : Nat :=
  ((m.find? fun e => decide (e.1 = n)).map (·.2)).getD n

/-- Read the core map; 0 names the identity. -/
def State.readMap (s : State) (at0 : Nat) : Option (List (Nat × Nat)) :=
  if at0 = 0 then some []
  else if at0 % 64 ≠ 0 then none
  else ((List.range 128).mapM fun k => s.regionWord (at0 + 8 * k)).map fun ws =>
    (List.range 512).filterMap fun n =>
      let e := ws.getD (n / 4) 0 / 2 ^ (16 * (n % 4)) % 2 ^ 16
      if e / 2 ^ 15 = 1 then some (n, coreNo (e % 32) (e / 32 % 16)) else none

/-- The words of a save region, from its base. -/
def State.saved (s : State) (b k : Nat) : Nat := s.regionVal (b + 8 * k)

/-- The saved contexts: core, record offset and the context's place. -/
def State.savedCtxs (s : State) (b : Nat) : List (Nat × Nat × Nat) :=
  (List.range (s.saved b 3)).map fun j =>
    let at0 := s.saved b 4 / 8 + 2 * j
    (coordCore (BitVec.ofNat 64 (s.saved b (at0 + 1))), s.saved b at0, j)

/-- The saved matrix records: core and offset. -/
def State.savedMats (s : State) (b : Nat) : List (Nat × Nat) :=
  (List.range (s.saved b 8)).map fun j =>
    let at0 := s.saved b 9 + matBytes * j
    (coordCore (BitVec.ofNat 64 (s.saved b (at0 / 8))), at0)

/-- The saved messages: core, offset and place. -/
def State.savedMsgs (s : State) (b : Nat) : List (Nat × Nat × Nat) :=
  (List.range (s.saved b 10)).map fun j =>
    let at0 := s.saved b 11 + 320 * j
    (coordCore (BitVec.ofNat 64 (s.saved b (at0 / 8) / 2 ^ 32)), at0, j)

/-- The saved windows: core, base, size and the offset of the bytes. -/
def State.savedWins (s : State) (b at0 k : Nat) : List (Nat × Nat × Nat × Nat) :=
  match k with
  | 0 => []
  | k + 1 =>
    let e := s.saved b (at0 / 8 + 1)
    (coordCore (BitVec.ofNat 64 (s.saved b (at0 / 8))), e % 2 ^ 32, e / 2 ^ 32, at0 + 16) :: s.savedWins b (at0 + 16 + e / 2 ^ 32) k

/-- Does a map carry a saved gang onto an aligned block with every member at its index (22 R302)? -/
def gangMaps (m : List (Nat × Nat)) (mats : List (Nat × Nat)) (n g : Nat) : Bool :=
  let img := blockOf (imageOf m n) g
  ((blockOf n g).zip img).all fun e => !(mats.any fun q => decide (q.1 = e.1)) || decide (imageOf m e.1 = e.2)

/-- Is a word poisoned that says how a save region is to be read: one of its header, its index, its counts and records of engine commands, or
the place of a window, a matrix record or a message? Such a region describes no save (DESIGN CHOICE, log 83). -/
def State.headBad (s : State) (b : Nat) : Bool :=
  let bad := fun (k : Nat) => s.regionBad (b + 8 * k)
  (List.range 13).any bad ||
  (List.range (2 * s.saved b 3)).any (fun k => bad (s.saved b 4 / 8 + k)) ||
  (List.range (34 * s.saved b 3)).any (fun k => bad (s.saved b 5 / 8 + k)) ||
  (s.savedWins b (s.saved b 7) (s.saved b 6)).any (fun w => bad ((w.2.2.2 - 16) / 8) || bad ((w.2.2.2 - 8) / 8)) ||
  (s.savedMats b).any (fun q => bad (q.2 / 8)) ||
  (s.savedMsgs b).any (fun q => bad (q.2.1 / 8))

/-- LCMD_RESUME: the region and the map are read and checked. -/
def execLcmdResume (base : Nat) (lid : BitVec 32) (s : State) : Out :=
  .next (
    let c := s.ctlOf base
    let b := c.lsave.toNat / 2 ^ 16 * 2 ^ 16
    if c.busy then s
    else match s.launchOf lid with
      | none => s.cmdEnd base 1
      | some l =>
        if l.base ≠ base then s.cmdEnd base 1
        else if l.phase ≠ .saved ∨ s.saved b 0 ≠ 2 ^ 63 + lid.toNat ∨ s.headBad b = true then s.cmdEnd base 2
        else match s.readMap c.lmap.toNat with
          | none => s.cmdEnd base 7
          | some m =>
            let mats := s.savedMats b
            let cores := (s.savedCtxs b).map (·.1) ++ mats.map (·.1) ++ (s.savedMsgs b).map (·.1) ++
              (s.savedWins b (s.saved b 7) (s.saved b 6)).map (·.1)
            if !(cores.all fun n => s.active (imageOf m n)) then s.cmdEnd base 5
            else if !(mats.all fun q => gangMaps m mats q.1 (s.saved b (q.2 / 8 + 8194) % 8)) then s.cmdEnd base 4
            else (s.cmdGo base lid).modLaunch lid fun l => { l with phase := .resuming, restored := false, lsave := b, lmap := m })

/-- Has every image core what the resume needs: contexts, queue places (13 R189), and a slice for its matrix record? -/
def State.canResume (s : State) (l : Launch) (cls : BitVec 2) : Bool :=
  let b := l.lsave
  let im := imageOf l.lmap
  let cs := (s.savedCtxs b).map fun e => im e.1
  let ms := (s.savedMsgs b).map fun e => (im e.1, decide (s.saved b (e.2.1 / 8) % 4 = 0))
  cs.all (fun n => decide ((cs.filter fun m => decide (m = n)).length ≤ s.roomFor n l.lid cls)) &&
  ms.all (fun e => decide ((s.core e.1).inboxCount e.2 + (ms.filter fun f => decide (f = e)).length ≤ 16)) &&
  (s.savedMats b).all fun q => decide ((s.core (im q.1)).mx.owner = none ∧ (s.core (im q.1)).mx.op = none)

/-- Restore a scratch window, its poison marks with it. -/
def State.restoreWin (s : State) (b n base at0 size : Nat) : State :=
  (List.range (size / 8)).foldl (fun s k =>
    let v := (s.regionRead (b + at0 + 8 * k)).getD (0, false)
    let loc := scratchAt n + base + 8 * k
    let s1 := (s.storeAt ⟨0, loc, 8, false, 0, 0⟩ loc 8 v.1 2).2
    if v.2 then s1.markPoison loc else s1) s

/-- Restore the scratch windows of a launch's region, each at the image of its core; a launch saved while it waited has them too (13 R189,
log 72). -/
def State.restoreWins (s : State) (l : Launch) : State :=
  (s.savedWins l.lsave (s.saved l.lsave 7) (s.saved l.lsave 6)).foldl (fun s w =>
    s.restoreWin l.lsave (imageOf l.lmap w.1) w.2.1 w.2.2.2 w.2.2.1) s

/-- The registers of a thread that the matrix record of its core leaves in error (13 R184). -/
def State.matBad (s : State) (b at0 : Nat) : List RegName :=
  (List.range 8198).flatMap fun k => if s.regionBad (b + at0 + 8 * (1 + k)) then matRegs k else []

/-- Restore a matrix record; its owner comes with its context. -/
def State.restoreMat (s : State) (b n at0 : Nat) : State :=
  let w := fun (k : Nat) => s.saved b (at0 / 8 + 1 + k)
  let f := w 8193
  let els := (List.range 8192).flatMap fun k => [BitVec.ofNat 32 (w k), BitVec.ofNat 32 (w k / 2 ^ 32)]
  s.putMx n { (s.core n).mx with
    acc := msetList 0 [] 0 els, tags := BitVec.ofNat 8 (f / 2 ^ 8), g := BitVec.ofNat 3 f,
    stopped := (List.range 4).map fun k => BitVec.ofNat 64 (w (8194 + k)) }

/-- A thread that waits on a group word takes the place of its arrival with it (02 R34). -/
def State.moveArr (s : State) (loc : Nat) (from0 to0 : Nat × Nat) (qpos0 : Nat) : State :=
  let o := scratchCore loc
  let c := s.core o
  s.setCore o { c with arrs :=
    (c.arrs.filter fun a => !decide (a.loc = loc ∧ (a.core, a.ctx) = from0 ∧ a.qpos = qpos0)) ++
      [⟨loc, to0.1, to0.2, (s.ctx to0.1 to0.2).seq, (s.core to0.1).nextStore⟩] }

/-- Restore a context at its image core; it reads no line that the core's L1 holds (13 R190, log 31). Where it waited on a group word whose phase has changed it is released with status 0, else it
waits again; a WAIT and a gang wait issue again (13 R186, 02 R34). -/
def State.restoreCtx (s : State) (l : Launch) (cls : BitVec 2) (n0 at0 j : Nat) : State :=
  let b := l.lsave
  let n := imageOf l.lmap n0
  let x := l.saved.getD j ⟨(n, 0), none, [], [], false, [], [], []⟩
  match s.idleFor n l.lid cls with
  | none => s
  | some i =>
    let g := fun (k : Nat) => s.saved b (at0 / 8 + k)
    let e := s.saved b 5 / 8 + 34 * j
    let q := fun (at1 : Nat) => (List.range (min 16 (s.saved b at1))).map fun k => BitVec.ofNat 64 (s.saved b (at1 + 1 + k))
    let p := fun (k : Nat) => s.regionBad (b + 8 * (at0 / 8 + k))
    let t0 := (s.ctx n i).restored g p x cls (q e) (q (e + 17))
    let mb := if x.owner then ((s.savedMats b).filter fun m => decide (m.1 = n0)).flatMap fun m => s.matBad b m.2 else []
    let t := { t0 with regErr := t0.regErr ++ mb, stale := (s.core n).l1.map (·.1) }
    let c := s.core n
    let alone := !(c.ctxs.any fun u => decide (u.2.lid = l.lid ∧ u.2.run ≠ .idle))
    let fl := (List.range 8).foldl (fun (f : Flags5) k => f ||| (if p 303 then 0 else t.vflg0.extractLsb' (8 * k) 5) |||
      (if p 304 then 0 else t.vflg1.extractLsb' (8 * k) 5)) 0
    let s1 := (s.setCore n ({ c with
      icache := if alone then [] else c.icache, held := c.held.filter fun h => decide (h.1 ≠ i),
      mx := if x.owner then { c.mx with owner := some i } else c.mx }.setCtx i t)).raiseSum n fl
    match x.wait with
    | some (.bar _ _ _ d _ q0) =>
      let a := BitVec.ofNat 64 (g 318)
      if p 318 then s1.trap n i ⟨5, 2, 0, t.pc, false, false, 0⟩ else
      (match s1.resolveScratch n a 8 8 with
        | .ok acc =>
          if decide (s1.rawRead acc.loc 8 / 2 ^ 40 % 2 = 1) = (BitVec.ofNat 64 (g 317)).getLsbD 39 then
            (s1.setCtx n i { t with
              run := .waiting (.bar a acc.loc ((BitVec.ofNat 64 (g 317)).getLsbD 39) d none (s1.core n).nextStore) }).moveArr acc.loc
                x.place (n, i) q0
          else s1.complete n i d 0
        | _ => s1)
    | _ => s1

/-- Queue a withdrawn message again; what its record does not hold comes from the message withdrawn (log 22). -/
def State.restoreMsg (s : State) (l : Launch) (n at0 j : Nat) : State :=
  let w := fun (k : Nat) => s.saved l.lsave (at0 / 8 + k)
  let bad := fun (k : Nat) => s.regionBad (l.lsave + 8 * (at0 / 8 + k))
  match (nth l.msgs j) with
  | none => s
  | some (_, m) => s.enqueueAt n { m with
      kind := w 0 % 4, pc := BitVec.ofNat 64 (w 1) &&& ~~~3, x1 := BitVec.ofNat 64 (w 2), x2 := BitVec.ofNat 64 (w 3), x3 := BitVec.ofNat 64 (w 4),
      x4 := BitVec.ofNat 64 (w 5), bad := (List.range 8).flatMap fun k => if bad k then messageRegs k else []
      badWords := (List.range 32).filter fun k => bad (8 + k), spawnno := BitVec.ofNat 64 (w 6), tid := BitVec.ofNat 32 (w 7), cls := BitVec.ofNat 2 (w 7 / 2 ^ 32),
      payload := splitBytes (w 0 / 2 ^ 8 % 2 ^ 9) ((List.range 32).foldl (fun x k => x + w (8 + k) * 2 ^ (64 * k)) 0) }

/-- The resume is over: threads may issue; what is left is distributed later (13 R380). -/
def State.resumeDone (s : State) (l : Launch) : State :=
  let s1 := (s.modLaunch l.lid fun l => { l with phase := .distributed, msgs := [], saved := [] }).cmdEnd l.base 0
  if l.next < recN l.words then
    s1.putCtl l.base { s1.ctlOf l.base with resumed := (s1.ctlOf l.base).resumed ++ [l.lid] }
  else s1

/-- The slices of a resumed launch whose operation stopped with STATUS 4 and has not started again. -/
def State.stoppedGangs (s : State) (lid : BitVec 32) : List (Nat × Nat) :=
  (s.ownedBy lid).filterMap fun n => match (s.core n).mx.owner with
    | some i => if mxStatus (s.ctx n i).mxprog = 4 ∧ (s.core n).mx.op = none then some (n, i) else none
    | none => none

/-- RESUME_RESTORE: once every image core has room, windows, matrix records, contexts and messages are restored. A launch saved while it
waited goes back in front of its queue. -/
def execResumeRestore (lid : BitVec 32) (s : State) : Out :=
  .next (match s.launchOf lid with
    | none => s
    | some l =>
      let cls := s.effClass l.base l.queue l.words
      if l.phase ≠ .resuming ∨ l.restored then s
      else if l.waitq then
        let s0 := s.restoreWins l
        let u := s0.queueOf l.base l.queue
        ((s0.putQueue l.base l.queue { u with front := ⟨lid, l.words, l.space, l.arrival⟩ :: u.front }).modLaunch lid
          fun l => { l with phase := .queued, waitq := false, saved := [] }).cmdEnd l.base 0
      else if s.canResume l cls = false then s
      else
        let b := l.lsave
        let im := imageOf l.lmap
        let next := s.saved b 2
        let s1 := s.restoreWins l
        let s2 := (s.savedMats b).foldl (fun s q => s.restoreMat b (im q.1) q.2) s1
        let s3 := (s.savedCtxs b).foldl (fun s e => s.restoreCtx l cls e.1 e.2.1 e.2.2) s2
        let s4 := (s.savedMsgs b).foldl (fun s e => s.restoreMsg l (im e.1) e.2.1 e.2.2) s3
        let l1 := { l with restored := true, cls := cls, next := next }
        let s5 := s4.modLaunch lid fun _ => l1
        if s5.stoppedGangs lid = [] then s5.resumeDone l1 else s5)

/-- The operation the controller resumes on a member, from its mxprog and restored descriptor (22 R302). -/
def State.resumeForm (s : State) (n i : Nat) : State :=
  let c := s.core n
  let w := (s.ctx n i).mxprog
  let d := fun (k : Nat) => c.mx.stopped.getD k 0
  let o : MxOp := ⟨i, true, w.extractLsb' 44 2, d 0, d 1, d 2, d 3, w.extractLsb' 24 4, w.extractLsb' 20 4, w.extractLsb' 16 4,
    w.extractLsb' 13 3, bits w 28 16, 0, false, c.nextStore, (s.ctx n i).seq⟩
  (s.putMx n { c.mx with form := some o }).askGrant n

/-- GANG_RESUME: the stopped gangs of a restored launch form again, start by GANG_START once granted and awake, and then the threads run. -/
def execGangResume (lid : BitVec 32) (s : State) : Out :=
  .next (match s.launchOf lid with
    | none => s
    | some l =>
      if l.phase ≠ .resuming ∨ l.restored = false then s
      else match s.stoppedGangs lid with
        | [] => s.resumeDone l
        | gs => gs.foldl (fun s e => if (s.core e.1).mx.form = none then s.resumeForm e.1 e.2 else s) s)

/-- RESUMED_DISTRIBUTION: an idle controller goes on with a resumed launch at NEXT before any head record (13 R380). -/
def execResumedDistribution (lid : BitVec 32) (s : State) : Out :=
  .next (match s.launchOf lid with
    | none => s
    | some l =>
      let c := s.ctlOf l.base
      match c.resumed with
      | [] => s
      | r :: t =>
        if r ≠ lid ∨ l.phase ≠ .distributed ∨ s.distributing l.base then s
        else (s.putCtl l.base { c with resumed := t }).modLaunch lid fun l => { l with phase := .distributing })

end Sys2Proof.Machine
end

