-- ==== Sys2Proof/Machine/Mesh.lean ====
section
/-! DEFINITION. The mesh and the links: buffers, credit and arbitration, route errors, router power-down (15 R211 to R220), Etgus ports (28 R368 to R371), the
pod agent (08 R88) and the host link (28 R356). -/

namespace Sys2Proof.Machine

/-! ### Routers, buffers and credit (15 R211, R216) -/

/-- The router of a place is that core's; edge nodes have none. -/
def routerOf (x row : Nat) : Option Nat :=
  if isEdge row ∨ 17 < row then none else some (coreNo x (row - 1))

/-- The routers a packet's next step goes through: its source's for the first, and the next. -/
def Packet.routers (p : Packet) : List Nat :=
  (if p.fresh then (routerOf (nodeX p.node) (nodeRow p.node)).toList else []) ++
  (match p.hop with
    | .go x r _ => (routerOf x r).toList
    | .deliver | .error => [])

/-- The routers that a packet's flits stand in. -/
def Packet.holders (p : Packet) : List Nat :=
  (routerOf (nodeX p.node) (nodeRow p.node)).toList ++ p.chain.flatMap fun e => (routerOf (e.1 / 1024) (e.1 / 32 % 32)).toList

/-- A flit passed a router: its idle count starts again (15 R220). -/
def State.touchRouter (s : State) (n : Nat) : State :=
  s.setCore n { s.core n with routerIdle := s.clock.toNat }

/-- Is a packet on the reply channel (VC)? -/
def Packet.reply (p : Packet) : Bool := onReply p.kind.toNat

/-- The flits of a packet: its head and LEN data flits. -/
def Packet.flits (p : Packet) : Nat := p.data.length + 1

/-- The buffer of an input of a place in a channel. Inputs 0 to 7 are the links by heading, the skip links from 4 up; 8 + port injects. -/
def bufKey (x row inp : Nat) (reply : Bool) : Nat :=
  ((x * 32 + row) * 16 + inp) * 2 + reply.toNat

/-- The input that a packet's head stands at. -/
def Packet.input (p : Packet) : Nat :=
  if p.fresh then 8 + nodePort p.src else p.dir.toNat + (if p.skip then 4 else 0)

/-- The buffer that a packet's head stands in: the injection queue of its source before it enters. -/
def Packet.buf (p : Packet) : Nat :=
  bufKey (nodeX p.node) (nodeRow p.node) p.input p.reply

/-- Flits of a packet in a buffer. -/
def Packet.inBuf (p : Packet) (k : Nat) : Nat :=
  ((p.chain.find? fun e => decide (e.1 = k)).map (·.2)).getD 0

/-- Does a packet have flits behind those in a buffer? -/
def Packet.behindBuf (p : Packet) (k : Nat) : Bool :=
  decide (0 < p.rest) || ((p.chain.dropWhile fun e => decide (e.1 ≠ k)).drop 1).any fun e => decide (0 < e.2)

/-- Is a packet at the front of its buffer? Another there is ahead if its head has gone on, or came before. A source's injection queue
likewise sends one packet of a channel after the other. -/
def State.atFront (s : State) (p : Packet) : Bool :=
  s.packets.all fun q =>
    if q.ord = p.ord then true
    else if p.fresh then !(decide (q.src = p.src) && decide (q.reply = p.reply) && decide (0 < q.rest) && (!q.fresh || decide (q.ord < p.ord)))
    else !(decide (0 < q.inBuf p.buf) && (decide (q.buf ≠ p.buf) || decide (q.ord < p.ord)))

/-- Flits of other packets in a buffer. -/
def State.fill (s : State) (p : Packet) (k : Nat) : Nat :=
  ((s.packets.filter fun q => decide (q.ord ≠ p.ord)).map fun q => q.inBuf k).sum

/-- Is there credit for a packet's head in a buffer: a free place of its 4, and no packet whose flits its own would part (15 R216)? -/
def State.credit (s : State) (p : Packet) (k : Nat) : Bool :=
  decide (s.fill p k < 4) && s.packets.all fun q => decide (q.ord = p.ord) || !(decide (0 < q.inBuf k) && q.behindBuf k)

/-- The output a packet's next step uses: a link by heading, 8 + port for an ejection; none for a route error. -/
def Packet.output (p : Packet) : Option Nat :=
  match p.hop with
  | .go _ _ q => some (bufKey (nodeX p.node) (nodeRow p.node) (q.dir.toNat + (if q.skip then 4 else 0)) false)
  | .deliver => some (bufKey (nodeX p.node) (nodeRow p.node) (8 + nodePort p.dst) false)
  | .error => none

/-- Is a packet ready: at the front of its buffer, its routers awake, and with credit for the next? A node accepts every packet that is
ejected; it has kept space for the replies to its requests, of which the spec names no number (log 85). -/
def State.ready (s : State) (p : Packet) : Bool :=
  s.atFront p && p.routers.all (fun n => !(s.core n).routerGated) && (match p.hop with
    | .go x r q => s.credit p (bufKey x r (q.dir.toNat + (if q.skip then 4 else 0)) p.reply)
    | .deliver | .error => true)

/-- An output's arbiter. -/
def State.arb (s : State) (o : Nat) : Arb := mget Arb.reset s.arbs o

/-- Does the arbiter choose a packet among those ready for its output: the channel not served last where both have one, and in the channel
the input next in turn (15 R216)? -/
def State.chosen (s : State) (p : Packet) : Bool :=
  match p.output with
  | none => true
  | some o =>
    let a := s.arb o
    let qs := s.packets.filter fun q => decide (q.output = some o) && s.ready q
    let last := if p.reply then a.repIn else a.reqIn
    let turn := fun (q : Packet) => (q.input + 16 - (last + 1) % 16) % 16
    (decide (p.reply ≠ a.reply) || qs.all fun q => decide (q.reply = p.reply)) &&
    qs.all fun q => decide (q.reply ≠ p.reply) || decide (turn p ≤ turn q)

/-- The output has served a packet. -/
def State.serve (s : State) (p : Packet) : State :=
  match p.output with
  | none => s
  | some o =>
    let a := s.arb o
    let b : Arb := ⟨p.reply, if p.reply then a.reqIn else p.input, if p.reply then p.input else a.repIn⟩
    { s with arbs := mset Arb.reset s.arbs o b }

/-- Spread flits over buffers from the head's on, as far as each has room; what is left stays outside. -/
def spread (bs : List (Nat × Nat)) (n : Nat) : List (Nat × Nat) × Nat :=
  match bs with
  | [] => ([], n)
  | (k, room) :: t =>
    let m := min room n
    let r := spread t (n - m)
    (if m = 0 then r.1 else (k, m) :: r.1, r.2)

/-- A packet's flits follow its head into a buffer. -/
def State.flow (s : State) (p : Packet) (k : Nat) : List (Nat × Nat) × Nat :=
  spread ((k :: p.chain.map (·.1)).map fun b => (b, 4 - s.fill p b)) p.flits

/-! ### Route errors (15 R212, R214) -/

/-- A store is counted as acknowledged with nothing written (15 R214): its entry goes, and fences it satisfied. -/
def State.loseStore (s : State) (n id : Nat) : State :=
  match s.entryOf n id with
  | none => s
  | some e =>
    let s1 := if e.unlock then s.lockDrop e.acc.loc n e.ctx else s
    let c := s1.core n
    let s2 := s1.setCore n { c with storeQ := c.storeQ.filter fun q => decide (q.id ≠ id) }
    let t := s2.ctx n e.ctx
    s2.setCtx n e.ctx { t with fences := t.fences.filter fun f => !s2.relReady n e.ctx f.seq f.qpos f.scope }

/-- The outcome of a request that a route error answers: a load, atomic or fetch takes an access fault, a store is counted as
acknowledged. A group instruction or WAIT faults when it is tried again (log 90). -/
def State.lose (s : State) (own : Own) (addr : Word) : State :=
  match own with
  | .store n _ id => s.loseStore n id
  | .fetch n i =>
    let t := s.ctx n i
    if t.pc = addr ∧ (t.run = .ready ∨ t.run = .stalled) then s.trap n i ⟨3, 3, addr, t.pc, false, false, 0⟩ else s
  | .window n i q => match s.winOf n i q with
    | none => s
    | some w => match w.pend with
      | .load a _ _ _ => s.land n i q (.fault 3 0 a.va)
      | .vec _ _ => s.land n i q (.fault 3 0 addr)
      | .atomic a _ _ _ _ _ | .group a _ => s.land n i q (.fault 3 2 a.va)
      | .none | .message _ | .bkstat _ _ _ => s
  | .group n i q =>
    let t := s.ctx n i
    if t.seq = q ∧ (t.run = .ready ∨ t.run = .stalled) then s.setCtx n i { t with reqLost := some q } else s

/-- The context a packet's access belongs to, for the log. -/
def Packet.owner (p : Packet) : Option (Nat × Nat) :=
  match p.own with
  | some (.window n i _) | some (.store n i _) | some (.fetch n i) | some (.group n i _) => some (n, i)
  | none => none

/-- The home's answer reaches its requester: a load's or a group instruction's result lands. An element of a vector load and an atomic had
theirs at the home, and a store's acknowledgement is a step of its own. -/
def State.replied (s : State) (own : Own) (p : Packet) : State :=
  let v := match p.data with
    | [] => 0
    | d :: _ => (d.1.setWidth 64).toNat
  let cause := p.addr.toNat % 2 ^ 8
  match own with
  | .window n i q => match ((s.winOf n i q).map Window.pend).getD .none with
    | .load a sg acq _ => (s.land n i q (if p.kind = 8 then .fault cause 0 a.va else .val (loadVal a.size sg (v % 2 ^ (8 * a.size))))).acqDone n acq
    | .group a _ => s.land n i q (if p.kind = 8 then .fault cause 2 a.va else .val (BitVec.ofNat 512 v))
    | .vec _ _ | .atomic _ _ _ _ _ _ | .none | .message _ | .bkstat _ _ _ => s
  | .store _ _ _ | .fetch _ _ | .group _ _ _ => s

/-- The node that finds a route error and answers it: the router of a place, or the edge node. -/
def Packet.finder (p : Packet) : BitVec 12 :=
  if isEdge (nodeRow p.node) = false then nodeAt 0 (nodeX p.node) (nodeRow p.node)
  else if nodeExists p.here then p.here
  else nodeAt 1 (nodeX p.node) (nodeRow p.node)

/-- A route error (15 R214), or a kind that the node does not serve (15 R212): the packet goes, the event is logged, and a request is
answered on the reply channel. What becomes of an access whose reply is lost the spec does not say: it has its answer (DESIGN CHOICE,
log 90). -/
def State.routeError (s : State) (k : Nat) (p : Packet) : State :=
  let s0 := { s with packets := dropNth s.packets k }
  let s1 := match p.owner with
    | some (n, i) => s0.logErr 2 p.addr (s0.ctx n i).lid (s0.coordOf n (groupOf i)) i
    | none => s0.logErr 2 p.addr 0 0 0
  if p.reply then match p.own with
    | some o => if p.kind = 7 then s1.lose o p.addr else s1.replied o p
    | none => s1
  else s1.addPacket (s1.packetOf p.finder p.src 7 p.txn 0 p.addr [] p.own)

/-! ### Sending and delivering -/

/-- INJECT: an access's request enters the mesh; `k` is the element of a vector load. -/
def State.inject (s : State) (own : Own) (k : Nat) (txn : BitVec 16) : State :=
  if s.inMesh own then s
  else match own with
    | .window n i q => (match (s.winOf n i q).bind fun w => w.request n (s.ctx n i).space k with
      | some r => s.sendOwn n own txn r
      | none => s)
    | .store n i id => (match s.entryOf n id with
      | some e => if e.ctx = i ∧ e.written = false then s.sendOwn n own txn (e.request n (s.ctx n i).space) else s
      | none => s)
    | .fetch n i =>
      let t := s.ctx n i
      (match s.resolve n t.space t.pc 3 4 4 false with
        | .ok a => s.sendOwn n own txn ⟨0, attrOf (spaceField t.space t.pc) (levelOf n a.loc) (sizeCode 4) 0 0, t.pc, [], homeNode a.loc⟩
        | _ => s)
    | .group _ _ _ => s

/-- The elements of a pending vector load. -/
def Pend.els (p : Pend) : List VecEl :=
  match p with
  | .vec els _ => els
  | .load _ _ _ _ | .atomic _ _ _ _ _ _ | .group _ _ | .none | .message _ | .bkstat _ _ _ => []

/-- A home sends a reply to a core (15 R212): a fault with its CAUSE, or `kind` with a value. -/
def State.sendBack (s : State) (n : Nat) (own : Own) (txn : BitVec 16) (a : Acc) (kind : Nat) (r : Res) : State :=
  match r with
  | .fault c _ _ => s.addPacket (s.packetOf (homeNode a.loc) (coreNode n) 8 txn 0 (BitVec.ofNat 64 (c % 2 ^ 8)) [] (some own))
  | .val v => s.addPacket (s.packetOf (homeNode a.loc) (coreNode n) kind txn 0 a.va (if kind = 4 then [] else dataFlit (v.setWidth 64) 0) (some own))

/-- REPLY: the home of an access that has been performed sends its reply, and the access is not complete before it comes: a load is
performed as it is sent, element k of a vector load too. -/
def State.reply (s : State) (own : Own) (k : Nat) (txn : BitVec 16) : State :=
  if s.inMesh own then s
  else match own with
    | .store n i id => (match s.entryOf n id with
      | some e =>
        if e.ctx = i ∧ e.written = true then
          s.sendBack n own txn e.acc 4 (if e.refused then .fault 3 1 e.acc.va else if e.poisoned then .fault 5 1 e.acc.va else .val 0)
        else s
      | none => s)
    | .window n i q => (match (s.ctx n i).windows.find? fun w => decide (w.seq = q) with
      | some w => (match w.pend, w.res with
        | .load a sg _ ldl, none =>
          if s.winLost n i w then s
          else (match s.loadAtHome n i q a sg ldl .none with
            | (some r, s1) => s1.sendBack n own txn a 5 r
            | (none, s1) => s1)
        | .vec els _, none =>
          let s1 := s.performEl n i q k .none
          let at1 := ((s1.winOf n i q).map (·.pend.els)).getD []
          (match els.find? (fun e => decide (e.idx = k) && e.got.isNone), (at1.find? fun e => decide (e.idx = k)).bind (·.got) with
            | some e, some r => s1.sendBack n own txn e.acc 5 r
            | _, _ => s1)
        | .atomic a _ _ _ _ (some r), none => s.sendBack n own txn a 6 r
        | .group a _, some r => (s.modWin n i q fun w => { w with res := none }).sendBack n own txn a 6 r
        | _, _ => s)
      | none => s)
    | .fetch _ _ | .group _ _ _ => s

/-- The request of an access that a turn table would lose enters the mesh: a window's, or a store's that may be written. -/
def State.injectLost (s : State) (n i : Nat) (w : Window) : State :=
  match s.lostPart n i w with
  | some k => if w.res.isNone then s.inject (.window n i w.seq) k 0 else s
  | none => s

def State.injectStore (s : State) (n : Nat) (e : StoreEnt) : State :=
  if s.misrouted (coreNode n) (homeNode e.acc.loc) (e.request n 0).kind && s.mayWrite n e then s.inject (.store n e.ctx e.id) 0 0 else s

/-- MESSAGE: a unit sends a packet that carries no access of a thread (15 R212). What the message does is a step of its own. -/
def State.message (s : State) (src dst : BitVec 12) (kind : BitVec 5) (txn : BitVec 16) (attr : BitVec 24) (addr : Word)
    (data : List (BitVec 256 × BitVec 4)) : State :=
  s.addPacket (s.packetOf src dst kind.toNat txn attr addr data none)

/-- A packet is ejected at a unit that serves it: a payload is held until its message comes, and a reply answers its request. A request that
came astray has the outcome of a lost one, a reply that did has come (DESIGN CHOICE, log 90). -/
def State.deliver (s : State) (p : Packet) : State :=
  if p.kind = 11 then { s with payloads := s.payloads ++ [⟨p.here, p.src, p.txn, p.data⟩] }
  else if p.kind = 10 ∨ p.kind = 17 then
    { s with payloads := s.payloads.filter fun h => !decide (h.dst = p.here ∧ h.src = p.src ∧ h.txn = p.txn) }
  else match p.own with
    | none => s
    | some o =>
      if p.kind = 7 then s.lose o p.addr
      else if p.reply then s.replied o p
      else if p.here = p.dst then s
      else s.lose o p.addr

/-- ROUTE_STEP: a packet's head enters its next node, its flits following, or is ejected, once its routers are awake, it has credit, and the
output's arbiter chooses it (15 R213, R214, R216). -/
def execRouteStep (pkt : Nat) (s : State) : Out :=
  .next (match nth s.packets pkt with
    | none => s
    | some p =>
      if !s.ready p || !s.chosen p then s
      else
        let s1 := ((p.routers ++ p.holders).foldl State.touchRouter s).serve p
        match p.hop with
        | .go x r q =>
          let f := s.flow p (bufKey x r (q.dir.toNat + (if q.skip then 4 else 0)) p.reply)
          let q1 := { q with node := nodeAt (nodePort p.dst) x r, chain := f.1, rest := f.2, ord := s.nextOrd }
          { s1 with packets := setNth s1.packets pkt q1 }
        | .deliver =>
          if p.ejected = .error then s1.routeError pkt p
          else { s1 with packets := dropNth s1.packets pkt }.deliver p
        | .error => s1.routeError pkt p)

/-- Is a flit in a router or offered to it? -/
def State.routerBusy (s : State) (n : Nat) : Bool :=
  s.packets.any fun p => p.routers.contains n || p.holders.contains n

/-- ROUTER_POWER_DOWN: a router idle for RIDLE cycles gates (15 R220). -/
def execRouterPowerDown (core : Nat) (s : State) : Out :=
  .next (
    let c := s.core core
    if c.routerGated || s.routerBusy core || decide (s.clock.toNat < c.routerIdle + (s.ctlOf (baseOf core)).ridle.toNat) then s
    else s.setCore core { c with routerGated := true })

/-- ROUTER_WAKE: a flit offered to a gated router wakes it. -/
def execRouterWake (core : Nat) (s : State) : Out :=
  .next (
    let c := s.core core
    if c.routerGated && s.packets.any (fun p => p.routers.contains core) then
      s.setCore core { c with routerGated := false, routerIdle := s.clock.toNat }
    else s)

/-- LINK_FLIT_RETRY: a failed flit is sent again, which changes only timing (15 R217); on a compute-HBM link the third failure poisons
the four words it carried, from 8-byte word `word`, and is logged (26 R351). -/
def execLinkFlitRetry (word : Nat) (hbm : Bool) (s : State) : Out :=
  .next (
    if hbm && isDram (word / 4 * 32) then
      { s with poison := setPoison s.poison (word / 4 * 4) 4 true }.logErr 3 (BitVec.ofNat 64 (word / 4 * 32)) 0 0 0
    else s)

/-! ### Accesses in flight that fail (28 R356, R371) -/

/-- Does an access fail with a lost link? -/
def pendFails (p : Pend) (lost : Acc → Bool) : Option Res :=
  match p with
  | .load a _ _ _ => if lost a then some (.fault 3 0 a.va) else none
  | .atomic a _ _ _ _ _ | .group a _ => if lost a then some (.fault 3 2 a.va) else none
  | .vec _ _ | .none | .message _ | .bkstat _ _ _ => none

/-- The elements of a vector load still to be performed over a lost link fault. -/
def pendFailEls (p : Pend) (lost : Acc → Bool) : Pend :=
  match p with
  | .vec els w => .vec (els.map fun e => if e.got.isNone && lost e.acc then { e with got := some (.fault 3 0 e.acc.va) } else e) w
  | p => p

/-- A window's access fails with a lost link. -/
def Window.fails (w : Window) (lost : Acc → Bool) : Window :=
  if w.res.isSome then w else { w with pend := pendFailEls w.pend lost, res := pendFails w.pend lost }

/-- A thread that waits on a word of scratch beyond a lost link takes an access fault. -/
def State.failWait (s : State) (lost : Acc → Bool) (e : Nat × Nat × Wait) : State :=
  match e.2.2 with
  | .word a loc _ _ => if lost ⟨a, loc, 8, false, 0, 0⟩ then s.trap e.1 e.2.1 ⟨3, 0, a, (s.ctx e.1 e.2.1).pc, false, false, 0⟩ else s
  | .bar a loc _ _ _ _ => if lost ⟨a, loc, 8, false, 0, 0⟩ then s.trap e.1 e.2.1 ⟨3, 2, a, (s.ctx e.1 e.2.1).pc, false, false, 0⟩ else s
  | .hbar _ _ _ _ | .gang => s

/-- Every access still waiting on a lost link fails: a load, atomic or wait with an access fault, a store counted acknowledged and
logged. -/
def State.failLink (s : State) (lost : Acc → Bool) : State :=
  let gone := s.cores.flatMap fun c => (c.2.storeQ.filter fun e => !e.written && lost e.acc).map fun e => (c.1, e)
  let s1 := gone.foldl (fun s e => s.logErr 5 e.2.acc.va (s.ctx e.1 e.2.ctx).lid (s.coordOf e.1 e.2.lg) e.2.ctx) s
  let s2 : State := { s1 with cores := s1.cores.map fun c => (c.1, { c.2 with
      storeQ := c.2.storeQ.map fun e => if !e.written && lost e.acc then { e with written := true } else e,
      ctxs := c.2.ctxs.map fun t => (t.1, { t.2 with
        windows := t.2.windows.map fun w => w.fails lost,
        past := t.2.past.map fun p => { p with windows := p.windows.map fun w => w.fails lost } }) }) }
  let s3 := s2.cores.foldl (fun s c => c.2.ctxs.foldl (fun s t => s.settle c.1 t.1) s) s2
  s3.waiting.foldl (fun s e => s.failWait lost e) s3

/-- HOST_LINK_DOWN (28 R356). -/
def execHostLinkDown (s : State) : Out :=
  .next ({ s with pkg := { s.pkg with linkUp := false } }.failLink fun a => isHost a.loc)

/-! ### Etgus ports (28 R370) -/

def State.port (s : State) (p : Nat) : Etgus := mget Etgus.reset s.etgus p
def State.setPort (s : State) (p : Nat) (e : Etgus) : State := { s with etgus := mset Etgus.reset s.etgus p e }

/-- The flits of a replay buffer after the acknowledged one: those up to `ack` go, where `ack` is in the buffer's range. -/
def Etgus.acknowledge (e : Etgus) (ack : BitVec 12) : Etgus :=
  let n := (ack - e.acked).toNat
  if n = 0 ∨ e.replay.length < n then e
  else { e with acked := ack, replay := e.replay.drop n, sendPtr := e.sendPtr - n, resends := 0 }

/-- A valid flit's acknowledgement and credits. -/
def Etgus.header (e : Etgus) (f : EtgusFlit) (now : Nat) : Etgus :=
  let e1 := e.acknowledge f.ack
  { e1 with credReq := e1.credReq + f.creq.toNat, credRep := e1.credRep + f.crep.toNat, lastValid := now }

/-- A retry request: resend from the flit after the named one. -/
def Etgus.retry (e : Etgus) (ack : BitVec 12) : Etgus :=
  let e1 := e.acknowledge ack
  { e1 with sendPtr := 0, resends := if e1.replay = [] then 0 else e1.resends + 1 }

/-- A flit of a port with its acknowledgement and the credits it returns. -/
def Etgus.flit (e : Etgus) (typ : BitVec 4) (slots : List (Bool × BitVec 256 × BitVec 4)) : EtgusFlit :=
  ⟨typ, e.next, e.expect - 1, BitVec.ofNat 8 e.owedReq, BitVec.ofNat 8 e.owedRep, slots, true, true⟩

/-- A flit goes out; its credits are returned. -/
def Etgus.send (e : Etgus) (f : EtgusFlit) : Etgus :=
  { e with wire := e.wire ++ [f], owedReq := 0, owedRep := 0 }

/-- A data flit is discarded: at the first such discard a retry request goes out, a flit of TYPE 2 whose ACK names the last accepted. -/
def Etgus.discard (e : Etgus) : Etgus :=
  if e.retrySent then e else { e.send (e.flit 2 []) with retrySent := true }

/-- What a port does with a flit: a data flit in order is accepted, any other is discarded, the first time with a retry request. -/
def Etgus.receive (e : Etgus) (f : EtgusFlit) (now : Nat) : Etgus :=
  let ok := f.fecOk && f.crcOk
  match f.typ.toNat with
  | 1 =>
    let e1 := if ok then e.header f now else e
    if ok && decide (f.seq = e1.expect) then
      { e1 with expect := e1.expect + 1, retrySent := false, received := e1.received ++ f.slots }
    else e1.discard
  | 0 | 3 => if ok then e.header f now else e
  | 2 => if ok then (e.header f now).retry f.ack else e
  | _ => e

/-- ETGUS_FLIT_RECEIVE. A port that is down or retraining receives nothing. -/
def execEtgusFlitReceive (port : Nat) (flit : EtgusFlit) (s : State) : Out :=
  .next (
    let e := s.port port
    if 12 ≤ port ∨ e.down = true ∨ e.training = true then s else s.setPort port (e.receive flit s.clock.toNat))

/-- ETGUS_RETRY_REQUEST: the sender's part of a retry request. -/
def execEtgusRetryRequest (port : Nat) (ack : BitVec 12) (s : State) : Out :=
  .next (
    let e := s.port port
    if 12 ≤ port ∨ e.down = true ∨ e.training = true then s else s.setPort port (e.retry ack))

/-- ETGUS_RETRAIN: 16 resends of one flit, or no valid flit for 10 µs. -/
def execEtgusRetrain (port : Nat) (s : State) : Out :=
  .next (
    let e := s.port port
    if port < 12 ∧ e.down = false ∧ e.training = false ∧ (16 ≤ e.resends ∨ e.lastValid + Config.etgusSilence ≤ s.clock.toNat) then
      s.setPort port { e with training := true }
    else s)

/-- The Etgus port towards a package. -/
def State.routePort (s : State) (p : Nat) : Nat :=
  (s.pkg.route.extractLsb' (8 * p) 8).toNat

/-- Another port by which the pod lets a package be reached, one that is not down (log 14). -/
def State.otherPort (s : State) (port p : Nat) : Option Nat :=
  (s.pkg.podPorts.find? fun e => decide (e.1 = p ∧ e.2 < 12 ∧ e.2 ≠ port) && !(s.port e.2).down).map (·.2)

/-- Replace a byte of the route table. -/
def routeByte (r : BitVec 512) (p v : Nat) : BitVec 512 :=
  (r &&& ~~~(0xFF#512 <<< (8 * p))) ||| (BitVec.ofNat 512 (v % 256) <<< (8 * p))

/-- Packages that have become unreachable: accesses in flight to them fail (28 R371). -/
def State.lostPackages (s : State) (gone : List Nat) : State :=
  if gone.isEmpty then s else s.failLink fun a => isRemote a.loc && gone.contains (bits a.va 50 6)

/-- Firmware takes a port out: traffic to its packages goes by another port where the pod allows; else they are unreachable and absent, and
accesses in flight to them fail (28 R370, R371). -/
def State.portDown (s : State) (port : Nat) : State :=
  let mine := (List.range 64).filter fun p => decide (s.routePort p = port)
  let gone := mine.filter fun p => (s.otherPort port p).isNone
  let s1 := { s with pkg := { s.pkg with
    route := mine.foldl (fun r p => routeByte r p ((s.otherPort port p).getD 0xFF)) s.pkg.route,
    podmap := gone.foldl (fun m p => m &&& ~~~(1#64 <<< p)) s.pkg.podmap } }
  s1.lostPackages gone

/-- ETGUS_RETRAIN_DONE: traffic resumes, or the third failure takes the port down. -/
def execEtgusRetrainDone (port : Nat) (ok : Bool) (s : State) : Out :=
  .next (
    let e := s.port port
    if e.training = false then s
    else if ok then s.setPort port { e with training := false, trainFails := 0, resends := 0, sendPtr := 0, lastValid := s.clock.toNat }
    else if 3 ≤ e.trainFails + 1 then (s.setPort port { e with trainFails := 3, training := false, down := true }).portDown port
    else s.setPort port { e with trainFails := e.trainFails + 1 })

/-- The port sends a flit: one to be resent, with the port's present acknowledgement, else a new data flit of `slots` where replay buffer and
credits allow; with no slots an idle flit, which returns credits. -/
def State.etgusSend (s : State) (port : Nat) (slots : List (Bool × BitVec 256 × BitVec 4)) : State :=
  let e := s.port port
  let rep := (slots.filter fun q => q.1).length
  let req := slots.length - rep
  if 12 ≤ port ∨ e.down = true ∨ e.training = true then s
  else match nth e.replay e.sendPtr with
    | some f => s.setPort port { e.send { e.flit 1 f.slots with seq := f.seq } with sendPtr := e.sendPtr + 1 }
    | none =>
      if slots = [] then s.setPort port (e.send (e.flit 0 []))
      else if slots.length ≤ 7 ∧ e.replay.length < 512 ∧ req ≤ e.credReq ∧ rep ≤ e.credRep then
        let f := e.flit 1 slots
        s.setPort port { e.send f with next := e.next + 1, replay := e.replay ++ [f], sendPtr := e.sendPtr + 1,
                                       credReq := e.credReq - req, credRep := e.credRep - rep }
      else s

/-- The agent takes delivered slots, whose credits are owed to the sender. -/
def State.etgusTake (s : State) (port n : Nat) : State :=
  let e := s.port port
  let got := e.received.take n
  let rep := (got.filter fun q => q.1).length
  s.setPort port { e with received := e.received.drop n, owedRep := e.owedRep + rep, owedReq := e.owedReq + (got.length - rep) }

/-! ### The pod agent (08 R88) -/

/-- The agent's answer is kept. -/
def State.podSay (s : State) (r : Reply) : State :=
  { s with pkg := { s.pkg with podAnswer := r } }

/-- A read's answer: the bytes at their place in a line, each word with its mark. -/
def replyOf (off v : Nat) (bad : Bool) : Reply :=
  .data [(BitVec.ofNat 512 (v * 2 ^ (8 * off)), if bad then 1 <<< (off / 8) else 0)]

/-- Must another package's access wait: below a watermark (18 R251), but for a copy engine's, or an atomic or accumulate whose lock bit is held or wanted by an older operation, or
that comes late in its cycle (08 R116, 05 R60)? The agent stands for the core 4,096. -/
def State.podWaits (s : State) (q : PodReq) (a : Acc) : Bool :=
  (!q.kind.ofEngine && !s.belowMark a.loc a.size) || (match q.kind with
    | .atomic | .accumulate => (List.range ((a.size + 7) / 8)).any fun j =>
        (isScratch a.loc && !s.lockFree (a.loc + 8 * j) 4096 0 q.id) || s.bankHas (a.loc + 8 * j) 2
    | .load | .store | .engineLoad | .engineStore => false)

/-- The agent performs a translated access at its home slice, if it may reach it. A partial store that meets a poisoned word is answered
with a mark. -/
def State.podPerform (s : State) (q : PodReq) (a : Acc) : State :=
  let lost := s.misrouted agentNode (homeNode a.loc) q.kind.code
  let s := if s.fateOf agentNode (homeNode a.loc) q.kind.code = .error then s.logErr 2 a.va 0 0 0 else s
  match q.kind with
  | .load | .engineLoad =>
    if lost then s.podSay .fault
    else if isHost a.loc ∧ s.pkg.linkUp = false then s.podSay .fault
    else
      let r := s.homeRead a a.loc a.size
      if r.1.2 ∧ 8 < a.size then
        let l := r.2.homeRead a (a.loc / 64 * 64) 64
        let marks := (List.range 8).foldl (fun (p : BitVec 8) i =>
          if (l.2.homeRead a (a.loc / 64 * 64 + 8 * i) 8).1.2 then p ||| (1 <<< i) else p) 0
        l.2.podSay (.data [(BitVec.ofNat 512 l.1.1, marks)])
      else r.2.podSay (replyOf (a.loc % 64) r.1.1 r.1.2)
  | .store | .engineStore =>
    if lost then s.podSay (.data [])
    else if isHost a.loc ∧ s.pkg.linkUp = false then (s.logErr 5 a.va 0 0 0).podSay (.data [])
    else
      let r := s.storeAt a a.loc a.size (q.data.toNat % 2 ^ (8 * a.size)) 2
      r.2.podSay (.data (if r.1 then [(0, 1)] else []))
  | .accumulate =>
    if lost then s.podSay .fault
    else
      let s0 := (List.range ((a.size + 7) / 8)).foldl (fun s j => if isScratch a.loc then s.lockUnqueue (a.loc + 8 * j) 4096 0 q.id else s) s
      let r := s0.homeRead a a.loc a.size
      if r.1.2 then r.2.podSay (.data [(0, 1)])
      else (r.2.storeAt a a.loc a.size ((r.1.1 + q.data.toNat) % 2 ^ (8 * a.size)) 1).2.podSay (.data [])
  | .atomic =>
    if lost then s.podSay .fault
    else if isHost a.loc ∧ s.pkg.linkUp = false then s.podSay .fault
    else
      let s0 := if isScratch a.loc then s.lockUnqueue a.loc 4096 0 q.id else s
      let r := s0.homeRead a a.loc a.size
      if r.1.2 then r.2.podSay (replyOf (a.loc % 64) r.1.1 true)
      else
        let s1 := match atomicNew a.size q.aop r.1.1 q.data.toNat q.cmp.toNat with
          | some x => (r.2.storeAt a a.loc a.size x 1).2
          | none => r.2.bankNote a.loc a.size 1
        s1.podSay (replyOf (a.loc % 64) r.1.1 false)

/-- An access that must wait is held, an atomic with its place among the retries of its lock bit. -/
def State.podHold (s : State) (q : PodReq) (a : Acc) : State :=
  let s1 := match q.kind with
    | .atomic | .accumulate => (List.range ((a.size + 7) / 8)).foldl (fun s j =>
        if isScratch a.loc && !s.lockFree (a.loc + 8 * j) 4096 0 q.id then s.lockQueue (a.loc + 8 * j) 4096 0 q.id else s) s
    | .load | .store | .engineLoad | .engineStore => s
  if s1.pkg.podHeld.any fun h => decide (h.id = q.id) then s1
  else { s1 with pkg := { s1.pkg with podHeld := s1.pkg.podHeld ++ [{ q with acc := some a }] } }

/-- POD_RETRY: a held access is tried again. -/
def State.podRetry (s : State) (id : Nat) : State :=
  match s.pkg.podHeld.find? fun h => decide (h.id = id) with
  | none => s
  | some q => match q.acc with
    | none => s
    | some a =>
      if s.podWaits q a then s.podHold q a
      else ({ s with pkg := { s.pkg with podHeld := s.pkg.podHeld.filter fun h => decide (h.id ≠ id) } }).podPerform q a

/-- POD_RELAY: the answer to a forwarded access comes back and is passed on (28 R368). -/
def State.podRelay (s : State) (id : Nat) (r : Reply) : State :=
  if s.pkg.podOut.any fun h => decide (h.id = id) then
    { s with pkg := { s.pkg with podOut := s.pkg.podOut.filter fun h => decide (h.id ≠ id) } }.podSay r
  else s

/-- A new access of another package takes a number. -/
def State.podNumber (s : State) : State :=
  { s with pkg := { s.pkg with podNext := s.pkg.podNext + 1 } }

/-- POD_WINDOW_REQUEST: another package's access, to a pod-window or package scratch address. The agent translates and performs one to this
package, or answers a fault; one to a third package it forwards by that package's port (28 R368). -/
def execPodWindowRequest (kind : PodKind) (va : BitVec 64) (size : Nat) (aop : BitVec 3) (data cmp : BitVec 512) (s : State) : Out :=
  let f := bits va 56 4
  let p := bits va 50 6
  let k := kind.code
  let okSize : Bool := match kind with
    | .atomic => decide (size = 4 ∨ size = 8)
    | .accumulate => decide (size = 8 ∨ size = 16)
    | .load | .store | .engineLoad | .engineStore => [1, 2, 4, 8, 16, 32, 64].contains size
  let q : PodReq := ⟨s.pkg.podNext, kind, va, size, aop, data, cmp, none, s.routePort p⟩
  .next (
    if okSize = false ∨ (f ≠ 8 ∧ f ≠ 12) then s.podSay .fault
    else if p ≠ s.pkg.pkgnum.toNat then
      if s.podHas p && decide (s.routePort p < 12) then
        { s.podNumber with pkg := { s.podNumber.pkg with podOut := s.pkg.podOut ++ [q] } }.podSay .none
      else s.podSay .fault
    else match s.resolve 4096 0 va k size size (decide (kind = .atomic ∧ (aop = 0 ∨ aop = 6 ∨ aop = 7))) with
      | .ok a => if s.podWaits q a then (s.podNumber.podHold q a).podSay .none else s.podPerform q a
      | .fault _ | .miss => s.podSay .fault)

end Sys2Proof.Machine
end

