-- ==== Sys2Proof/Machine/Host.lean ====
section
/-! DEFINITION. The host side: BAR4, the registers of BAR0, parking and debug, keys and versions, the scrubber, attestation, firmware and
reset (08 R114; 15 R219; 26 R348 to R352, R377; 28 R357 to R362, R374 to R376). -/

namespace Sys2Proof.Machine

/-! ### BAR4 (08 R114) -/

/-- The pieces of a range, each within a 64-byte line: offset and length. -/
def linePieces (off n fuel : Nat) : List (Nat × Nat) :=
  match fuel with
  | 0 => []
  | k + 1 => if n = 0 then [] else
    let m := min n (64 - off % 64)
    (off, m) :: linePieces (off + m) (n - m) k

/-- The pieces of a BAR4 range of `n` bytes. -/
def bar4Pieces (off n : Nat) : List (Nat × Nat) :=
  linePieces off n (n / 64 + 2)

/-- Does BAR4 serve an offset: an active channel, below U(c), under an index that holds a key (log 10)? -/
def State.bar4Ok (s : State) (off : Nat) : Bool :=
  let c := off / chanSize
  decide (c < 1920) && !s.pkg.retiredCh.contains c && decide (off % chanSize < s.usableOf c) &&
  decide (mget 0 s.pkg.keys ((mget 0 s.pkg.wtab (off / 2 ^ 22)).toNat % 2 ^ 6) ≠ 0)

/-- The access that BAR4 makes for a piece, under the window table's key index and buffer id. -/
def State.bar4Acc (s : State) (off n : Nat) : Acc :=
  let w := mget 0 s.pkg.wtab (off / 2 ^ 22)
  ⟨0, off, n, false, w.toNat % 2 ^ 6, w.toNat / 2 ^ 6⟩

/-- A route error that a BAR4 request meets is logged (15 R214). -/
def State.bar4Lost (s : State) (off kind : Nat) : State :=
  if s.bar4Ok off && decide (s.fateOf hostNode (homeNode off) kind = .error) then s.logErr 2 (BitVec.ofNat 64 off) 0 0 0 else s

/-- The bytes of one piece, none where poisoned (13 R184). What the host reads where a turn table loses its request the spec does not say: zeros,
as for a place not served (DESIGN CHOICE, log 85). -/
def State.bar4Piece (s : State) (off n : Nat) : List (Option Byte) × State :=
  if s.bar4Ok off && !s.misrouted hostNode (homeNode off) 0 then
    let a := s.bar4Acc off n
    let r := s.homeRead a off n
    let marks := (List.range n).map fun i => (r.2.homeRead a (off + i) 1).1.2
    (((splitBytes n r.1.1).zip marks).map fun e => if e.2 then none else some e.1, r.2)
  else (List.replicate n (some 0), s.bar4Lost off 0)

/-- A BAR4 access that met a place BAR4 does not serve is counted once. -/
def State.bar4Count (s : State) (ps : List (Nat × Nat)) : State :=
  if ps.all fun p => s.bar4Ok p.1 then s else { s with pkg := { s.pkg with bar4Miss := s.pkg.bar4Miss + 1 } }

/-- BAR4_READ: the host reads `size` bytes at the home slice; the bytes stand in `bar4Data`. -/
def execBar4Read (off : BitVec 39) (size : Nat) (s : State) : Out :=
  let ps := bar4Pieces off.toNat size
  let r := ps.foldl (fun (r : List (Option Byte) × State) p =>
    let q := r.2.bar4Piece p.1 p.2
    (r.1 ++ q.1, q.2)) ([], s)
  let s1 := r.2.bar4Count ps
  .next { s1 with pkg := { s1.pkg with bar4Data := r.1 } }

/-- BAR4_WRITE: the host writes at the home slice. -/
def execBar4Write (off : BitVec 39) (data : List (BitVec 8)) (s : State) : Out :=
  let ps := bar4Pieces off.toNat data.length
  let s1 := ps.foldl (fun s p =>
    if s.bar4Ok p.1 && !s.misrouted hostNode (homeNode p.1) 1 then
      (s.storeAt (s.bar4Acc p.1 p.2) p.1 p.2 (joinBytes ((data.drop (p.1 - off.toNat)).take p.2)) 2).2
    else s.bar4Lost p.1 1) s
  .next (s1.bar4Count ps)

/-! ### Queue registers (28 R359) -/

/-- QCTL_WRITE: OVEN, SPACE and MSIEN of a device queue stay 0. The override of the cycle's start is kept for a selection in this cycle
(03 R38). -/
def execQctlWrite (base q : Nat) (value : BitVec 64) (s : State) : Out :=
  .next (
    if 2 ≤ base ∨ 12 ≤ q then s
    else
      let u := s.queueOf base q
      let host := decide (q < 8)
      s.putQueue base q { u with
        ovAt := some s.clock.toNat,
        ovOld := if u.ovAt = some s.clock.toNat then u.ovOld else (u.ovclass, u.oven),
        ovclass := value.extractLsb' 0 2,
        oven := host && value.getLsbD 2,
        space := if host then value.extractLsb' 16 12 else 0,
        msivec := value.extractLsb' 32 11,
        msien := host && value.getLsbD 43 })

/-- QCNT_CLEAR: a write of 0 clears all four counts. -/
def execQcntClear (base q : Nat) (value : BitVec 64) (s : State) : Out :=
  .next (
    if 2 ≤ base ∨ 12 ≤ q ∨ value ≠ 0 then s
    else s.putQueue base q { s.queueOf base q with portErr := 0, overflow := 0, noRecord := 0, ended := 0 })

/-! ### Parking and debug (15 R219, 28 R361) -/

/-- The core that index i of a base's block names. -/
def indexCore (base i : Nat) : Nat := coreNo (16 * base + i % 16) (i / 16)

/-- Does a core hold no thread and no message? -/
def Core.empty (c : Core) : Bool :=
  c.inbox.isEmpty && c.ctxs.all fun t => decide (t.2.run = .idle)

/-- CORE_PARK: an empty core is parked; any other request is refused and counted. -/
def execCorePark (base i : Nat) (s : State) : Out :=
  .next (
    if 2 ≤ base ∨ 256 ≤ i then s
    else
      let n := indexCore base i
      if (s.core n).empty then (s.setCore n { s.core n with parked := true }).wires
      else
        let c := s.ctlOf base
        s.putCtl base { c with parkRef := c.parkRef + 1, parkLast := BitVec.ofNat 8 i })

/-- CORE_UNPARK: a PARK bit written 0. -/
def execCoreUnpark (base i : Nat) (s : State) : Out :=
  .next (
    if 2 ≤ base ∨ 256 ≤ i then s
    else
      let n := indexCore base i
      (s.setCore n { s.core n with parked := false }).wires)

/-- EXCUSE_WRITE: the change takes effect in the next cycle (15 R219). -/
def execExcuseWrite (base i : Nat) (on : Bool) (s : State) : Out :=
  .next (
    if 2 ≤ base ∨ 256 ≤ i then s
    else
      let n := indexCore base i
      s.setCore n { s.core n with excuseDue := some on })

/-- PARKREF_CLEAR: a write of 0 clears the count. -/
def execParkrefClear (base : Nat) (value : BitVec 64) (s : State) : Out :=
  .next (if 2 ≤ base ∨ value ≠ 0 then s else s.putCtl base { s.ctlOf base with parkRef := 0 })

/-- DEBUG_CONTINUE: a context stopped by HALT goes on at the next instruction (14 R202); otherwise the command is counted. A continue that
comes while the context's launch is being halted or ends is ignored and counted, though the context is still stopped: the spec does not
name the case (DESIGN CHOICE, log 89). -/
def execDebugContinue (base : Nat) (value : BitVec 64) (s : State) : Out :=
  .next (
    if 2 ≤ base ∨ bits value 60 4 ≠ 1 then s
    else
      let n := coordCore value
      let i := bits value 16 6
      let t := s.ctx n i
      if baseOf n = base ∧ t.run = .stopped ∧ s.stopped t.lid = false then s.setCtx n i t.next
      else
        let c := s.ctlOf base
        s.putCtl base { c with dbgIgn := c.dbgIgn + 1 })

/-- DBGIGN_CLEAR: a write of 0 clears the count. -/
def execDbgignClear (base : Nat) (value : BitVec 64) (s : State) : Out :=
  .next (if 2 ≤ base ∨ value ≠ 0 then s else s.putCtl base { s.ctlOf base with dbgIgn := 0 })

/-! ### Layout counts (28 R358) -/

/-- USMIN: the smallest U(c) of an active channel, in 64 KiB. -/
def State.usMin (s : State) : Nat :=
  match s.pkg.order with
  | [] => 0
  | c :: t => t.foldl (fun m c => min m (s.usableOf c / 2 ^ 16)) (s.usableOf c / 2 ^ 16)

/-- LAYCTL_WRITE: while unlocked, counts that fit are set and locked together. -/
def execLayctlWrite (value : BitVec 64) (s : State) : Out :=
  let ig := bits value 0 32
  let is := bits value 32 31
  .next (
    if s.pkg.layLock = true ∨ s.usMin * 2 ^ 16 < (ig + is) * 4096 then s
    else { s with pkg := { s.pkg with iglim := BitVec.ofNat 32 ig, islim := BitVec.ofNat 31 is, layLock := true } })

/-! ### Keys, versions, caps (26 R348, R350, R377; 22 R303) -/

/-- KEY_LOAD: KEYGO starts the load of KEYDAT into the index KEYIDX, where none is in progress. -/
def execKeyLoad (value : BitVec 64) (s : State) : Out :=
  .next (
    if value.getLsbD 0 = false ∨ s.pkg.keyIdx = 0 ∨ s.pkg.keyBusy.isSome = true then s
    else { s with pkg := { s.pkg with keyBusy := some (s.pkg.keyIdx.toNat, s.pkg.keyDat) } })

/-- KEY_LOAD_COMPLETE: the key set governs accesses from here on. -/
def execKeyLoadComplete (s : State) : Out :=
  .next (match s.pkg.keyBusy with
    | none => s
    | some (i, d) => { s with pkg := { s.pkg with keys := mput s.pkg.keys i (2 * d.toNat + 2), keyBusy := none } })

/-- VERSION_BUMP: buffer id 0 is never bumped. -/
def execVersionBump (id : BitVec 16) (s : State) : Out :=
  .next (if id = 0 ∨ s.pkg.vbBusy = true then s else { s with pkg := { s.pkg with vbBusy := true, vbLast := id } })

/-- BUMP_DIE: one HBM base die raises its copy (26 R350). -/
def State.bumpDie (s : State) (die : Nat) : State :=
  if s.pkg.vbBusy = false ∨ 12 ≤ die ∨ s.pkg.vbDone.contains die = true then s
  else { s with pkg := { s.pkg with vbDone := s.pkg.vbDone ++ [die] } }

/-- VERSION_BUMP_COMPLETE: every copy of the version table holds the new version. -/
def execVersionBumpComplete (s : State) : Out :=
  .next (
    if s.pkg.vbBusy = false then s
    else { s with pkg := { s.pkg with vbBusy := false, vbDone := [], versions := mmod 0 s.pkg.versions s.pkg.vbLast.toNat fun v => v + 1 } })

/-- GCAP after a write: byte k takes the value where it is 1 to 64. -/
def gcapAfter (old value : BitVec 64) : BitVec 64 :=
  (List.range 8).foldl (fun g k =>
    let v := bits value (8 * k) 8
    if 1 ≤ v ∧ v ≤ 64 then (g &&& ~~~(0xFF#64 <<< (8 * k))) ||| (BitVec.ofNat 64 v <<< (8 * k)) else g) old

/-- GCAP_WRITE: sets the grant caps; GRANT_REVOKE takes the grants above them. -/
def execGcapWrite (value : BitVec 64) (s : State) : Out :=
  .next { s with pkg := { s.pkg with gcap := gcapAfter s.pkg.gcap value } }

/-! ### The other registers of BAR0 (28 R362) -/

/-- The selected turn-table entry's key, where both nodes exist. -/
def State.ttKey (s : State) : Option Nat :=
  let src : BitVec 12 := s.pkg.ttsel.extractLsb' 16 12
  let dst : BitVec 12 := s.pkg.ttsel.extractLsb' 0 12
  if nodeExists src && nodeExists dst then some (src.toNat * 2 ^ 16 + dst.toNat) else none

/-- TTDATA_WRITE: takes effect only while no launch is live. -/
def execTtdataWrite (value : BitVec 128) (s : State) : Out :=
  .next (match s.ttKey with
    | none => s
    | some k =>
      if s.launches ≠ [] then s
      else { s with pkg := { s.pkg with
        tt := mput s.pkg.tt k ⟨value.getLsbD 127, value.extractLsb' 112 2, value.extractLsb' 0 112⟩ } })

/-- IDENT: the part code 0x0480, the stepping and the firmware version (28 R358). -/
def Pkg.ident (p : Pkg) : Word :=
  BitVec.ofNat 64 (0x0480 * 2 ^ 48 + p.stepping.toNat * 2 ^ 40 + p.fwVersion.toNat)

/-- BOOTST: the boot status and the step that last failed (28 R358). -/
def Pkg.bootWord (p : Pkg) : Word :=
  BitVec.ofNat 64 (p.bootst.toNat + p.bootFail.toNat * 2 ^ 8)

/-- Replace the 64-bit word k of a wide register. -/
def putRegWord {n : Nat} (r : BitVec n) (k : Nat) (v : Word) : BitVec n :=
  (r &&& ~~~((0xFFFFFFFFFFFFFFFF#64).setWidth n <<< (64 * k))) ||| (v.setWidth n <<< (64 * k))

/-- A write of a base's block: the save and map registers, RIDLE and WDLIM (28 R360, R361). -/
def Ctl.write (c : Ctl) (off : Nat) (v : Word) : Ctl :=
  if off = 0x308 then { c with lsave := v }
  else if off = 0x310 then { c with lsize := v }
  else if off = 0x318 then { c with lwin := v }
  else if off = 0x320 then { c with lmap := v }
  else if off = 0x380 then (if 64 ≤ bits v 0 16 then { c with ridle := v.extractLsb' 0 16 } else c)
  else if off = 0x388 then { c with wdlim := v.extractLsb' 0 32 }
  else c

/-- The registers of the package. -/
def Pkg.write (p : Pkg) (off : Nat) (v : Word) : Pkg :=
  if off = 0x2000 then { p with prbase := v &&& ~~~0xFF0 }
  else if off = 0x2010 then
    let n := bits p.prbase 0 4
    { p with prcons := v.extractLsb' 0 16, prUsed := (p.prprod.toNat + 2 ^ 16 - bits v 0 16) % 2 ^ n }
  else if off = 0x2018 then { p with prmsi := v.extractLsb' 0 12 }
  else if off = 0x4000 then { p with keyIdx := v.extractLsb' 0 6 }
  else if 0x4010 ≤ off ∧ off < 0x4040 then { p with keyDat := putRegWord p.keyDat ((off - 0x4010) / 8) v }
  else if off = 0x4060 then { p with scrub := v.extractLsb' 0 32 }
  else if off = 0x6000 then { p with pkgnum := v.extractLsb' 0 6 }
  else if off = 0x6008 then { p with podmap := v }
  else if off = 0x6010 then { p with podspace := v.extractLsb' 0 12 }
  else if 0x6100 ≤ off ∧ off < 0x6140 then { p with route := putRegWord p.route ((off - 0x6100) / 8) v }
  else if off = 0x6800 then { p with ttsel := v.extractLsb' 0 28 &&& 0xFFF0FFF }
  else if 0x200000 ≤ off ∧ off < 0x208000 then { p with msixTab := mput p.msixTab ((off - 0x200000) / 8) v }
  else if 0x800000 ≤ off ∧ off < 0x900000 then { p with wtab := mset 0 p.wtab ((off - 0x800000) / 8) (v.extractLsb' 0 22) }
  else p

/-- A write of the MSI-X table that unmasks a pending vector sends it (28 R357, log 84). -/
def State.unmasked (s : State) (off : Nat) : State :=
  let v := (off - 0x200000) / 16
  if 0x200000 ≤ off ∧ off < 0x208000 ∧ s.pkg.masked v = false ∧ mget false s.pkg.msixPend v = true then
    { s with pkg := { s.pkg with msixPend := mset false s.pkg.msixPend v false } }.sendVector (BitVec.ofNat 11 v)
  else s

/-- BAR0_REGISTER_WRITE: an aligned 8-byte write of a register that no other row names. A write of a read-only or absent register
is ignored; a package that the pod map loses fails the accesses in flight to it (28 R371). -/
def execBar0RegisterWrite (off : BitVec 26) (value : BitVec 64) (s : State) : Out :=
  let o := off.toNat
  .next (
    if o % 8 ≠ 0 then s
    else if 0x1000 ≤ o ∧ o < 0x2000 then
      let b := (o - 0x1000) / 0x800
      s.putCtl b ((s.ctlOf b).write (o % 0x800) value)
    else if o = 0x3008 then { s with errLog := { s.errLog with tail := value.extractLsb' 0 9 } }
    else if o = 0x3028 then { s with dbgLog := { s.dbgLog with tail := value.extractLsb' 0 9 } }
    else
      let s1 := { s with pkg := s.pkg.write o value }
      if o = 0x6008 then s1.lostPackages ((List.range 64).filter fun p => s.podHas p && !s1.podHas p)
      else s1.unmasked o)

/-! ### Attestation, firmware, bring-up (28 R374 to R376) -/

/-- ATTESTATION_QUOTE: the log, the nonce and the signature over their digest; a new nonce replaces a quote not yet read. -/
def execAttestationQuote (nonce : BitVec 256) (s : State) : Out :=
  .next { s with pkg := { s.pkg with quote := some (s.pkg.measured, nonce, Config.signature (Config.digest s.pkg.measured nonce)) } }

/-- The active channels in boot order (08 R101): by pseudo-channel number, then by stack. -/
def channelOrder (retired : List Nat) : List Nat :=
  ((List.range 160).flatMap fun p => (List.range 12).map fun t => t * 160 + p).filter fun c => !retired.contains c

/-- Does an image verify (28 R374, step 2)? -/
def imageVerifies (f : FwImage) (fusedMin : Nat) : Bool :=
  f.signed && decide (fusedMin ≤ f.secVersion)

/-- Steps 2 to 5 on an image: firmware writes its tables and defaults, the turn tables' dimension-order routes among them (15 R215), or the
part awaits an image. -/
def State.boot (s : State) (f : FwImage) : State :=
  if imageVerifies f s.pkg.fusedMin then
    let s1 := { s with pkg := { s.pkg with order := channelOrder s.pkg.retiredCh } }
    { s1 with pkg := { s1.pkg with
      bootst := 4, fwVersion := f.version, scopeBoot := true, ttBoot := true,
      iglim := BitVec.ofNat 32 (s1.usMin * 2 ^ 16 / 2 / 4096), islim := 0,
      measured := [Config.romDigest, f.digest, Config.configDigest s1.pkg.resets] } }
  else { s with pkg := { s.pkg with bootst := 2, bootFail := 2 } }

/-- FIRMWARE_IMAGE_WRITE: while the part awaits an image, the host writes one and restarts step 2. -/
def execFirmwareImageWrite (image : FwImage) (s : State) : Out :=
  .next (if s.pkg.bootst = 2 then s.boot image else s)

/-- FIRMWARE_UPDATE: the flash takes a new image for the next reset; an interrupted one fails verification. -/
def execFirmwareUpdate (image : FwImage) (interrupted : Bool) (s : State) : Out :=
  .next { s with pkg := { s.pkg with flash := if interrupted then { image with signed := false } else image } }

/-- The marks of DRAM and host memory, which a reset keeps (log 12). -/
def keptCell {α : Type} (unit : Nat) (e : Nat × α) : Bool :=
  !isScratch (e.1 * unit)

/-- The usable size of a channel with no row retired: 248 MiB with integrity tags on, 256 MiB with them off (08 R100, 26 R349). -/
def usableSize (tags : Bool) : Nat :=
  if tags then 248 * 2 ^ 20 else 256 * 2 ^ 20

/-- The package registers after a reset with the part's facts. -/
def Pkg.afterReset (p : Pkg) (f : BootFacts) : Pkg :=
  { Pkg.reset with
    stepping := p.stepping, activeSlices := f.activeSlices, retired := f.retiredCores, retiredCh := f.retiredChannels,
    tagsOn := f.tagsOn, usable := usableSize f.tagsOn,
    usableCh := f.usableCh.foldl (fun m e => mset (usableSize f.tagsOn) m e.1 (min e.2 (usableSize f.tagsOn))) [],
    podPorts := f.podPorts, podCounts := f.podCounts,
    hostAtomics := f.hostAtomics, flash := p.flash, fusedMin := f.fusedMin,
    resets := p.resets + 1, keys := [(0, genKey (p.resets + 1))] }

/-- RESET: everything at its reset value but DRAM and host memory, the flash and the part's facts; data that failed authentication three
times while the links came up is poisoned (26 R351); then the ROM verifies the flash's image (28 R374). -/
def execReset (boot : BootFacts) (s : State) : Out :=
  let s1 : State := { State.reset with
    mem := s.mem.filter (keptCell 1), poison := s.poison.filter (keptCell 8), blk := s.blk, lineMeta := s.lineMeta,
    pkg := s.pkg.afterReset boot, tape := s.tape, free := s.free }
  let s2 := boot.hbmAuthFails.foldl (fun s w =>
    if isDram (w / 4 * 32) then
      { s with poison := setPoison s.poison (w / 4 * 4) 4 true }.logErr 3 (BitVec.ofNat 64 (w / 4 * 32)) 0 0 0
    else s) s1
  .next (s2.boot s2.pkg.flash)

/-! ### The patrol scrubber (26 R352) -/

/-- SCRUB_BLOCK: the scrubber of a channel reads a block and holds it, poisoning and logging the words it cannot correct, or writes the
held block back. A write-back is dropped where a demand write came between; it changes no data either way. -/
def execScrubBlock (ch blk : Nat) (find : ScrubFind) (s : State) : Out :=
  let b := ch * (chanSize / 256) + blk
  .next (
    if s.pkg.scrub = 0 ∨ 1920 ≤ ch ∨ chanSize / 256 ≤ blk ∨ s.pkg.retiredCh.contains ch = true then s
    else match find with
    | .read bad =>
      let s1 := { s with pkg := { s.pkg with scrubHold := mput s.pkg.scrubHold ch (b, 0) } }
      (bad.filter fun w => decide (w < 32)).foldl (fun s w =>
        { s with poison := setPoison s.poison (b * 32 + w) 1 true }.logErr 4 (BitVec.ofNat 64 (b * 256 + w * 8)) 0 0 0) s1
    | .write => match mfind s.pkg.scrubHold ch with
      | some (held, _) => if held = b then { s with pkg := { s.pkg with scrubHold := mdel s.pkg.scrubHold ch } } else s
      | none => s)

end Sys2Proof.Machine
end

