-- ==== Sys2Proof/Machine/Dispatch.lean ====
section
/-! DEFINITION. Which meaning each instruction and step has: one direct call an arm. -/

namespace Sys2Proof.Machine

/-- The meaning of an instruction or step. -/
def exec (i : Instr) (s : State) : Host.Outcome State Fault Refusal :=
  match i with
  | .add d a b => Sys2Proof.Machine.execAdd d a b s
  | .sub d a b => Sys2Proof.Machine.execSub d a b s
  | .and d a b => Sys2Proof.Machine.execAnd d a b s
  | .or d a b => Sys2Proof.Machine.execOr d a b s
  | .xor d a b => Sys2Proof.Machine.execXor d a b s
  | .andn d a b => Sys2Proof.Machine.execAndn d a b s
  | .sll d a b => Sys2Proof.Machine.execSll d a b s
  | .srl d a b => Sys2Proof.Machine.execSrl d a b s
  | .sra d a b => Sys2Proof.Machine.execSra d a b s
  | .ror d a b => Sys2Proof.Machine.execRor d a b s
  | .slt d a b => Sys2Proof.Machine.execSlt d a b s
  | .sltu d a b => Sys2Proof.Machine.execSltu d a b s
  | .min d a b => Sys2Proof.Machine.execMin d a b s
  | .max d a b => Sys2Proof.Machine.execMax d a b s
  | .minu d a b => Sys2Proof.Machine.execMinu d a b s
  | .maxu d a b => Sys2Proof.Machine.execMaxu d a b s
  | .mul d a b => Sys2Proof.Machine.execMul d a b s
  | .mulh d a b => Sys2Proof.Machine.execMulh d a b s
  | .mulhu d a b => Sys2Proof.Machine.execMulhu d a b s
  | .div d a b l => Sys2Proof.Machine.execDiv d a b l s
  | .divu d a b l => Sys2Proof.Machine.execDivu d a b l s
  | .rem d a b l => Sys2Proof.Machine.execRem d a b l s
  | .remu d a b l => Sys2Proof.Machine.execRemu d a b l s
  | .clz d a => Sys2Proof.Machine.execClz d a s
  | .ctz d a => Sys2Proof.Machine.execCtz d a s
  | .popc d a => Sys2Proof.Machine.execPopc d a s
  | .addi d a imm => Sys2Proof.Machine.execAddi d a imm s
  | .andi d a imm => Sys2Proof.Machine.execAndi d a imm s
  | .ori d a imm => Sys2Proof.Machine.execOri d a imm s
  | .xori d a imm => Sys2Proof.Machine.execXori d a imm s
  | .slti d a imm => Sys2Proof.Machine.execSlti d a imm s
  | .sltiu d a imm => Sys2Proof.Machine.execSltiu d a imm s
  | .shiSll d a z => Sys2Proof.Machine.execShiSll d a z s
  | .shiSrl d a z => Sys2Proof.Machine.execShiSrl d a z s
  | .shiSra d a z => Sys2Proof.Machine.execShiSra d a z s
  | .shiRor d a z => Sys2Proof.Machine.execShiRor d a z s
  | .liw d h imm => Sys2Proof.Machine.execLiw d h imm s
  | .lpc d imm => Sys2Proof.Machine.execLpc d imm s
  | .beq a b imm => Sys2Proof.Machine.execBeq a b imm s
  | .bne a b imm => Sys2Proof.Machine.execBne a b imm s
  | .blt a b imm => Sys2Proof.Machine.execBlt a b imm s
  | .bge a b imm => Sys2Proof.Machine.execBge a b imm s
  | .bltu a b imm => Sys2Proof.Machine.execBltu a b imm s
  | .bgeu a b imm => Sys2Proof.Machine.execBgeu a b imm s
  | .jal d imm => Sys2Proof.Machine.execJal d imm s
  | .jalr d a imm => Sys2Proof.Machine.execJalr d a imm s
  | .ld8u d a o l => Sys2Proof.Machine.execLd8u d a o l s
  | .ld8s d a o l => Sys2Proof.Machine.execLd8s d a o l s
  | .ld16u d a o l => Sys2Proof.Machine.execLd16u d a o l s
  | .ld16s d a o l => Sys2Proof.Machine.execLd16s d a o l s
  | .ld32u d a o l => Sys2Proof.Machine.execLd32u d a o l s
  | .ld32s d a o l => Sys2Proof.Machine.execLd32s d a o l s
  | .ld64 d a o l => Sys2Proof.Machine.execLd64 d a o l s
  | .st8 d a o => Sys2Proof.Machine.execSt8 d a o s
  | .st16 d a o => Sys2Proof.Machine.execSt16 d a o s
  | .st32 d a o => Sys2Proof.Machine.execSt32 d a o s
  | .st64 d a o => Sys2Proof.Machine.execSt64 d a o s
  | .prefL1 a o => Sys2Proof.Machine.execPrefL1 a o s
  | .prefSlice a o => Sys2Proof.Machine.execPrefSlice a o s
  | .prefTlb a o => Sys2Proof.Machine.execPrefTlb a o s
  | .at32Add d a b o z l => Sys2Proof.Machine.execAt32Add d a b o z l s
  | .at32And d a b o z l => Sys2Proof.Machine.execAt32And d a b o z l s
  | .at32Or d a b o z l => Sys2Proof.Machine.execAt32Or d a b o z l s
  | .at32Xor d a b o z l => Sys2Proof.Machine.execAt32Xor d a b o z l s
  | .at32Max d a b o z l => Sys2Proof.Machine.execAt32Max d a b o z l s
  | .at32Min d a b o z l => Sys2Proof.Machine.execAt32Min d a b o z l s
  | .at32Swap d a b o z l => Sys2Proof.Machine.execAt32Swap d a b o z l s
  | .at32Cas d a b o z l => Sys2Proof.Machine.execAt32Cas d a b o z l s
  | .at64Add d a b o z l => Sys2Proof.Machine.execAt64Add d a b o z l s
  | .at64And d a b o z l => Sys2Proof.Machine.execAt64And d a b o z l s
  | .at64Or d a b o z l => Sys2Proof.Machine.execAt64Or d a b o z l s
  | .at64Xor d a b o z l => Sys2Proof.Machine.execAt64Xor d a b o z l s
  | .at64Max d a b o z l => Sys2Proof.Machine.execAt64Max d a b o z l s
  | .at64Min d a b o z l => Sys2Proof.Machine.execAt64Min d a b o z l s
  | .at64Swap d a b o z l => Sys2Proof.Machine.execAt64Swap d a b o z l s
  | .at64Cas d a b o z l => Sys2Proof.Machine.execAt64Cas d a b o z l s
  | .fenceAcq z => Sys2Proof.Machine.execFenceAcq z s
  | .fenceAcqReg a => Sys2Proof.Machine.execFenceAcqReg a s
  | .fenceRel z => Sys2Proof.Machine.execFenceRel z s
  | .fenceRelReg a => Sys2Proof.Machine.execFenceRelReg a s
  | .fenceAr z => Sys2Proof.Machine.execFenceAr z s
  | .fenceArReg a => Sys2Proof.Machine.execFenceArReg a s
  | .fenceSc z => Sys2Proof.Machine.execFenceSc z s
  | .fenceScReg a => Sys2Proof.Machine.execFenceScReg a s
  | .lda32 d a z l => Sys2Proof.Machine.execLda32 d a z l s
  | .lda64 d a z l => Sys2Proof.Machine.execLda64 d a z l s
  | .stl32 d a z => Sys2Proof.Machine.execStl32 d a z s
  | .stl64 d a z => Sys2Proof.Machine.execStl64 d a z s
  | .scope d a b => Sys2Proof.Machine.execScope d a b s
  | .ldl d a l => Sys2Proof.Machine.execLdl d a l s
  | .stu d a b => Sys2Proof.Machine.execStu d a b s
  | .vld d a o l => Sys2Proof.Machine.execVld d a o l s
  | .vst d a o => Sys2Proof.Machine.execVst d a o s
  | .vgather d a b l q k => Sys2Proof.Machine.execVgather d a b l q k s
  | .vscatter d a b q k => Sys2Proof.Machine.execVscatter d a b q k s
  | .vlds d a b l q k => Sys2Proof.Machine.execVlds d a b l q k s
  | .vsts d a b q k => Sys2Proof.Machine.execVsts d a b q k s
  | .vadd d a b q k => Sys2Proof.Machine.execVadd d a b q k s
  | .vsub d a b q k => Sys2Proof.Machine.execVsub d a b q k s
  | .vmul d a b q k => Sys2Proof.Machine.execVmul d a b q k s
  | .vmulh d a b q k => Sys2Proof.Machine.execVmulh d a b q k s
  | .vadds d a b q k => Sys2Proof.Machine.execVadds d a b q k s
  | .vsubs d a b q k => Sys2Proof.Machine.execVsubs d a b q k s
  | .vand d a b q k => Sys2Proof.Machine.execVand d a b q k s
  | .vor d a b q k => Sys2Proof.Machine.execVor d a b q k s
  | .vxor d a b q k => Sys2Proof.Machine.execVxor d a b q k s
  | .vsll d a b q k => Sys2Proof.Machine.execVsll d a b q k s
  | .vsrl d a b q k => Sys2Proof.Machine.execVsrl d a b q k s
  | .vsra d a b q k => Sys2Proof.Machine.execVsra d a b q k s
  | .vmin d a b q k => Sys2Proof.Machine.execVmin d a b q k s
  | .vmax d a b q k => Sys2Proof.Machine.execVmax d a b q k s
  | .vminu d a b q k => Sys2Proof.Machine.execVminu d a b q k s
  | .vmaxu d a b q k => Sys2Proof.Machine.execVmaxu d a b q k s
  | .vsel d a b q k => Sys2Proof.Machine.execVsel d a b q k s
  | .vcmpEq d a b q k => Sys2Proof.Machine.execVcmpEq d a b q k s
  | .vcmpNe d a b q k => Sys2Proof.Machine.execVcmpNe d a b q k s
  | .vcmpLt d a b q k => Sys2Proof.Machine.execVcmpLt d a b q k s
  | .vcmpLe d a b q k => Sys2Proof.Machine.execVcmpLe d a b q k s
  | .vcmpLtu d a b q k => Sys2Proof.Machine.execVcmpLtu d a b q k s
  | .vcmpLeu d a b q k => Sys2Proof.Machine.execVcmpLeu d a b q k s
  | .vfadd d a b q k => Sys2Proof.Machine.execVfadd d a b q k s
  | .vfsub d a b q k => Sys2Proof.Machine.execVfsub d a b q k s
  | .vfmul d a b q k => Sys2Proof.Machine.execVfmul d a b q k s
  | .vfma d a b q k => Sys2Proof.Machine.execVfma d a b q k s
  | .vfms d a b q k => Sys2Proof.Machine.execVfms d a b q k s
  | .vfdiv d a b q k => Sys2Proof.Machine.execVfdiv d a b q k s
  | .vfsqrt d a q k => Sys2Proof.Machine.execVfsqrt d a q k s
  | .vfmin d a b q k => Sys2Proof.Machine.execVfmin d a b q k s
  | .vfmax d a b q k => Sys2Proof.Machine.execVfmax d a b q k s
  | .vfabs d a q k => Sys2Proof.Machine.execVfabs d a q k s
  | .vfneg d a q k => Sys2Proof.Machine.execVfneg d a q k s
  | .vfcmpEq d a b q k => Sys2Proof.Machine.execVfcmpEq d a b q k s
  | .vfcmpNe d a b q k => Sys2Proof.Machine.execVfcmpNe d a b q k s
  | .vfcmpLt d a b q k => Sys2Proof.Machine.execVfcmpLt d a b q k s
  | .vfcmpLe d a b q k => Sys2Proof.Machine.execVfcmpLe d a b q k s
  | .vfcmpUn d a b q k => Sys2Proof.Machine.execVfcmpUn d a b q k s
  | .vperm d a b q k => Sys2Proof.Machine.execVperm d a b q k s
  | .vbcast d a q k => Sys2Proof.Machine.execVbcast d a q k s
  | .vextr d a b q => Sys2Proof.Machine.execVextr d a b q s
  | .vinsr d a b q => Sys2Proof.Machine.execVinsr d a b q s
  | .vsort d a q k => Sys2Proof.Machine.execVsort d a q k s
  | .vcompr d a q k => Sys2Proof.Machine.execVcompr d a q k s
  | .vdot4 d a b q k => Sys2Proof.Machine.execVdot4 d a b q k s
  | .vfdot d a b q k => Sys2Proof.Machine.execVfdot d a b q k s
  | .kand d a b q => Sys2Proof.Machine.execKand d a b q s
  | .kor d a b q => Sys2Proof.Machine.execKor d a b q s
  | .kxor d a b q => Sys2Proof.Machine.execKxor d a b q s
  | .knot d a q => Sys2Proof.Machine.execKnot d a q s
  | .klen d a q => Sys2Proof.Machine.execKlen d a q s
  | .kpop d a q => Sys2Proof.Machine.execKpop d a q s
  | .vredAdd d a q k => Sys2Proof.Machine.execVredAdd d a q k s
  | .vredMin d a q k => Sys2Proof.Machine.execVredMin d a q k s
  | .vredMax d a q k => Sys2Proof.Machine.execVredMax d a q k s
  | .vredMinu d a q k => Sys2Proof.Machine.execVredMinu d a q k s
  | .vredMaxu d a q k => Sys2Proof.Machine.execVredMaxu d a q k s
  | .vredAnd d a q k => Sys2Proof.Machine.execVredAnd d a q k s
  | .vredOr d a q k => Sys2Proof.Machine.execVredOr d a q k s
  | .vredXor d a q k => Sys2Proof.Machine.execVredXor d a q k s
  | .vredFadd d a q k => Sys2Proof.Machine.execVredFadd d a q k s
  | .vredFmin d a q k => Sys2Proof.Machine.execVredFmin d a q k s
  | .vredFmax d a q k => Sys2Proof.Machine.execVredFmax d a q k s
  | .vscanAdd d a q k => Sys2Proof.Machine.execVscanAdd d a q k s
  | .vscanMin d a q k => Sys2Proof.Machine.execVscanMin d a q k s
  | .vscanMax d a q k => Sys2Proof.Machine.execVscanMax d a q k s
  | .vscanFadd d a q k => Sys2Proof.Machine.execVscanFadd d a q k s
  | .vcvt d a q k => Sys2Proof.Machine.execVcvt d a q k s
  | .vpack d a b q => Sys2Proof.Machine.execVpack d a b q s
  | .vunpk d a b q => Sys2Proof.Machine.execVunpk d a b q s
  | .fmt a b c r z m => Sys2Proof.Machine.execFmt a b c r z m s
  | .spawn d a b l => Sys2Proof.Machine.execSpawn d a b l s
  | .send d a b l => Sys2Proof.Machine.execSend d a b l s
  | .launch d a b l => Sys2Proof.Machine.execLaunch d a b l s
  | .exit => Sys2Proof.Machine.execExit s
  | .yield => Sys2Proof.Machine.execYield s
  | .wait d a b => Sys2Proof.Machine.execWait d a b s
  | .join d a l => Sys2Proof.Machine.execJoin d a l s
  | .leave d a l => Sys2Proof.Machine.execLeave d a l s
  | .bar d a => Sys2Proof.Machine.execBar d a s
  | .bart d a b => Sys2Proof.Machine.execBart d a b s
  | .hbar d a b => Sys2Proof.Machine.execHbar d a b s
  | .trap a => Sys2Proof.Machine.execTrap a s
  | .eret => Sys2Proof.Machine.execEret s
  | .halt => Sys2Proof.Machine.execHalt s
  | .tlbw d a b => Sys2Proof.Machine.execTlbw d a b s
  | .tlbi d a b => Sys2Proof.Machine.execTlbi d a b s
  | .csrr d c => Sys2Proof.Machine.execCsrr d c s
  | .csrw d a c => Sys2Proof.Machine.execCsrw d a c s
  | .csrs d a c => Sys2Proof.Machine.execCsrs d a c s
  | .csrc d a c => Sys2Proof.Machine.execCsrc d a c s
  | .copy a => Sys2Proof.Machine.execCopy a s
  | .copyt d a => Sys2Proof.Machine.execCopyt d a s
  | .cpbind d a b => Sys2Proof.Machine.execCpbind d a b s
  | .cpunb d a => Sys2Proof.Machine.execCpunb d a s
  | .cppop d => Sys2Proof.Machine.execCppop d s
  | .cpstat d a => Sys2Proof.Machine.execCpstat d a s
  | .tlook d a => Sys2Proof.Machine.execTlook d a s
  | .tins d a => Sys2Proof.Machine.execTins d a s
  | .tdel d a => Sys2Proof.Machine.execTdel d a s
  | .tstat d a => Sys2Proof.Machine.execTstat d a s
  | .qarr d a => Sys2Proof.Machine.execQarr d a s
  | .qseal d a => Sys2Proof.Machine.execQseal d a s
  | .qdep a => Sys2Proof.Machine.execQdep a s
  | .qsplit d a b => Sys2Proof.Machine.execQsplit d a b s
  | .qdef d => Sys2Proof.Machine.execQdef d s
  | .qidx d a => Sys2Proof.Machine.execQidx d a s
  | .qpop d => Sys2Proof.Machine.execQpop d s
  | .qfirst d => Sys2Proof.Machine.execQfirst d s
  | .qget d a => Sys2Proof.Machine.execQget d a s
  | .qput a b => Sys2Proof.Machine.execQput a b s
  | .qadd a => Sys2Proof.Machine.execQadd a s
  | .qdel a => Sys2Proof.Machine.execQdel a s
  | .cqmrg d a b => Sys2Proof.Machine.execCqmrg d a b s
  | .cqbest d a b => Sys2Proof.Machine.execCqbest d a b s
  | .cqinit d a b => Sys2Proof.Machine.execCqinit d a b s
  | .cqcnt d a => Sys2Proof.Machine.execCqcnt d a s
  | .vvis d a b => Sys2Proof.Machine.execVvis d a b s
  | .cvenc d a => Sys2Proof.Machine.execCvenc d a s
  | .cvdec d a => Sys2Proof.Machine.execCvdec d a s
  | .cvadd d a b => Sys2Proof.Machine.execCvadd d a b s
  | .cvsub d a b => Sys2Proof.Machine.execCvsub d a b s
  | .cvin d a b => Sys2Proof.Machine.execCvin d a b s
  | .cvnext d a b => Sys2Proof.Machine.execCvnext d a b s
  | .cvprev d a b => Sys2Proof.Machine.execCvprev d a b s
  | .cvlev d a b => Sys2Proof.Machine.execCvlev d a b s
  | .cvcell d a b => Sys2Proof.Machine.execCvcell d a b s
  | .cvsplit d a b => Sys2Proof.Machine.execCvsplit d a b s
  | .vcvadd d a b q k => Sys2Proof.Machine.execVcvadd d a b q k s
  | .vcvin d a b q k => Sys2Proof.Machine.execVcvin d a b q k s
  | .vcvenc d a q k => Sys2Proof.Machine.execVcvenc d a q k s
  | .mxgang d a => Sys2Proof.Machine.execMxgang d a s
  | .mxleave d => Sys2Proof.Machine.execMxleave d s
  | .mxgo d a => Sys2Proof.Machine.execMxgo d a s
  | .mxres a => Sys2Proof.Machine.execMxres a s
  | .mxmov d a b l => Sys2Proof.Machine.execMxmov d a b l s
  | .mxdrain d a => Sys2Proof.Machine.execMxdrain d a s
  | .mxzero d => Sys2Proof.Machine.execMxzero d s
  | .pwreq d => Sys2Proof.Machine.execPwreq d s
  | .bkload d a b => Sys2Proof.Machine.execBkload d a b s
  | .bkpush d a => Sys2Proof.Machine.execBkpush d a s
  | .bkpop d => Sys2Proof.Machine.execBkpop d s
  | .bkstat d a b l => Sys2Proof.Machine.execBkstat d a b l s
  | .bnop => Sys2Proof.Machine.execBnop s
  | .bset d z imm => Sys2Proof.Machine.execBset d z imm s
  | .badd d a imm => Sys2Proof.Machine.execBadd d a imm s
  | .blda b a l o => Sys2Proof.Machine.execBlda b a l o s
  | .bldaP b l o => Sys2Proof.Machine.execBldaP b l o s
  | .brow m a n k r => Sys2Proof.Machine.execBrow m a n k r s
  | .bscl m a n r => Sys2Proof.Machine.execBscl m a n r s
  | .bwr m a n r => Sys2Proof.Machine.execBwr m a n r s
  | .bloop c z => Sys2Proof.Machine.execBloop c z s
  | .bend => Sys2Proof.Machine.execBend s
  | .bsync a b => Sys2Proof.Machine.execBsync a b s
  | .bwait m c => Sys2Proof.Machine.execBwait m c s
  | .bfmt a b c r z m n => Sys2Proof.Machine.execBfmt a b c r z m n s
  | .bzero r n => Sys2Proof.Machine.execBzero r n s
  | .bcopy d a b => Sys2Proof.Machine.execBcopy d a b s
  | .bhalt => Sys2Proof.Machine.execBhalt s
  | .btrap c => Sys2Proof.Machine.execBtrap c s
  | .launchPortWrite base q off data tlps => Sys2Proof.Machine.execLaunchPortWrite base q off data tlps s
  | .launchRecord msg => Sys2Proof.Machine.execLaunchRecord msg s
  | .launchSelect base => Sys2Proof.Machine.execLaunchSelect base s
  | .coresidentStart base q => Sys2Proof.Machine.execCoresidentStart base q s
  | .threadStartEmit base => Sys2Proof.Machine.execThreadStartEmit base s
  | .threadStartMessage msg => Sys2Proof.Machine.execThreadStartMessage msg s
  | .returnedThreadStart msg => Sys2Proof.Machine.execReturnedThreadStart msg s
  | .reemitTimeout msg => Sys2Proof.Machine.execReemitTimeout msg s
  | .heldMessageRetry msg => Sys2Proof.Machine.execHeldMessageRetry msg s
  | .spawnMessage msg => Sys2Proof.Machine.execSpawnMessage msg s
  | .inboundMessageStart core => Sys2Proof.Machine.execInboundMessageStart core s
  | .resultLands core ctx seq reply => Sys2Proof.Machine.execResultLands core ctx seq reply s
  | .trapEntry core ctx => Sys2Proof.Machine.execTrapEntry core ctx s
  | .watchdogExpiry core ctx => Sys2Proof.Machine.execWatchdogExpiry core ctx s
  | .storeWriteAtHome core id => Sys2Proof.Machine.execStoreWriteAtHome core id s
  | .storeAck core id => Sys2Proof.Machine.execStoreAck core id s
  | .bartTimeout core ctx => Sys2Proof.Machine.execBartTimeout core ctx s
  | .hbarTimeout core ctx => Sys2Proof.Machine.execHbarTimeout core ctx s
  | .wireRelease base wire idx => Sys2Proof.Machine.execWireRelease base wire idx s
  | .tlbWalk core miss found => Sys2Proof.Machine.execTlbWalk core miss found s
  | .heldPageRequestWrite => Sys2Proof.Machine.execHeldPageRequestWrite s
  | .pageRequestAnswer value => Sys2Proof.Machine.execPageRequestAnswer value s
  | .copyCommandStart core chan => Sys2Proof.Machine.execCopyCommandStart core chan s
  | .watermarkAdvance core chan units => Sys2Proof.Machine.execWatermarkAdvance core chan units s
  | .copyCompletion core chan => Sys2Proof.Machine.execCopyCompletion core chan s
  | .channelAutoUnbind core chan => Sys2Proof.Machine.execChannelAutoUnbind core chan s
  | .bankCommandStart ch => Sys2Proof.Machine.execBankCommandStart ch s
  | .bkloadRun ch => Sys2Proof.Machine.execBkloadRun ch s
  | .bkstatSample core ctx seq => Sys2Proof.Machine.execBkstatSample core ctx seq s
  | .bldaComplete ch id => Sys2Proof.Machine.execBldaComplete ch id s
  | .bcopyComplete ch id => Sys2Proof.Machine.execBcopyComplete ch id s
  | .bankRecordPost ch => Sys2Proof.Machine.execBankRecordPost ch s
  | .engineWatchdog ch => Sys2Proof.Machine.execEngineWatchdog ch s
  | .gangStart core => Sys2Proof.Machine.execGangStart core s
  | .kGroupCommit core => Sys2Proof.Machine.execKGroupCommit core s
  | .powerGrant chiplet => Sys2Proof.Machine.execPowerGrant chiplet s
  | .sliceAwake core => Sys2Proof.Machine.execSliceAwake core s
  | .sliceGate core => Sys2Proof.Machine.execSliceGate core s
  | .grantRevoke chiplet => Sys2Proof.Machine.execGrantRevoke chiplet s
  | .currentSample amps => Sys2Proof.Machine.execCurrentSample amps s
  | .thermalThrottle celsius => Sys2Proof.Machine.execThermalThrottle celsius s
  | .thermalTrip celsius => Sys2Proof.Machine.execThermalTrip celsius s
  | .routeStep pkt => Sys2Proof.Machine.execRouteStep pkt s
  | .routerPowerDown core => Sys2Proof.Machine.execRouterPowerDown core s
  | .routerWake core => Sys2Proof.Machine.execRouterWake core s
  | .linkFlitRetry word hbm => Sys2Proof.Machine.execLinkFlitRetry word hbm s
  | .etgusFlitReceive port flit => Sys2Proof.Machine.execEtgusFlitReceive port flit s
  | .etgusRetryRequest port ack => Sys2Proof.Machine.execEtgusRetryRequest port ack s
  | .etgusRetrain port => Sys2Proof.Machine.execEtgusRetrain port s
  | .podWindowRequest kind va size aop data cmp => Sys2Proof.Machine.execPodWindowRequest kind va size aop data cmp s
  | .hostLinkDown => Sys2Proof.Machine.execHostLinkDown s
  | .bar4Read off size => Sys2Proof.Machine.execBar4Read off size s
  | .bar4Write off data => Sys2Proof.Machine.execBar4Write off data s
  | .launchCompletion lid => Sys2Proof.Machine.execLaunchCompletion lid s
  | .lcmdPreempt base lid => Sys2Proof.Machine.execLcmdPreempt base lid s
  | .lcmdResume base lid => Sys2Proof.Machine.execLcmdResume base lid s
  | .lcmdTerminate base lid => Sys2Proof.Machine.execLcmdTerminate base lid s
  | .preemptHaltComplete lid => Sys2Proof.Machine.execPreemptHaltComplete lid s
  | .saveRegionWrite lid => Sys2Proof.Machine.execSaveRegionWrite lid s
  | .resumeRestore lid => Sys2Proof.Machine.execResumeRestore lid s
  | .gangResume lid => Sys2Proof.Machine.execGangResume lid s
  | .resumedDistribution lid => Sys2Proof.Machine.execResumedDistribution lid s
  | .qctlWrite base q value => Sys2Proof.Machine.execQctlWrite base q value s
  | .qcntClear base q value => Sys2Proof.Machine.execQcntClear base q value s
  | .corePark base imm => Sys2Proof.Machine.execCorePark base imm s
  | .coreUnpark base imm => Sys2Proof.Machine.execCoreUnpark base imm s
  | .excuseWrite base imm on => Sys2Proof.Machine.execExcuseWrite base imm on s
  | .parkrefClear base value => Sys2Proof.Machine.execParkrefClear base value s
  | .debugContinue base value => Sys2Proof.Machine.execDebugContinue base value s
  | .dbgignClear base value => Sys2Proof.Machine.execDbgignClear base value s
  | .layctlWrite value => Sys2Proof.Machine.execLayctlWrite value s
  | .keyLoad value => Sys2Proof.Machine.execKeyLoad value s
  | .keyLoadComplete => Sys2Proof.Machine.execKeyLoadComplete s
  | .versionBump id => Sys2Proof.Machine.execVersionBump id s
  | .versionBumpComplete => Sys2Proof.Machine.execVersionBumpComplete s
  | .gcapWrite value => Sys2Proof.Machine.execGcapWrite value s
  | .ttdataWrite value => Sys2Proof.Machine.execTtdataWrite value s
  | .bar0RegisterWrite off value => Sys2Proof.Machine.execBar0RegisterWrite off value s
  | .attestationQuote nonce => Sys2Proof.Machine.execAttestationQuote nonce s
  | .firmwareImageWrite image => Sys2Proof.Machine.execFirmwareImageWrite image s
  | .firmwareUpdate image interrupted => Sys2Proof.Machine.execFirmwareUpdate image interrupted s
  | .scrubBlock ch blk find => Sys2Proof.Machine.execScrubBlock ch blk find s
  | .reset boot => Sys2Proof.Machine.execReset boot s
  | .atomicAtHome core ctx seq reply => Sys2Proof.Machine.execAtomicAtHome core ctx seq reply s
  | .bankCommandPush msg => Sys2Proof.Machine.execBankCommandPush msg s
  | .etgusRetrainDone port ok => Sys2Proof.Machine.execEtgusRetrainDone port ok s
  | .dirtyLineWriteBack line evict => Sys2Proof.Machine.execDirtyLineWriteBack line evict s
  | .uncorrectableRegisterError core ctx reg => Sys2Proof.Machine.execUncorrectableRegisterError core ctx reg s

end Sys2Proof.Machine
end

