-- ==== Sys2Proof/Machine/Issue.lean ====
section
/-! DEFINITION. Before an instruction takes effect: which context issues (02 R30, 14 R196), the deferred writes that fall due, the traps
that come first, fetch and decode (11 R134, R139; 08 R97; 13 R184, R379); and the turns that come from outside the core. -/

namespace Sys2Proof.Machine

/-! ### Who issues (02 R30) -/

/-- The classes of the 15 slots. -/
def slotClasses : List Nat :=
  [0, 1, 0, 2, 0, 1, 0, 3, 0, 1, 0, 2, 0, 1, 0]

/-- Does an access of a context wait on an outstanding miss (08 R108)? -/
def State.awaits (s : State) (n i : Nat) : Bool :=
  (s.core n).misses.any fun m => m.waiters.any fun w => decide (w.ctx = i ∧ w.gen = (s.ctx n i).gen)

/-- May a context issue, as far as its own state says: it is ready, or stalled on an instruction that it tries again? One that waits for
its trap's entry or on a miss may not, nor one whose launch is stopped; an instruction that has issued completes first (24 R322). -/
def State.canIssue (s : State) (n i : Nat) : Bool :=
  let t := s.ctx n i
  decide (t.run = .ready ∨ t.run = .stalled) && t.trapPend.isNone && (!s.stopped t.lid || t.todo.isSome) && !s.awaits n i

/-- The contexts of a lane group that may issue and were not found stalled in this cycle. -/
def State.issuable (s : State) (n lg : Nat) (tried : List Nat) : List Nat :=
  ((List.range 16).map fun k => 16 * lg + k).filter fun i => s.canIssue n i && !tried.contains i

/-- The contexts of a class that a lane group chooses among: one that yielded is passed over (14 R196). -/
def State.choices (s : State) (n lg cls : Nat) (tried : List Nat) : List Nat :=
  (s.issuable n lg tried).filter fun i => decide ((s.ctx n i).cls.toNat = cls ∧ (s.ctx n i).yieldFor = none)

/-- Is a YIELD of a context over: has every other context of its class on its lane group that may issue done so since (14 R196)? -/
def State.yieldOver (s : State) (n i : Nat) (tried : List Nat) : Bool :=
  match (s.ctx n i).yieldFor with
  | none => false
  | some seen => (s.issuable n (groupOf i) tried).all fun p => decide (p = i) || seen.contains p ||
      decide ((s.ctx n p).cls ≠ (s.ctx n i).cls)

/-- The YIELDs of a lane group that are over pass their contexts over no more, whatever becomes ready later (14 R196). -/
def State.endYields (s : State) (n lg : Nat) (tried : List Nat) : State :=
  ((List.range 16).map fun k => 16 * lg + k).foldl (fun s i =>
    if s.yieldOver n i tried then s.setCtx n i { s.ctx n i with yieldFor := none } else s) s

/-- The first context after `last` in turn. -/
def nextAfter (last : Nat) (cs : List Nat) : Option Nat :=
  cs.foldl (fun (r : Option Nat) i => match r with
    | none => some i
    | some j => if (i + 16 - (last + 1) % 16) % 16 < (j + 16 - (last + 1) % 16) % 16 then some i else r) none

/-- Step through at most `k` slots to one whose class has a context: the slot and the context. -/
def State.pickFrom (s : State) (n lg : Nat) (tried : List Nat) (g : IssueSlot) (slot k : Nat) : Option (Nat × Nat) :=
  match k with
  | 0 => none
  | k + 1 =>
    let c := slotClasses.getD slot 0
    match nextAfter (g.last.getD c 15) (s.choices n lg c tried) with
    | some i => some (slot, i)
    | none => s.pickFrom n lg tried g ((slot + 1) % 15) k

/-- A lane group that has not issued. The spec gives the sequence no reset value: it starts at slot 0, and each class's turn at context 0
(DESIGN CHOICE, log 81). -/
def IssueSlot.reset : IssueSlot :=
  ⟨0, [15, 15, 15, 15], none⟩

/-- A lane group's slot state. -/
def Core.slotOf (c : Core) (lg : Nat) : IssueSlot :=
  mget IssueSlot.reset c.slots lg

/-- A context that yielded has seen a peer issue. -/
def Ctx.sawIssue (t : Ctx) (i : Nat) : Ctx :=
  { t with yieldFor := t.yieldFor.map fun seen => if seen.contains i then seen else seen ++ [i] }

/-- The slot and the context that a lane group turns to, past those found stalled in this cycle. -/
def State.pick (s : State) (n lg : Nat) (tried : List Nat) : Option (Nat × Nat) :=
  s.pickFrom n lg tried ((s.core n).slotOf lg) ((s.core n).slotOf lg).slot 15

/-- A context has issued in a slot: the lane group's sequence moves on, and the other contexts of its class that yielded have seen it. -/
def State.advance (s : State) (n slot i : Nat) : State :=
  let c := s.core n
  let g := c.slotOf (groupOf i)
  let cls := slotClasses.getD slot 0
  s.setCore n { c with
    slots := mput c.slots (groupOf i) ⟨(slot + 1) % 15, setNth g.last cls (i % 16), some s.clock.toNat⟩,
    ctxs := c.ctxs.map fun e => if e.1 = i then e else (e.1, e.2.sawIssue i) }

/-- May a lane group issue in this cycle: it has not issued yet (02 R30), and the higher lane groups of its core have not either, so that
the operations of one cycle stand in lane-group order (14 R206, 18 R259, 21 R282)? -/
def State.mayIssue (s : State) (n lg : Nat) : Bool :=
  (s.core n).slots.all fun e => decide (e.1 < lg ∨ e.2.cyc ≠ some s.clock.toNat)

/-! ### Before the instruction takes effect -/

/-- What fetching a word gives. -/
inductive Fetched where
  | word (w : BitVec 32)
  | fault (cause : Nat)
  | miss
  deriving DecidableEq, Repr

/-- The words of the 64 KiB instruction cache (01 R6). -/
def icacheWords : Nat := 16384

/-- Fetch the word at an address, from the instruction cache where it holds it (08 R97). Only a translated address can be fetched. A full cache
keeps what it holds until a turn drops a word: the spec gives it no replacement policy (DESIGN CHOICE, log 33). -/
def State.fetch (s : State) (n : Nat) (space : BitVec 12) (pc : Word) : Fetched × State :=
  if bits pc 59 5 ≠ 0 then (.fault 3, s)
  else match s.resolve n space pc 3 4 4 false with
    | .fault c => (.fault c, s)
    | .miss => (.miss, s)
    | .ok a => match mfind (s.core n).icache a.loc with
      | some w => (.word w, s.touchTlb n space pc)
      | none =>
        if isHost a.loc ∧ s.pkg.linkUp = false then (.fault 3, s)
        else
          let r := s.homeRead a a.loc 4
          if r.1.2 then (.fault 5, r.2)
          else
            let w := BitVec.ofNat 32 r.1.1
            let c := r.2.core n
            let s1 := if c.icache.length < icacheWords then r.2.setCore n { c with icache := mput c.icache a.loc w } else r.2
            (.word w, s1.touchTlb n space pc)

/-- Would the request of a context's fetch be lost on its way (15 R214)? -/
def State.fetchLost (s : State) (n i : Nat) : Bool :=
  let t := s.ctx n i
  decide (bits t.pc 59 5 = 0) && match s.resolve n t.space t.pc 3 4 4 false with
    | .ok a => (mfind (s.core n).icache a.loc).isNone && s.misrouted (coreNode n) (homeNode a.loc) 0
    | .fault _ | .miss => false

/-- The registers whose deferred write is due and has not landed (11 R134). -/
def Ctx.dueRegs (t : Ctx) : List RegName :=
  t.windows.filterMap fun w => if w.isDue && w.res.isNone then some (match w.dest with
    | .x n => .x n
    | .v n => .v n) else none

/-- How far an instruction gets before it takes effect. -/
inductive Began where
  | stop (s : State)
  | go (i : Instr) (s : State)
  deriving DecidableEq, Repr

/-- Decode the fetched word. -/
def State.decodeStep (s : State) (n i : Nat) (w : BitVec 32) : Began :=
  let s := { s with cur := { s.cur with core := n, ctx := i, word := w } }
  match decode w with
  | none => .stop s.illegal
  | some j => .go j s

/-- The context issues: due deferred writes are applied, and one that faulted traps in its place once every result has landed (11 R134,
R139; 13 R181, R183); then a store's trap that is due is taken (13 R379); then the word is fetched, which reads the pc (13 R184,
log 83). An instruction that has issued and has
stores left goes on with them (24 R322). -/
def State.begin (s : State) (n i : Nat) : Began :=
  let t := s.ctx n i
  match t.todo with
  | some q => s.decodeStep n i q.1
  | none =>
    let d := applyDue t [] t.dueFirst.windows
    let t1 := { d.1 with windows := d.2.1 }
    let s1 := s.setCtx n i t1
    match d.2.2 with
    | some f => .stop (s.trap n i ⟨f.cause, f.kind, f.val, t.pc, false, true, 0⟩)
    | none => match t1.poisonDue with
      | (q, e) :: r =>
        .stop ((s1.setCtx n i { t1 with poisonDue := r }).trap n i ⟨e.1, 1, e.2, t.pc, true, false, q⟩)
      | [] =>
        if t1.regErr.contains .pc then .stop (s1.trap n i ⟨5, 3, 0, t1.pc, false, false, 0⟩) else
        if s1.inMesh (.fetch n i) then .stop s1.stall
        else if s1.fetchLost n i then .stop (s1.inject (.fetch n i) 0 0).stall
        else
        let f := s1.fetch n t1.space t1.pc
        match f.1 with
        | .fault c => .stop (f.2.trap n i ⟨c, 3, t1.pc, t1.pc, false, false, 0⟩)
        | .miss => .stop (f.2.miss n i t1.pc 3)
        | .word w => f.2.decodeStep n i w

/-! ### Turns from outside -/

/-- The address, AOP and compare value of a group instruction or a WAIT (15 R212). -/
def Ctx.groupOp (t : Ctx) (j : Instr) : Option (Word × Nat × List (BitVec 256 × BitVec 4)) :=
  match j with
  | .join _ a _ => some (t.rx a, 0, [])
  | .leave _ a _ => some (t.rx a, 1, [])
  | .bar _ a => some (t.rx a, 2, [])
  | .bart _ a _ => some (t.rx a, 3, [])
  | .wait _ a b => some (t.rx a, 4, dataFlit (t.rx b) 0)
  | _ => none

/-- The request of the group instruction or WAIT that a context tries enters the mesh. -/
def State.injectGroup (s : State) (n i q : Nat) (txn : BitVec 16) : State :=
  let t := s.ctx n i
  if s.inMesh (.group n i q) || !s.canIssue n i || decide (t.seq ≠ q) then s
  else match (s.fetch n t.space t.pc).1 with
    | .word w => (match (decode w).bind t.groupOp with
      | some (va, aop, d) => (match s.resolveScratch n va 8 8 with
        | .ok a => s.sendOwn n (.group n i q) txn (groupRequest n a aop d)
        | .fault _ | .miss => s)
      | none => s)
    | .fault _ | .miss => s

/-- An access's request enters the mesh. -/
def State.injectTurn (s : State) (own : Own) (k : Nat) (txn : BitVec 16) : State :=
  match own with
  | .group n i q => s.injectGroup n i q txn
  | .window _ _ _ | .store _ _ _ | .fetch _ _ => s.inject own k txn

/-- A home's reply enters the mesh; a fetched word is in the instruction cache when it comes. -/
def State.replyTurn (s : State) (own : Own) (k : Nat) (txn : BitVec 16) : State :=
  match own with
  | .fetch n i =>
    let t := s.ctx n i
    if s.inMesh own || !s.canIssue n i || s.fetchLost n i then s
    else match s.resolve n t.space t.pc 3 4 4 false, s.fetch n t.space t.pc with
      | .ok a, (.word w, s1) => s1.sendBack n own txn a 5 (.val (w.setWidth 512))
      | .ok a, (.fault c, s1) => s1.sendBack n own txn a 8 (.fault c 3 t.pc)
      | _, _ => s
  | .window _ _ _ | .store _ _ _ | .group _ _ _ => s.reply own k txn

/-- Does an instruction read a register in error (13 R184)? MXRES reads the accumulator that mxprog names (22 R297). -/
def Ctx.badReads (t : Ctx) (j : Instr) : Bool :=
  (j.reads ++ match j with
    | .mxres _ => [.acc (t.mxprog.extractLsb' 44 2)]
    | _ => []).any fun r => t.regErr.contains r

/-- The pod agent's firmware gives it a translation (08 R88); a page entry that maps DRAM locks the layout counts (08 R100). -/
def State.agentEntry (s : State) (e : TlbEntry) : State :=
  if e.malformed then s
  else { s with pkg := { s.pkg with
    agentTlb := installTlb s.pkg.agentTlb e, layLock := s.pkg.layLock || decide (bits e.te1 58 2 < 2) } }

/-- The host stores to its own memory (04 R56, log 16). -/
def State.hostStore (s : State) (addr : Word) (data : List Byte) : State :=
  if addr.toNat + data.length ≤ 2 ^ 64 then
    { s.rawWrite (hostAt + addr.toNat) data.length (joinBytes data) with
      poison := clearPoison s.poison (hostAt + addr.toNat) data.length }
  else s

/-- A core's instruction cache loses a word (08 R97). -/
def State.icacheDrop (s : State) (n loc : Nat) : State :=
  s.setCore n { s.core n with icache := mdel (s.core n).icache loc }

/-- Another package answers a copy engine or load pipe (08 R88). -/
def State.podReply (s : State) (r : Reply) : State :=
  { s with pkg := { s.pkg with podReplies := s.pkg.podReplies ++ [r] } }

/-- Once the package has tripped on heat, its state is lost for every turn but a reset (28 R372). -/
def State.turnStops (s : State) (reset : Bool) : Bool :=
  s.pkg.tripped && !reset

end Sys2Proof.Machine
end

