-- ==== Sys2Proof/Machine/Turn.lean ====
section
/-! DEFINITION. One turn of the machine: what the tape says moves next, or, with an empty tape, what the model's own schedule chooses
(log 1). -/

namespace Sys2Proof.Machine

/-- Is a row a step of the device rather than an instruction word? -/
def isEvent (i : Instr) : Bool :=
  (encode i).isNone

/-- Is a turn a reset? -/
def Turn.isReset (t : Turn) : Bool :=
  match t with
  | .event (.reset _) => true
  | _ => false

/-- Is an outcome the illegal-instruction trap of a state? -/
def isIllegal (o : Out) (s : State) : Bool :=
  match o with
  | .next t => decide (t = s.illegal)
  | _ => false

/-! ### Past a result that is due and has not landed (11 R134) -/

/-- The state with what of a later one a faulted result can still undo: registers, predicates, the prefix, windows, fences and queued
stores of one context, the misses it waits on, the recency of its core's TLB entries, and a trap that waits to be entered. -/
def State.carry (s t : State) (n i : Nat) : State :=
  let d := t.core n
  let u := t.ctx n i
  s.setCore n ({ s.core n with storeQ := d.storeQ, nextStore := d.nextStore, tlb := d.tlb, misses := d.misses }.setCtx i { s.ctx n i with
    run := u.run, pc := u.pc, x := u.x, v := u.v, k := u.k, regErr := u.regErr, latch := u.latch, latchOn := u.latchOn,
    windows := u.windows, fences := u.fences, seq := u.seq, trapPend := u.trapPend, stallAt := u.stallAt, stallCnt := u.stallCnt,
    yieldFor := u.yieldFor, todo := u.todo })

/-- May an instruction go on past a due result that may still fault: does it change nothing else? -/
def State.passes (s t : State) (n i : Nat) : Bool :=
  decide ((t.ctx n i).run = .ready ∨ (t.ctx n i).run = .stalled) && decide (t = s.carry t n i)

/-- What the thread held before its instruction is kept, unless what was kept last was due too. -/
def State.snap (s : State) (t : Ctx) (n i : Nat) : State :=
  if (t.windows.filter fun w => w.isDue && w.res.isNone).all fun w => match t.past.getLast? with
      | some p => p.due.any fun q => decide (q.seq = w.seq)
      | none => false then s
  else s.setCtx n i { s.ctx n i with
    past := (s.ctx n i).past ++ [⟨t.pc, t.x, t.v, t.k, t.regErr, t.latch, t.latchOn, t.windows, t.seq⟩] }

/-- A decoded instruction of context i takes effect, its illegal-instruction checks first (11 R131, 13 R181). It waits for a due register
that it touches (11 R134); one that reads a register in error traps (13 R184). One that touches none goes on past a due result, where its
effects can be undone should the result fault: the others wait (log 87). -/
def State.perform (s : State) (n i : Nat) (j : Instr) : Out :=
  let t := s.ctx n i
  let o := exec j s
  if isIllegal o s || t.todo.isSome then o
  else if j.touches.any fun r => t.dueRegs.contains r then .next s.stall
  else if t.badReads j then .next (s.trap n i ⟨5, 0, 0, t.pc, false, false, 0⟩)
  else if t.dueRegs = [] then o
  else match o with
    | .next u => .next (if s.passes u n i then u.snap t n i else s.stall)
    | o => o

/-- A context tries its next instruction: it takes effect, or what comes before it stops it. -/
def State.attempt (s : State) (n i : Nat) : Out :=
  match s.begin n i with
  | .stop s1 => .next s1
  | .go j s1 => s1.perform n i j

/-- A lane group issues (02 R30): it turns to its contexts in the order of its sequence; one whose instruction cannot issue is stalled and
takes no slot, and the sequence moves on with the first that issues. At most `k` contexts are tried. -/
def State.issueFrom (s : State) (n lg : Nat) (tried : List Nat) (k : Nat) : Out :=
  match k with
  | 0 => .next s
  | k + 1 => match (s.endYields n lg tried).pick n lg tried with
    | none => .next (s.endYields n lg tried)
    | some (slot, i) => match (s.endYields n lg tried).attempt n i with
      | .next t =>
        if (t.ctx n i).run = .stalled then t.issueFrom n lg (i :: tried) k else .next (t.advance n slot i)
      | o => o

/-- A lane group's turn to issue, once in a cycle. -/
def State.issue (s : State) (n lg : Nat) : Out :=
  if s.mayIssue n lg then s.issueFrom n lg [] 16 else .next s

/-- The same with accesses of others that fall between the words of its CQ instruction (20 R277). -/
def State.issueMixed (s : State) (n lg : Nat) (acts : List (Nat × Between)) : Out :=
  match ({ s with cur := { s.cur with mixed := acts, unit := 0 } } : State).issue n lg with
  | .next t => .next { t with cur := { t.cur with mixed := [], unit := 0 } }
  | o => o

/-- One turn. -/
def State.turn (s : State) (t : Turn) : Out :=
  if s.turnStops t.isReset then .fault .stateLost
  else match t with
  | .issue n lg => s.issue n lg
  | .issueMixed n lg acts => s.issueMixed n lg acts
  | .leave n id => .next (s.leave n id)
  | .engine ch => s.engineTurn ch
  | .xfer ch id k => .next (s.xferTurn ch id k)
  | .event i => if isEvent i then exec i s else .next s
  | .cycles n => .next (s.startAll.cycles n)
  | .inbox n => execInboundMessageStart n s
  | .icacheDrop n loc => .next (s.icacheDrop n loc)
  | .agentEntry a b => .next (s.agentEntry ⟨a, b⟩)
  | .hostStore a d => .next (s.hostStore a d)
  | .element n i q k r => .next (s.performEl n i q k r)
  | .podReply r => .next (s.podReply r)
  | .podWake n i v => .next (s.podWake n i v)
  | .podPoison n id => .next (s.podPoison n id)
  | .podFault n id => .next (s.podFault n id)
  | .podFail n i => .next (s.podFail n i)
  | .dataError loc => .next (s.dataError loc)
  | .inject own k txn => .next (s.injectTurn own k txn)
  | .reply own k txn => .next (s.replyTurn own k txn)
  | .message src dst kind txn attr addr data => .next (s.message src dst kind txn attr addr data)
  | .podRetry id => .next (s.podRetry id)
  | .podRelay id r => .next (s.podRelay id r)
  | .bumpDie die => .next (s.bumpDie die)
  | .etgusSend p ss => .next (s.etgusSend p ss)
  | .etgusTake p n => .next (s.etgusTake p n)

/-! ### The model's own schedule (log 1) -/

/-- The steps that a context may have pending. -/
def autoCtx (n i : Nat) (t : Ctx) : List (State → Out) :=
  (t.windows.flatMap fun w => [execAtomicAtHome n i w.seq .none, execBkstatSample n i w.seq, execResultLands n i w.seq .none,
    fun s => .next (s.injectLost n i w)]) ++
  [execTrapEntry n i, execBartTimeout n i, execHbarTimeout n i, execWatchdogExpiry n i]

/-- The steps that a core may have pending. -/
def autoCore (n : Nat) (c : Core) : List (State → Out) :=
  (c.ctxs.flatMap fun e => autoCtx n e.1 e.2) ++
  (c.storeQ.flatMap fun e => [execStoreWriteAtHome n e.id, execStoreAck n e.id, fun s => .next (s.injectStore n e)]) ++
  ((List.range 16).flatMap fun k => [execCopyCommandStart n k, execWatermarkAdvance n k 1, execCopyCompletion n k, execChannelAutoUnbind n k]) ++
  [execGangStart n, execSliceGate n, execSliceAwake n, execKGroupCommit n, execRouterWake n]

/-- The steps that a bank engine may have pending. -/
def autoEngine (ch : Nat) (e : Engine) : List (State → Out) :=
  [execBankCommandStart ch, execBkloadRun ch, execBankRecordPost ch, execEngineWatchdog ch, fun s => s.engineTurn ch] ++
  (e.xfers.flatMap fun x => match x with
    | .lda id _ _ _ _ _ => [execBldaComplete ch id]
    | .copy id _ _ _ _ => [execBcopyComplete ch id])

/-- The steps that a launch may have pending. -/
def autoLaunch (l : Launch) : List (State → Out) :=
  [execPreemptHaltComplete l.lid, execSaveRegionWrite l.lid, execResumeRestore l.lid, execGangResume l.lid, execResumedDistribution l.lid,
   execLaunchCompletion l.lid]

/-- The steps that the package may have pending, in the order they are tried. -/
def State.autoSteps (s : State) : List (State → Out) :=
  ((List.range s.packets.length).map fun k => execRouteStep k) ++
  (s.cores.flatMap fun c => autoCore c.1 c.2) ++
  (s.engines.flatMap fun e => autoEngine e.1 e.2) ++
  ((List.range s.bankCmds.length).map fun k => execBankCommandPush k) ++
  ((List.range 8).flatMap fun k => [execPowerGrant k, execGrantRevoke k]) ++
  [execHeldPageRequestWrite, execKeyLoadComplete, execVersionBumpComplete] ++
  (s.pkg.podHeld.map fun q => fun s => .next (s.podRetry q.id)) ++
  (s.pkg.wireDue.map fun e => execWireRelease e.1 e.2.1 e.2.2.1) ++
  ((List.range s.starts.length).flatMap fun k =>
    [execThreadStartMessage k, execReturnedThreadStart k, execReemitTimeout k, execHeldMessageRetry k]) ++
  ((List.range s.outs.length).flatMap fun k => [execLaunchRecord k, execSpawnMessage k]) ++
  (s.launches.flatMap autoLaunch) ++
  ((List.range 2).flatMap fun b => [execLaunchSelect b, execThreadStartEmit b] ++ (List.range 12).map fun q => execCoresidentStart b q)

/-- The first step that changes the state. -/
def firstChange (s : State) (fs : List (State → Out)) : Option State :=
  match fs with
  | [] => none
  | f :: r => match f s with
    | .next s1 => if s1 = s then firstChange s r else some s1
    | _ => firstChange s r

/-- A round: each lane group with a context that may issue does so once, and a cycle passes, before whose end the cores start their queued
messages (21 R282). -/
def State.round (s : State) : List Turn :=
  (s.cores.flatMap fun c => ((List.range 4).filter fun g =>
    c.2.ctxs.any fun t => decide (groupOf t.1 = g) && s.canIssue c.1 t.1).map fun g => Turn.issue c.1 g) ++
  [.cycles 1]

/-- With an empty tape the first pending step happens; with none pending the next round is written on the tape. -/
def State.auto (s : State) : Out :=
  if s.turnStops false then .fault .stateLost
  else match firstChange s s.autoSteps with
    | some s1 => .next s1
    | none => .next { s with tape := s.round }

/-- One step. -/
def State.move (s : State) : Out :=
  match s.tape with
  | [] => s.auto
  | t :: r => { s with tape := r }.turn t

/-! ### Placing one instruction -/

/-- The address the placed instruction is fetched at. -/
def placeAt : Nat := 0x10000

/-- The TLB entry of its page: 64 KiB at address 0x10000, readable, writable and executable, TIER 0 and LAYOUT 0, key index 0. -/
def placeEntry : TlbEntry :=
  ⟨BitVec.ofNat 64 placeAt, BitVec.ofNat 64 (2 ^ 63 + 2 ^ 62 + 2 ^ 61 + 2 ^ 60 + 1)⟩

/-- Bytes in DRAM, nothing cached above them. -/
def State.placeBytes (s : State) (w : Nat) : State :=
  { s.rawWrite placeAt 4 w with
    poison := clearPoison s.poison placeAt 8, blk := mdel s.blk (placeAt / 256), lineMeta := mdel s.lineMeta (placeAt / 64),
    lines := mdel s.lines (placeAt / 64) }

/-- A Jihar word: context 0 of core 0 is ready at its address, the layout is one channel's, and the next turn is lane group 0's issue. -/
def State.placeWord (s : State) (w : Nat) : State :=
  let s1 := s.placeBytes w
  let t := s1.ctx 0 0
  let s2 := s1.setCtx 0 0 { t with
    run := .ready, pc := BitVec.ofNat 64 placeAt, space := 0, windows := [], trapPend := none, poisonDue := [], poisonHeld := [], regErr := [],
    yieldFor := none, todo := none }
  let c := s2.core 0
  { s2.setCore 0 { c with tlb := [placeEntry], icache := [], slots := [], misses := [] } with
    pkg := { s2.pkg with
      tripped := false, order := [0], iglim := 64, islim := 0, tt := []
      keys := mput s2.pkg.keys 0 (genKey s2.pkg.resets) },
    tape := [.issue 0 0] }

/-- A word of bank code: it stands first in engine 0's instruction store, a command of no thread runs there, and the next turn is the
engine's. -/
def State.placeBank (s : State) (w : Nat) : State :=
  let c : BankCmd := ⟨0, 0, 0, 0, 0, 0, 0, 0, 0, true, false, 0, [], 0, 0, 0, 0, [], 0, 0, 0, 0, false, 0, none, none⟩
  let e := s.eng 0
  { s.setEng 0 { e with istore := mset 0xF0000000 e.istore 0 (BitVec.ofNat 32 w), run := some ⟨c, 0, s.clock.toNat, 0, none, none⟩ } with
    pkg := { s.pkg with tripped := false }, tape := [.engine 0] }

/-- An instruction of the table placed where the next step runs it: a word that no Jihar instruction has is bank code. -/
def State.place1 (s : State) (nbits w : Nat) : State :=
  if nbits ≤ 32 ∧ w < 2 ^ 32 then
    if (decode (BitVec.ofNat 32 w)).isSome then s.placeWord w else s.placeBank w
  else s.placeWord (w % 2 ^ 32)

end Sys2Proof.Machine
end

