-- ==== Sys2Proof/Machine/Step.lean ====
section
/-! DEFINITION. The step, and an instruction placed where the next step runs it. -/

namespace Sys2Proof.Machine

/-- One step of the machine: the next turn of the tape, or the model's own schedule (log 1). -/
def step (s : State) : Host.Outcome State Fault Refusal :=
  s.move

/-- The state with one instruction of the table stored where the next step fetches it; for the machine this stands for a program's load
and the launch that starts its thread (log 24). -/
def State.withFetchWord (s : State) (nbits w : Nat) : State :=
  s.place1 nbits w

end Sys2Proof.Machine
end

