-- ==== Sys2Proof/Certificates/Slice0/Obligations.lean ====
section
/-! DEFINITION. The statements for the provers. Each holds for every state that meets its hypotheses, whether or not a run reaches it.
An instruction's statement says that `exec` answers a next state and what that state holds. -/

section
open Sys2Proof Sys2Proof.Machine

namespace Sys2Proof.Claims

/-- The instruction answers a next state, and that state has the property. -/
def Ends (i : Instr) (s : State) (P : State → Prop) : Prop :=
  ∃ t, exec i s = .next t ∧ P t

/-- The tables of cores and contexts name each core and each context once, in rising order. -/
def Tables (s : State) : Prop :=
  msorted s.cores = true ∧ ∀ e ∈ s.cores, msorted e.2.ctxs = true

/-- The form that every step keeps: memory canonical, cores and contexts in order. -/
def Canonical (s : State) : Prop :=
  Memory.wf s.mem = true ∧ Tables s

/-! ### Frames -/

/-- Every part of the state outside the cores is as before, every byte of memory among it. -/
def OnlyCores (s t : State) : Prop :=
  { t with cores := s.cores } = s ∧ ∀ a, mget 0 t.mem a = mget 0 s.mem a

/-- Only core n may have changed. -/
def OnlyCore (s t : State) (n : Nat) : Prop :=
  OnlyCores s t ∧ ∀ m, m ≠ n → t.core m = s.core m

/-- Of core n, only the contexts may have changed, and of those only context i. -/
def OnlyCtx (s t : State) (n i : Nat) : Prop :=
  OnlyCore s t n ∧ { t.core n with ctxs := [] } = { s.core n with ctxs := [] } ∧ ∀ j, j ≠ i → t.ctx n j = s.ctx n j

/-- Nothing but the executing context has changed: no other context, core, queue, engine, register of the package, and no byte of
memory. -/
def OnlyMe (s t : State) : Prop :=
  t.cur = s.cur ∧ OnlyCtx s t s.cur.core s.cur.ctx

/-- What issuing an instruction does to its context besides the instruction's own effect: the pc moves, the prefix is used up, the
lookahead windows count, the stall count restarts, a YIELD's effect ends (11 R134, 06 R77, 13 R182, 14 R196). -/
def issued (u : Ctx) (p : Word) : Ctx :=
  { u with pc := p, latchOn := false, run := .ready, stallAt := none, stallCnt := 0, yieldFor := none, todo := none,
           windows := u.windows.map tick }

/-- The executing context goes on at `p` with its x registers changed at most: every predicate, vector register, flag, CSR, queue and
saved register of it is as before. -/
def XFrame (s t : State) (p : Word) : Prop :=
  OnlyMe s t ∧ t.me = { issued s.me p with x := t.me.x, regErr := t.me.regErr }

/-- x[d] holds v, unless d is x0, whose writes are discarded; every other x register and everything else is as before. -/
def WroteX (s t : State) (d : BitVec 5) (v : Word) : Prop :=
  XFrame s t (s.me.pc + 4) ∧ ∀ r, t.me.rx r = if r = d ∧ r ≠ 0 then v else s.me.rx r

/-- The same for a value that a property describes. -/
def WroteXSuch (s t : State) (d : BitVec 5) (P : Word → Prop) : Prop :=
  ∃ v, WroteX s t d v ∧ P v

/-- v[d] holds v; everything else is as before. -/
def WroteV (s t : State) (d : BitVec 5) (v : Vec) : Prop :=
  OnlyMe s t ∧ t.me = { issued s.me (s.me.pc + 4) with v := t.me.v, regErr := t.me.regErr } ∧
    ∀ r, t.me.rv r = if r = d then v else s.me.rv r

/-- k[d] holds m, unless d is k0; everything else is as before. -/
def WroteK (s t : State) (d : BitVec 3) (m : Mask) : Prop :=
  OnlyMe s t ∧ t.me = { issued s.me (s.me.pc + 4) with k := t.me.k, regErr := t.me.regErr } ∧
    ∀ r, t.me.rk r = if r = d ∧ r ≠ 0 then m else s.me.rk r

/-- The executing instruction is long-latency and has issued (11 R134): a new window, last in issue order, holds its destination and
lanes, the lookahead count, and what it waits for or its result; no register has changed. -/
def opened (s : State) (d : Dest) (m : Mask) (l : BitVec 4) (p : Pend) (r : Option Res) : Ctx :=
  { issued s.me (s.me.pc + 4) with
    windows := s.me.windows.map tick ++ [⟨s.me.seq, s.myCore.nextStore, d, m, s.me.la l, false, p, r⟩],
    seq := s.me.seq + 1 }

/-- The same, and all else is as before. -/
def Opened (s t : State) (d : Dest) (m : Mask) (l : BitVec 4) (p : Pend) (r : Option Res) : Prop :=
  OnlyMe s t ∧ t.me = opened s d m l p r

end Sys2Proof.Claims

open Sys2Proof.Claims

/-! ### Decoding, the step and whole-machine rules -/

namespace Sys2Proof.Claims

/-- The rows that are bank code (11 R154). -/
def isBankCode (i : Instr) : Bool :=
  match i with
  | .bnop | .bset _ _ _ | .badd _ _ _ | .blda _ _ _ _ | .bldaP _ _ _ | .brow _ _ _ _ _ | .bscl _ _ _ _ | .bwr _ _ _ _ | .bloop _ _
  | .bend | .bsync _ _ | .bwait _ _ | .bfmt _ _ _ _ _ _ _ | .bzero _ _ | .bcopy _ _ _ | .bhalt | .btrap _ => true
  | _ => false

/-- The little-endian value of the four bytes of an instruction word. -/
def wordAt (s : State) (loc : Nat) : BitVec 32 :=
  mget 0 s.mem (loc + 3) ++ mget 0 s.mem (loc + 2) ++ mget 0 s.mem (loc + 1) ++ mget 0 s.mem loc

/-- A fetch finds DRAM alone: the page is executable and resolves to `a`, its request reaches its slice, whose set has room for the line,
and neither the instruction cache, the slice, a poison mark nor a stale key stands over it. -/
def FetchesDram (s : State) (n : Nat) (space : BitVec 12) (pc : Word) (a : Acc) : Prop :=
  bits pc 59 5 = 0 ∧ s.resolve n space pc 3 4 4 false = .ok a ∧ isDram a.loc = true ∧ a.loc % 4 = 0 ∧
  s.misrouted (coreNode n) (homeNode a.loc) 0 = false ∧ (s.sliceSet (a.loc / 64)).length < 16 ∧
  mfind (s.core n).icache a.loc = none ∧ mfind s.lines (a.loc / 64) = none ∧ mfind s.blk (a.loc / 256) = none ∧
  mfind s.lineMeta (a.loc / 64) = none ∧ ∀ k, k < 8 → mget false s.poison (a.loc / 64 * 8 + k) = false

end Sys2Proof.Claims

/-- Words that the spec writes out beside their assembly (chapters 12, 17, 20) decode to the instructions they stand for; words it calls
illegal decode to none. -/
def Obligations.DecodesSpecWords : Prop :=
  decode 0x00611010 = some (.add 3 1 2) ∧ decode 0x00A63942 = some (.div 5 6 7 2) ∧ decode 0x1CE60006 = some (.shiSll 7 6 6) ∧
  decode 0x60A60023 = some (.ld64 5 6 2 3) ∧ decode 0x6D2AFFF0 = some (.st32 9 10 0xFFF) ∧
  decode 0x848740C0 = some (.at64Add 4 7 8 1 4 0) ∧ decode 0x88001820 = some (.fenceRel 3) ∧
  decode 0x886B2860 = some (.lda64 3 11 5 0) ∧ decode 0x890B6090 = some (.scope 8 11 12) ∧ decode 0x982B00D0 = some (.klen 1 11 0) ∧
  decode 0xB8690010 = some (.qarr 3 9) ∧ decode 0xBC442850 = some (.vvis 1 4 5) ∧ decode 0xBCC21810 = some (.cqmrg 6 2 3) ∧
  decode 0x00611000 = none ∧ decode 0x006111B0 = none ∧ decode 0x88000000 = none ∧ decode 0x00611011 = none

/-- Every well-formed instruction that has a word decodes from it with every operand as it was (11 R125, R126; 26 R337, R338). -/
def Obligations.DecodeAfterEncode : Prop :=
  ∀ (i : Instr) (w : BitVec 32), i.wf = true → encode i = some w → if isBankCode i then decodeBank w = some i else decode w = some i

/-- A word that decodes is the word of its instruction, which is well formed: no bit of a legal word is without meaning, so a word with a
nonzero reserved field is refused (11 R130; for bank code 26 R337, R338). -/
def Obligations.EncodeAfterDecode : Prop :=
  ∀ (w : BitVec 32) (i : Instr),
    (decode w = some i → i.wf = true ∧ encode i = some w ∧ isBankCode i = false) ∧
    (decodeBank w = some i → i.wf = true ∧ encode i = some w ∧ isBankCode i = true)

/-- The instructions that take a format (17 R224 and the tables of 17, 20, 22 and 26): vector arithmetic, comparison, permutation, reduction
and conversion, MXGO, MXDRAIN and BKPUSH; no QS or CQ instruction does (20 R271). -/
def Sys2Proof.Claims.takesFormat (i : Instr) : Bool :=
  match i with
  | .vgather _ _ _ _ _ _ | .vscatter _ _ _ _ _ | .vlds _ _ _ _ _ _ | .vsts _ _ _ _ _ | .vadd _ _ _ _ _ | .vsub _ _ _ _ _
  | .vmul _ _ _ _ _ | .vmulh _ _ _ _ _ | .vadds _ _ _ _ _ | .vsubs _ _ _ _ _ | .vand _ _ _ _ _ | .vor _ _ _ _ _ | .vxor _ _ _ _ _
  | .vsll _ _ _ _ _ | .vsrl _ _ _ _ _ | .vsra _ _ _ _ _ | .vmin _ _ _ _ _ | .vmax _ _ _ _ _ | .vminu _ _ _ _ _ | .vmaxu _ _ _ _ _
  | .vsel _ _ _ _ _ | .vcmpEq _ _ _ _ _ | .vcmpNe _ _ _ _ _ | .vcmpLt _ _ _ _ _ | .vcmpLe _ _ _ _ _ | .vcmpLtu _ _ _ _ _
  | .vcmpLeu _ _ _ _ _ | .vfadd _ _ _ _ _ | .vfsub _ _ _ _ _ | .vfmul _ _ _ _ _ | .vfma _ _ _ _ _ | .vfms _ _ _ _ _
  | .vfdiv _ _ _ _ _ | .vfsqrt _ _ _ _ | .vfmin _ _ _ _ _ | .vfmax _ _ _ _ _ | .vfabs _ _ _ _ | .vfneg _ _ _ _ | .vfcmpEq _ _ _ _ _
  | .vfcmpNe _ _ _ _ _ | .vfcmpLt _ _ _ _ _ | .vfcmpLe _ _ _ _ _ | .vfcmpUn _ _ _ _ _ | .vperm _ _ _ _ _ | .vbcast _ _ _ _
  | .vextr _ _ _ _ | .vinsr _ _ _ _ | .vsort _ _ _ _ | .vcompr _ _ _ _ | .vdot4 _ _ _ _ _ | .vfdot _ _ _ _ _ | .vredAdd _ _ _ _
  | .vredMin _ _ _ _ | .vredMax _ _ _ _ | .vredMinu _ _ _ _ | .vredMaxu _ _ _ _ | .vredAnd _ _ _ _ | .vredOr _ _ _ _
  | .vredXor _ _ _ _ | .vredFadd _ _ _ _ | .vredFmin _ _ _ _ | .vredFmax _ _ _ _ | .vscanAdd _ _ _ _ | .vscanMin _ _ _ _
  | .vscanMax _ _ _ _ | .vscanFadd _ _ _ _ | .vcvt _ _ _ _ | .vpack _ _ _ _ | .vunpk _ _ _ _ | .mxgo _ _
  | .mxdrain _ _ | .bkpush _ _ => true
  | _ => false

/-- 11 R131: a word that decodes to nothing takes the illegal-instruction trap, CAUSE 1, with the word in etval, before any operand is
read; every instruction that takes no format does the same under a pending prefix (06 R76). An instruction that takes this trap does so whatever
registers are due or in error. -/
def Sys2Proof.Claims.IllegalWordsTrap : Prop :=
  ∀ (s : State) (n i : Nat) (w : BitVec 32),
    let u := { s with cur := { s.cur with core := n, ctx := i, word := w } }
    (decode w = none → s.decodeStep n i w = .stop (u.trapMe 1 0 (w.setWidth 64))) ∧
    (∀ j w', s.me.latchOn = true → encode j = some w' → isBankCode j = false → takesFormat j = false →
      exec j s = .next (s.trapMe 1 0 (s.cur.word.setWidth 64))) ∧
    (∀ j, exec j s = .next (s.trapMe 1 0 (s.cur.word.setWidth 64)) → s.perform n i j = exec j s)

/-- The step runs what the next turn of the tape names. Where that is an issue and the context whose turn it is has no deferred write or
store's trap due, no fetch in the mesh and no instruction half done, the word in DRAM at its pc decodes to `j`, and no register that `j` reads, nor the pc, is in error: the step is `exec j` with that
core, context and word as the executing ones, in the state the fetch leaves, and the lane group's sequence moves on; where `exec j` leaves
the context stalled, it has not issued, and the lane group turns to its next context (02 R30). Where it is an engine's turn: the step is `exec` of the
bank-code instruction at the engine's pc. Where it is an event: the step is `exec` of that event. -/
def Obligations.StepRunsDecoded : Prop :=
  ∀ (s : State) (r : List Turn), s.pkg.tripped = false →
    (∀ n lg slot i a j, s.tape = .issue n lg :: r →
      let s1 := ({ s with tape := r } : State).endYields n lg []
      let u := s1.setCtx n i (s1.ctx n i)
      s1.mayIssue n lg = true → s1.pick n lg [] = some (slot, i) →
      (∀ w ∈ (s1.ctx n i).windows, w.left ≠ 0 ∨ w.held = true) → (s1.ctx n i).poisonDue = [] →
      (s1.ctx n i).todo = none → RegName.pc ∉ (s1.ctx n i).regErr → u.inMesh (.fetch n i) = false →
      FetchesDram u n (s1.ctx n i).space (s1.ctx n i).pc a → decode (wordAt s1 a.loc) = some j →
      let f := (u.fetch n (s1.ctx n i).space (s1.ctx n i).pc).2
      let v := { f with cur := { f.cur with core := n, ctx := i, word := wordAt s1 a.loc } }
      (v.ctx n i).badReads j = false → ∀ t, exec j v = .next t →
      ((t.ctx n i).run ≠ .stalled → step s = .next (t.advance n slot i)) ∧
      ((t.ctx n i).run = .stalled → step s = t.issueFrom n lg [i] 15)) ∧
    (∀ ch e i, s.tape = .engine ch :: r → (s.eng ch).run = some e → e.ended = none → e.cmd.load = false → e.pc ≤ 1023 →
      decodeBank ((s.eng ch).word e.pc) = some i → step s = exec i { s with tape := r, cur := { s.cur with ch := ch } }) ∧
    (∀ i, s.tape = .event i :: r → encode i = none → step s = exec i { s with tape := r })

/-- 08 R91, R97, 00 R3: a fetch that the instruction cache does not serve gives the four bytes of DRAM at the resolved place, little-endian,
and a cache of 64 KiB with room then holds the word (01 R6); a word that the cache holds is given as it is, whatever memory holds. -/
def Sys2Proof.Claims.FetchReadsMemory : Prop :=
  ∀ (s : State) (n : Nat) (space : BitVec 12) (pc : Word) (a : Acc),
    (FetchesDram s n space pc a →
      (s.fetch n space pc).1 = .word (wordAt s a.loc) ∧
      ((s.core n).icache.length < 16384 → mfind ((s.fetch n space pc).2.core n).icache a.loc = some (wordAt s a.loc)) ∧ (s.fetch n space pc).2.mem = s.mem) ∧
    (∀ w, bits pc 59 5 = 0 → s.resolve n space pc 3 4 4 false = .ok a → mfind (s.core n).icache a.loc = some w →
      (s.fetch n space pc).1 = .word w) ∧
    (bits pc 59 5 ≠ 0 → s.fetch n space pc = (.fault 3, s))

/-- No instruction and no step of the table stops the machine: each answers a next state, a trap of the machine among them. A row for a
device step whose condition does not hold changes nothing, which is the model's choice (log 65). -/
def Sys2Proof.Claims.EveryInstructionAnswersAState : Prop :=
  ∀ (i : Instr) (s : State), ∃ t, exec i s = .next t

/-- 28 R372: the step answers a next state unless the package has tripped on heat, and then only a reset moves it. That the steps of a
tripped package end in a fault is the model's reading (log 66). -/
def Sys2Proof.Claims.StopsOnlyAfterThermalTrip : Prop :=
  ∀ s : State, (∃ t, step s = .next t) ↔ s.pkg.tripped = false ∨ ∃ b r, s.tape = .event (.reset b) :: r

/-- Every step keeps the canonical form: in memory addresses strictly rise and no byte is listed that an unlisted address reads as, and the
tables of cores and contexts name each once, in rising order. -/
def Obligations.StepKeepsCanonicalForm : Prop :=
  ∀ s t : State, Canonical s → step s = .next t → Canonical t

/-- What the spec says of the machine right after reset: the controllers' counter is 1 (02 R23), RIDLE 1,024 and WDLIM 2^26 (28 R361);
every word of an instruction store is BTRAP with code 0 (26 R326); the slices' elements and tags are 0 (22 R283); each TLB is empty (08 R106);
SCRUB is 86,400 (26 R352) and each grant cap 64 (28 R362); the clock is 0 and no thread exists. That an unwritten byte reads as 0 is the
model's choice (log 9). -/
def Obligations.ResetState : Prop :=
  let s := State.reset
  Canonical s ∧ (∀ a, mget 0 s.mem a = 0) ∧
  (∀ b, (mget Ctl.reset s.ctl b).counter = 1 ∧ (mget Ctl.reset s.ctl b).ridle = 1024 ∧ (mget Ctl.reset s.ctl b).wdlim = 2 ^ 26) ∧
  (∀ ch p, (s.eng ch).word p = 0xF0000000) ∧ (∀ n k, mget 0 (s.core n).mx.acc k = 0 ∧ (s.core n).mx.tags = 0) ∧
  (∀ n, (s.core n).tlb = []) ∧ s.pkg.scrub = 86400 ∧ (∀ k, k < 8 → s.pkg.gcap.toNat / 2 ^ (8 * k) % 2 ^ 8 = 64) ∧ s.clock = 0 ∧
  ∀ n i, (s.ctx n i).run = .idle

/-! ### Scalar arithmetic and control flow (chapter 12) -/

/-- 12 R156, the FNs other than the four divisions. No prefix is pending (R76). -/
def Sys2Proof.Claims.RegisterArithmetic : Prop :=
  ∀ (s : State) (d a b : BitVec 5), s.me.latchOn = false →
    let A := s.me.rx a
    let B := s.me.rx b
    let n := B.toNat % 64
    Ends (.add d a b) s (WroteXSuch s · d fun v => v.toNat = (A.toNat + B.toNat) % 2 ^ 64) ∧
    Ends (.sub d a b) s (WroteXSuch s · d fun v => v.toInt = (A.toInt - B.toInt).bmod (2 ^ 64)) ∧
    Ends (.and d a b) s (WroteXSuch s · d fun v => ∀ j, v.getLsbD j = (A.getLsbD j && B.getLsbD j)) ∧
    Ends (.or d a b) s (WroteXSuch s · d fun v => ∀ j, v.getLsbD j = (A.getLsbD j || B.getLsbD j)) ∧
    Ends (.xor d a b) s (WroteXSuch s · d fun v => ∀ j, v.getLsbD j = (A.getLsbD j ^^ B.getLsbD j)) ∧
    Ends (.andn d a b) s (WroteXSuch s · d fun v => ∀ j < 64, v.getLsbD j = (A.getLsbD j && !B.getLsbD j)) ∧
    Ends (.sll d a b) s (WroteXSuch s · d fun v => v.toNat = A.toNat * 2 ^ n % 2 ^ 64) ∧
    Ends (.srl d a b) s (WroteXSuch s · d fun v => v.toNat = A.toNat / 2 ^ n) ∧
    Ends (.sra d a b) s (WroteXSuch s · d fun v => v.toInt = A.toInt / 2 ^ n) ∧
    Ends (.ror d a b) s (WroteXSuch s · d fun v => ∀ j < 64, v.getLsbD j = A.getLsbD ((j + n) % 64)) ∧
    Ends (.slt d a b) s (WroteX s · d (if A.toInt < B.toInt then 1 else 0)) ∧
    Ends (.sltu d a b) s (WroteX s · d (if A.toNat < B.toNat then 1 else 0)) ∧
    Ends (.min d a b) s (WroteXSuch s · d fun v => v.toInt = min A.toInt B.toInt) ∧
    Ends (.max d a b) s (WroteXSuch s · d fun v => v.toInt = max A.toInt B.toInt) ∧
    Ends (.minu d a b) s (WroteXSuch s · d fun v => v.toNat = min A.toNat B.toNat) ∧
    Ends (.maxu d a b) s (WroteXSuch s · d fun v => v.toNat = max A.toNat B.toNat) ∧
    Ends (.mul d a b) s (WroteXSuch s · d fun v => v.toNat = A.toNat * B.toNat % 2 ^ 64) ∧
    Ends (.mulh d a b) s (WroteXSuch s · d fun v => v.toInt = A.toInt * B.toInt / 2 ^ 64) ∧
    Ends (.mulhu d a b) s (WroteXSuch s · d fun v => v.toNat = A.toNat * B.toNat / 2 ^ 64)

/-- 12 R156: CLZ, CTZ and POPC. -/
def Sys2Proof.Claims.BitCounts : Prop :=
  ∀ (s : State) (d a : BitVec 5), s.me.latchOn = false →
    let A := s.me.rx a
    Ends (.clz d a) s (WroteXSuch s · d fun v =>
      v.toNat ≤ 64 ∧ A.toNat < 2 ^ (64 - v.toNat) ∧ (v.toNat < 64 → 2 ^ (63 - v.toNat) ≤ A.toNat)) ∧
    Ends (.ctz d a) s (WroteXSuch s · d fun v =>
      v.toNat ≤ 64 ∧ (∀ j < v.toNat, A.getLsbD j = false) ∧ (v.toNat < 64 → A.getLsbD v.toNat = true)) ∧
    Ends (.popc d a) s (WroteXSuch s · d fun v => v.toNat = (List.range 64).countP fun j => A.getLsbD j)

/-- 12 R158, R159: the immediate forms. -/
def Obligations.ImmediateForms : Prop :=
  ∀ (s : State) (d a : BitVec 5) (i : BitVec 16) (h : BitVec 2) (n : BitVec 6), s.me.latchOn = false →
    let A := s.me.rx a
    Ends (.addi d a i) s (WroteXSuch s · d fun v => v.toInt = (A.toInt + i.toInt).bmod (2 ^ 64)) ∧
    Ends (.andi d a i) s (WroteXSuch s · d fun v => ∀ j, v.getLsbD j = (A.getLsbD j && i.getLsbD j)) ∧
    Ends (.ori d a i) s (WroteXSuch s · d fun v => ∀ j, v.getLsbD j = (A.getLsbD j || i.getLsbD j)) ∧
    Ends (.xori d a i) s (WroteXSuch s · d fun v => ∀ j, v.getLsbD j = (A.getLsbD j ^^ i.getLsbD j)) ∧
    Ends (.slti d a i) s (WroteX s · d (if A.toInt < i.toInt then 1 else 0)) ∧
    Ends (.sltiu d a i) s (WroteX s · d (if A.toNat < (i.signExtend 64).toNat then 1 else 0)) ∧
    Ends (.shiSll d a n) s (WroteXSuch s · d fun v => v.toNat = A.toNat * 2 ^ n.toNat % 2 ^ 64) ∧
    Ends (.shiSrl d a n) s (WroteXSuch s · d fun v => v.toNat = A.toNat / 2 ^ n.toNat) ∧
    Ends (.shiSra d a n) s (WroteXSuch s · d fun v => v.toInt = A.toInt / 2 ^ n.toNat) ∧
    Ends (.shiRor d a n) s (WroteXSuch s · d fun v => ∀ j < 64, v.getLsbD j = A.getLsbD ((j + n.toNat) % 64)) ∧
    Ends (.liw d h i) s (WroteXSuch s · d fun v => ∀ j < 64,
      v.getLsbD j = if j / 16 = h.toNat then i.getLsbD (j % 16) else (s.me.rx d).getLsbD j) ∧
    Ends (.lpc d i) s (WroteXSuch s · d fun v => v.toInt = (s.me.pc.toInt + i.toInt * 4).bmod (2 ^ 64))

/-- A division's result: b = 0 and the overflow as 12 R157 has them, else the quotient truncated toward zero or its remainder. -/
def Sys2Proof.Claims.quotient (a b v : Word) : Prop :=
  if b = 0 then v.toNat = 2 ^ 64 - 1 else if a.toInt = -2 ^ 63 ∧ b.toInt = -1 then v.toInt = -2 ^ 63 else v.toInt = a.toInt.tdiv b.toInt

def Sys2Proof.Claims.remainder (a b v : Word) : Prop :=
  if b = 0 then v.toNat = 2 ^ 64 - 1 else if a.toInt = -2 ^ 63 ∧ b.toInt = -1 then v.toInt = 0 else v.toInt = a.toInt.tmod b.toInt

def Sys2Proof.Claims.quotientU (a b v : Word) : Prop :=
  if b = 0 then v.toNat = 2 ^ 64 - 1 else v.toNat = a.toNat / b.toNat

def Sys2Proof.Claims.remainderU (a b v : Word) : Prop :=
  if b = 0 then v.toNat = 2 ^ 64 - 1 else v.toNat = a.toNat % b.toNat

/-- 12 R156, R157, 11 R134: a division opens its window with its result; closing the window writes it. -/
def Sys2Proof.Claims.Division : Prop :=
  ∀ (s : State) (d a b : BitVec 5) (l : BitVec 4), s.me.latchOn = false →
    let Divides := fun (i : Instr) (P : Word → Word → Word → Prop) => Ends i s fun t =>
      ∃ v : Word, P (s.me.rx a) (s.me.rx b) v ∧ Opened s t (.x d) 0xFFFF l .none (some (.val (v.setWidth 512))) ∧
        ∀ r, (t.me.deliver (.x d) 0xFFFF (v.setWidth 512)).rx r = if r = d ∧ r ≠ 0 then v else s.me.rx r
    Divides (.div d a b l) quotient ∧ Divides (.divu d a b l) quotientU ∧
    Divides (.rem d a b l) remainder ∧ Divides (.remu d a b l) remainderU

/-- 12 R160, with the encodings of its table: a branch changes nothing but the pc. -/
def Sys2Proof.Claims.ConditionalBranches : Prop :=
  ∀ (s : State) (a b : BitVec 5) (i : BitVec 16), s.me.latchOn = false →
    let A := s.me.rx a
    let B := s.me.rx b
    let Branch := fun (j : Instr) (op : BitVec 6) (taken : Prop) =>
      encode j = some (op ++ a ++ b ++ i) ∧ Ends j s fun t =>
        (∃ p : Word, XFrame s t p ∧ (taken → p.toInt = (s.me.pc.toInt + i.toInt * 4).bmod (2 ^ 64)) ∧ (¬taken → p = s.me.pc + 4)) ∧
        ∀ r, t.me.rx r = s.me.rx r
    Branch (.beq a b i) 0x0A (A = B) ∧ Branch (.bne a b i) 0x0B (A ≠ B) ∧
    Branch (.blt a b i) 0x0C (A.toInt < B.toInt) ∧ Branch (.bge a b i) 0x0D (B.toInt ≤ A.toInt) ∧
    Branch (.bltu a b i) 0x0E (A.toNat < B.toNat) ∧ Branch (.bgeu a b i) 0x0F (B.toNat ≤ A.toNat)

/-- 12 R161: the target of JALR is computed before x[D] is written; a misaligned one traps and writes nothing. -/
def Sys2Proof.Claims.JumpsAndLinks : Prop :=
  ∀ (s : State) (d a : BitVec 5) (i : BitVec 21) (o : BitVec 16), s.me.latchOn = false →
    encode (.jal d i) = some (0x10#6 ++ d ++ i) ∧ encode (.jalr d a o) = some (0x11#6 ++ d ++ a ++ o) ∧
    (Ends (.jal d i) s fun t => ∃ p : Word, p.toInt = (s.me.pc.toInt + i.toInt * 4).bmod (2 ^ 64) ∧ XFrame s t p ∧
      ∀ r, t.me.rx r = if r = d ∧ r ≠ 0 then s.me.pc + 4 else s.me.rx r) ∧
    (let p : Word := s.me.rx a + o.signExtend 64
     if p.toNat % 4 = 0 then Ends (.jalr d a o) s fun t => XFrame s t p ∧
       ∀ r, t.me.rx r = if r = d ∧ r ≠ 0 then s.me.pc + 4 else s.me.rx r
     else exec (.jalr d a o) s = .next (s.trapMe 2 0 p))

/-! ### Memory access (chapters 08, 12 and 17) -/

namespace Sys2Proof.Claims

/-- The checks of one access pass (08 R107): no earlier acquire waits, the address resolves to `acc`, and no watermark holds it back. -/
def Passes (s : State) (kind size : Nat) (va : Word) (hostOk : Bool) (acc : Acc) : Prop :=
  s.me.acquiring = false ∧ s.resolve s.cur.core s.me.space va kind size size hostOk = .ok acc ∧ s.belowMark acc.loc size = true

/-- The same for an access that only a scratch form may make (12 R176, 14 R197). -/
def PassesScratch (s : State) (size al : Nat) (va : Word) (acc : Acc) : Prop :=
  s.me.acquiring = false ∧ s.resolveScratch s.cur.core va size al = .ok acc ∧ s.belowMark acc.loc size = true

/-- Only core n may have changed, and of it only the contexts, the store queue and the order of the TLB entries, which is the order
after looking up `va` (08 R106); of the contexts only the executing one. -/
def Accessed (s t : State) (va : Word) : Prop :=
  let n := s.cur.core
  t.cur = s.cur ∧ OnlyCore s t n ∧ (t.core n).tlb = ((s.touchTlb n s.me.space va).core n).tlb ∧
  { t.core n with ctxs := [], tlb := [], storeQ := [], nextStore := 0 } =
    { s.core n with ctxs := [], tlb := [], storeQ := [], nextStore := 0 } ∧
  ∀ j, j ≠ s.cur.ctx → t.ctx n j = s.ctx n j

/-- A load has issued: its window waits for `p`; the store queue, every register and every byte of memory are as before. -/
def LoadIssued (s t : State) (va : Word) (d : Dest) (m : Mask) (l : BitVec 4) (p : Pend) : Prop :=
  Accessed s t va ∧ (t.core s.cur.core).storeQ = s.myCore.storeQ ∧ (t.core s.cur.core).nextStore = s.myCore.nextStore ∧
  t.me = opened s d m l p none

/-- The store-queue entry of a store of the executing thread, the k-th that this instruction appends. -/
def storeEntry (s : State) (k : Nat) (a : Acc) (data : Word) (rel : Option Nat) (unlock : Bool) : StoreEnt :=
  ⟨s.myCore.nextStore + k, groupOf s.cur.ctx, s.cur.ctx, s.me.seq + k, a, data, levelOf s.cur.core a.loc, rel, false, false, false, false,
    unlock⟩

/-- A store has retired: its entry is the last of the lane group's queue, its pending count has risen by one, the thread has gone on, and
every register and every byte of memory are as before (the home writes later, by STORE_WRITE_AT_HOME). -/
def StoreRetired (s t : State) (va : Word) (e : StoreEnt) : Prop :=
  Accessed s t va ∧ (t.core s.cur.core).storeQ = s.myCore.storeQ ++ [e] ∧ (t.core s.cur.core).nextStore = s.myCore.nextStore + 1 ∧
  t.me = { issued s.me (s.me.pc + 4) with seq := s.me.seq + 1 }

/-- The effective address of format M (12 R163): modulo 2^64. -/
def effAddr (s : State) (a : BitVec 5) (o : BitVec 12) (size : Nat) : Word :=
  BitVec.ofInt 64 ((s.me.rx a).toInt + o.toInt * size)

/-- k more stores stay within a level's count (04 R47). -/
def Room (s : State) (l k : Nat) : Prop :=
  s.pend s.cur.core s.cur.ctx l + k ≤ 4095

/-- One more store stays within its level's count. -/
def Counts (s : State) (a : Acc) : Prop :=
  Room s (levelOf s.cur.core a.loc) 1

end Sys2Proof.Claims

/-- 12 R163, R164: a scalar load that passes its checks opens its window on exactly its bytes. A failing check takes its trap at the
instruction, or sends the miss, with no window open (11 R135). -/
def Sys2Proof.Claims.ScalarLoads : Prop :=
  ∀ (s : State) (d a : BitVec 5) (o : BitVec 12) (l : BitVec 4), s.me.latchOn = false →
    let Loads := fun (i : Instr) (size : Nat) (sg : Bool) =>
      (∀ acc, Passes s 0 size (effAddr s a o size) false acc →
        Ends i s (LoadIssued s · (effAddr s a o size) (.x d) 0xFFFF l (.load acc sg none false))) ∧
      (∀ c, s.me.acquiring = false → s.resolve s.cur.core s.me.space (effAddr s a o size) 0 size size false = .fault c →
        exec i s = .next (s.trapMe c 0 (effAddr s a o size))) ∧
      (s.me.acquiring = false → s.resolve s.cur.core s.me.space (effAddr s a o size) 0 size size false = .miss →
        exec i s = .next (s.miss s.cur.core s.cur.ctx (effAddr s a o size) 0))
    Loads (.ld8u d a o l) 1 false ∧ Loads (.ld8s d a o l) 1 true ∧ Loads (.ld16u d a o l) 2 false ∧ Loads (.ld16s d a o l) 2 true ∧
    Loads (.ld32u d a o l) 4 false ∧ Loads (.ld32s d a o l) 4 true ∧ Loads (.ld64 d a o l) 8 false

/-- 12 R163, R164: a scalar store that passes its checks retires into the store queue with x[D]; one that fails stores nothing. -/
def Sys2Proof.Claims.ScalarStores : Prop :=
  ∀ (s : State) (d a : BitVec 5) (o : BitVec 12), s.me.latchOn = false →
    let Stores := fun (i : Instr) (size : Nat) =>
      (∀ acc, Passes s 1 size (effAddr s a o size) false acc → Counts s acc →
        Ends i s (StoreRetired s · (effAddr s a o size) (storeEntry s 0 acc (s.me.rx d) none false))) ∧
      (∀ c, s.me.acquiring = false → s.resolve s.cur.core s.me.space (effAddr s a o size) 1 size size false = .fault c →
        exec i s = .next (s.trapMe c 1 (effAddr s a o size)))
    Stores (.st8 d a o) 1 ∧ Stores (.st16 d a o) 2 ∧ Stores (.st32 d a o) 4 ∧ Stores (.st64 d a o) 8

/-- 12 R173: acquire loads and release stores carry their scope; the address is x[A]. -/
def Sys2Proof.Claims.AcquireLoadsReleaseStores : Prop :=
  ∀ (s : State) (d a : BitVec 5) (c : BitVec 3) (l : BitVec 4) (acc : Acc), s.me.latchOn = false →
    (Passes s 0 4 (s.me.rx a) false acc →
      Ends (.lda32 d a c l) s (LoadIssued s · (s.me.rx a) (.x d) 0xFFFF l (.load acc false (some c.toNat) false))) ∧
    (Passes s 0 8 (s.me.rx a) false acc →
      Ends (.lda64 d a c l) s (LoadIssued s · (s.me.rx a) (.x d) 0xFFFF l (.load acc false (some c.toNat) false))) ∧
    (Passes s 1 4 (s.me.rx a) false acc → Counts s acc →
      Ends (.stl32 d a c) s (StoreRetired s · (s.me.rx a) (storeEntry s 0 acc (s.me.rx d) (some c.toNat) false))) ∧
    (Passes s 1 8 (s.me.rx a) false acc → Counts s acc →
      Ends (.stl64 d a c) s (StoreRetired s · (s.me.rx a) (storeEntry s 0 acc (s.me.rx d) (some c.toNat) false)))

/-- 12 R166, R167: an atomic reads its operands at issue and opens its window; the home performs it later. -/
def Obligations.AtomicsIssue : Prop :=
  ∀ (s : State) (d a b : BitVec 5) (o : BitVec 1) (c : BitVec 3) (l : BitVec 4), s.me.latchOn = false →
    let Atomic := fun (i : Instr) (size : Nat) (op : BitVec 3) (hostOk : Bool) =>
      ∀ acc, Passes s 2 size (s.me.rx a) hostOk acc → Counts s acc →
        Ends i s (LoadIssued s · (s.me.rx a) (.x d) 0xFFFF l
          (.atomic acc op (s.me.rx b) (s.me.rx d) (if o = 1 then some c.toNat else none) none))
    Atomic (.at32Add d a b o c l) 4 0 true ∧ Atomic (.at32And d a b o c l) 4 1 false ∧ Atomic (.at32Or d a b o c l) 4 2 false ∧
    Atomic (.at32Xor d a b o c l) 4 3 false ∧ Atomic (.at32Max d a b o c l) 4 4 false ∧ Atomic (.at32Min d a b o c l) 4 5 false ∧
    Atomic (.at32Swap d a b o c l) 4 6 true ∧ Atomic (.at32Cas d a b o c l) 4 7 true ∧
    Atomic (.at64Add d a b o c l) 8 0 true ∧ Atomic (.at64And d a b o c l) 8 1 false ∧ Atomic (.at64Or d a b o c l) 8 2 false ∧
    Atomic (.at64Xor d a b o c l) 8 3 false ∧ Atomic (.at64Max d a b o c l) 8 4 false ∧ Atomic (.at64Min d a b o c l) 8 5 false ∧
    Atomic (.at64Swap d a b o c l) 8 6 true ∧ Atomic (.at64Cas d a b o c l) 8 7 true

namespace Sys2Proof.Claims

/-- What a fence does to the executing core's L1: an acquire at a scope above lane drops every line (04 R48). -/
def l1After (s t : State) (acq : Bool) (S : Nat) : Prop :=
  (t.core s.cur.core).l1 = if acq = true ∧ S ≠ 0 then [] else s.myCore.l1

/-- A fence has been passed: the L1 at most, and the context. -/
def Fenced (s t : State) (acq : Bool) (S : Nat) (u : Ctx) : Prop :=
  let n := s.cur.core
  t.cur = s.cur ∧ OnlyCore s t n ∧ l1After s t acq S ∧
  { t.core n with ctxs := [], l1 := [] } = { s.core n with ctxs := [], l1 := [] } ∧
  (∀ j, j ≠ s.cur.ctx → t.ctx n j = s.ctx n j) ∧ t.me = u

/-- The context after a release fence: one more fence holds its later stores and releases (04 R48). -/
def fenceAdded (s : State) (S : Nat) : Ctx :=
  { issued s.me (s.me.pc + 4) with fences := s.me.fences ++ [⟨s.me.seq, s.myCore.nextStore, S⟩], seq := s.me.seq + 1 }

/-- The scope code of 04 R42: bits 2:0, or sys where any higher bit is set. -/
def scopeCode (w : Word) : Nat :=
  if w.toNat / 8 = 0 then w.toNat % 8 else 7

end Sys2Proof.Claims

/-- 12 R172, 04 R42, R48: the fences, with the scope from the word or from a register. An acquire waits until the earlier loads have
their values; FENCE.sc also waits for its release. -/
def Sys2Proof.Claims.Fences : Prop :=
  ∀ (s : State) (c : BitVec 3) (a : BitVec 5), s.me.latchOn = false →
    let In := s.me.loadsDone s.me.seq = true
    let Gate := fun S => s.gate s.cur.core s.cur.ctx s.me.seq s.myCore.nextStore S = true
    let R := scopeCode (s.me.rx a)
    let next := issued s.me (s.me.pc + 4)
    (In → Ends (.fenceAcq c) s (Fenced s · true c.toNat next)) ∧ (In → Ends (.fenceAcqReg a) s (Fenced s · true R next)) ∧
    Ends (.fenceRel c) s (Fenced s · false 0 (fenceAdded s c.toNat)) ∧ Ends (.fenceRelReg a) s (Fenced s · false 0 (fenceAdded s R)) ∧
    (In → Ends (.fenceAr c) s (Fenced s · true c.toNat (fenceAdded s c.toNat))) ∧
    (In → Ends (.fenceArReg a) s (Fenced s · true R (fenceAdded s R))) ∧
    (In → Gate c.toNat → Ends (.fenceSc c) s (Fenced s · true c.toNat next)) ∧
    (In → Gate R → Ends (.fenceScReg a) s (Fenced s · true R next)) ∧
    (¬In → exec (.fenceAcq c) s = .next s.stall ∧ exec (.fenceAcqReg a) s = .next s.stall ∧ exec (.fenceAr c) s = .next s.stall ∧
      exec (.fenceArReg a) s = .next s.stall ∧ exec (.fenceSc c) s = .next s.stall ∧ exec (.fenceScReg a) s = .next s.stall)

/-- 12 R174, 04 R41: SCOPE, with the fields of its coordinate words and the chiplet of 01 R7. -/
def Sys2Proof.Claims.ScopeOfTwoPlaces : Prop :=
  ∀ (s : State) (d a b : BitVec 5), s.me.latchOn = false →
    let A := s.me.rx a
    let B := s.me.rx b
    let P := fun (w : Word) => w.toNat / 2 ^ 11 % 64
    let Y := fun (w : Word) => w.toNat / 2 ^ 7 % 16
    let X := fun (w : Word) => w.toNat / 2 ^ 2 % 32
    let G := fun (w : Word) => w.toNat % 4
    let chiplet := fun (w : Word) => 4 * (X w / 16) + 2 * (Y w / 8) + X w % 16 / 8
    Ends (.scope d a b) s (WroteX s · d (
      if P A ≠ P B then 6 else if X A / 16 ≠ X B / 16 then 5 else if chiplet A ≠ chiplet B then 4
      else if X A % 2 ≠ X B % 2 then 3 else if X A ≠ X B ∨ Y A ≠ Y B then 2 else if G A ≠ G B then 1 else 0))

/-- 12 R176, R177: STU stores only where the lock register names its word; LDL names the word and loads it under its lock bit. LDL is
stated for a thread that holds no lock. -/
def Obligations.LockedPair : Prop :=
  ∀ (s : State) (d a b : BitVec 5) (l : BitVec 4) (acc : Acc), s.me.latchOn = false → PassesScratch s 8 8 (s.me.rx a) acc →
    (s.me.lock = none → Ends (.ldl d a l) s fun t => OnlyMe s t ∧
      t.me = { opened s (.x d) 0xFFFF l (.load acc false none true) none with lock := some ⟨acc.loc, s.me.seq, false⟩ }) ∧
    (s.me.ldlOpen = false → (∀ k, s.me.lock = some k → k.loc ≠ acc.loc) → Ends (.stu d a b) s (WroteX s · d 1)) ∧
    (∀ k, s.me.ldlOpen = false → s.me.lock = some k → k.loc = acc.loc → Counts s acc → Ends (.stu d a b) s fun t =>
      let n := s.cur.core
      t.cur = s.cur ∧ OnlyCore s t n ∧ (∀ j, j ≠ s.cur.ctx → t.ctx n j = s.ctx n j) ∧
      { t.core n with ctxs := [], storeQ := [], nextStore := 0 } = { s.core n with ctxs := [], storeQ := [], nextStore := 0 } ∧
      (t.core n).storeQ = s.myCore.storeQ ++ [storeEntry s 0 acc (s.me.rx b) none true] ∧
      t.me = { issued s.me (s.me.pc + 4) with lock := none, seq := s.me.seq + 1, x := t.me.x, regErr := t.me.regErr } ∧
      ∀ r, t.me.rx r = if r = d ∧ r ≠ 0 then 0 else s.me.rx r)

/-- 12 R165: PREF never traps on its address and changes no register, no other thread and, where every set of the slices has room for a line
(01 R6), no byte of memory: a full set writes back the line that leaves it (08 R96). -/
def Sys2Proof.Claims.PrefetchIsAHint : Prop :=
  ∀ (s : State) (a : BitVec 5) (o : BitVec 12), s.me.latchOn = false →
    let Hint := fun (i : Instr) => Ends i s fun t =>
      t.me = issued s.me (s.me.pc + 4) ∧ t.cur = s.cur ∧ (∀ m, m ≠ s.cur.core → t.core m = s.core m) ∧
      (∀ j, j ≠ s.cur.ctx → t.ctx s.cur.core j = s.ctx s.cur.core j) ∧ t.engines = s.engines ∧ t.reqs = s.reqs ∧
      ((∀ ln, (s.sliceSet ln).length < 16) → (∀ x, mget 0 t.mem x = mget 0 s.mem x) ∧ t.pkg = s.pkg)
    Hint (.prefL1 a o) ∧ Hint (.prefSlice a o) ∧ Hint (.prefTlb a o)

namespace Sys2Proof.Claims

/-- The words of a whole-vector access: word k is 8 bytes at offset 8k, an access of its own (17 R226, 04 R46). -/
def vecWord (a : Acc) (k : Nat) : Acc :=
  { a with va := a.va + BitVec.ofNat 64 (8 * k), loc := a.loc + 8 * k, size := 8 }

/-- Element i of width w of a vector register (06 R71): bits (i + 1) w - 1 to i w. -/
def el (v : Vec) (w i : Nat) : Nat :=
  v.toNat / 2 ^ (w * i) % 2 ^ w

/-- The lane of element i of width w (06 R71). -/
def lane (w i : Nat) : Nat :=
  w * i / 32

/-- The k-th active elements, in order: those whose lane's predicate bit is 1. -/
def actives (w : Nat) (m : Mask) : List Nat :=
  (List.range (512 / w)).filter fun i => m.getLsbD (lane w i)

/-- The address of element i of a gather or scatter: x[A] plus the sign-extended index times the element's bytes (17 R228). -/
def gatherAddr (s : State) (a b : BitVec 5) (w i : Nat) : Word :=
  BitVec.ofInt 64 ((s.me.rx a).toInt + (BitVec.ofNat w (el (s.me.rv b) w i)).toInt * (w / 8 : Nat))

/-- The address of element i of a strided access: x[A] plus i times x[B]. -/
def strideAddr (s : State) (a b : BitVec 5) (_w i : Nat) : Word :=
  BitVec.ofInt 64 ((s.me.rx a).toInt + i * (s.me.rx b).toInt)

/-- Every active element passes its checks, in order, with these accesses (17 R228). -/
def PassesEls (s : State) (kind w : Nat) (m : Mask) (addr : Nat → Word) (as : Nat → Acc) : Prop :=
  s.me.acquiring = false ∧ ∀ i ∈ actives w m,
    s.resolve s.cur.core s.me.space (addr i) kind (w / 8) (w / 8) false = .ok (as i) ∧ s.belowMark (as i).loc (w / 8) = true

/-- Only the executing context, the store queue and the order of its core's TLB entries may have changed. -/
def AccessedMany (s t : State) : Prop :=
  let n := s.cur.core
  t.cur = s.cur ∧ OnlyCore s t n ∧
  { t.core n with ctxs := [], tlb := [], storeQ := [], nextStore := 0 } =
    { s.core n with ctxs := [], tlb := [], storeQ := [], nextStore := 0 } ∧
  ∀ j, j ≠ s.cur.ctx → t.ctx n j = s.ctx n j

/-- Several stores have retired in order: the entries at the end of the queue, nothing else. -/
def StoresRetired (s t : State) (es : List StoreEnt) : Prop :=
  AccessedMany s t ∧ (t.core s.cur.core).storeQ = s.myCore.storeQ ++ es ∧
  (t.core s.cur.core).nextStore = s.myCore.nextStore + es.length ∧
  t.me = { issued s.me (s.me.pc + 4) with seq := s.me.seq + es.length }

end Sys2Proof.Claims

/-- 17 R226: VLD opens a window over eight words; VST retires the eight words of v[D] in order, each counting; where the first would pass
its level's count, VST stalls with nothing stored (04 R47). -/
def Sys2Proof.Claims.WholeVectorAccess : Prop :=
  ∀ (s : State) (d a : BitVec 5) (o : BitVec 12) (l : BitVec 4) (acc : Acc), s.me.latchOn = false →
    let va := effAddr s a o 64
    (Passes s 0 64 va false acc → Ends (.vld d a o l) s (LoadIssued s · va (.v d) 0xFFFF l
      (.vec ((List.range 8).map fun k => ⟨k, vecWord acc k, none⟩) 64))) ∧
    (Passes s 1 64 va false acc → s.me.todo = none → (∀ k < 8, Room s (levelOf s.cur.core (vecWord acc k).loc) 8) →
      Ends (.vst d a o) s (StoresRetired s · ((List.range 8).map fun k =>
        storeEntry s k (vecWord acc k) (BitVec.ofNat 64 (el (s.me.rv d) 64 k)) none false))) ∧
    (Passes s 1 64 va false acc → s.me.todo = none → ¬Counts s (vecWord acc 0) → Ends (.vst d a o) s fun t =>
      (t.core s.cur.core).storeQ = s.myCore.storeQ ∧ t.me.pc = s.me.pc ∧ t.me.run = .stalled ∧ ∀ x, mget 0 t.mem x = mget 0 s.mem x) ∧
    (∀ c, s.me.acquiring = false → s.resolve s.cur.core s.me.space va 0 64 64 false = .fault c →
      exec (.vld d a o l) s = .next (s.trapMe c 0 va)) ∧
    (∀ c, s.me.acquiring = false → s.me.todo = none → s.resolve s.cur.core s.me.space va 1 64 64 false = .fault c →
      exec (.vst d a o) s = .next (s.trapMe c 1 va))

/-- The prefix that governs the executing instruction, or the defaults where none does, is legal and satisfies the instruction's row of the
format table (06 R76, 17 R224). -/
def Sys2Proof.Claims.Governed (s : State) (row : Pfx → Bool) : Prop :=
  s.me.pfx.legal = true ∧ row s.me.pfx = true

/-- 17 R228, R229: gathers, scatters and strided accesses at the element width w of the prefix, 32 or 64 bits: the active elements alone are
accessed, each at its own address; the inactive lanes of a load keep their values, for its window replaces the active lanes alone. -/
def Sys2Proof.Claims.ElementAccess : Prop :=
  ∀ (s : State) (d a b : BitVec 5) (l : BitVec 4) (q : BitVec 1) (k : BitVec 3) (as : Nat → Acc), Governed s vmemFmt →
    let w := if s.me.pfx.fc = 5 then 64 else 32
    let m := s.me.rk k
    let lanes := fun (x : Mask) => ∀ j, j < 16 → x.getLsbD j = m.getLsbD (if w = 64 then j / 2 * 2 else j)
    let Load := fun (i : Instr) (addr : Nat → Word) => PassesEls s 0 w m addr as → Ends i s fun t => AccessedMany s t ∧
      (t.core s.cur.core).storeQ = s.myCore.storeQ ∧ ∃ x, lanes x ∧
      t.me = opened s (.v d) x l (.vec ((actives w m).map fun j => ⟨j, as j, none⟩) w) none
    let Store := fun (i : Instr) (addr : Nat → Word) => PassesEls s 1 w m addr as → s.me.todo = none →
      (∀ j ∈ actives w m, Room s (levelOf s.cur.core (as j).loc) 16) →
      Ends i s (StoresRetired s · ((actives w m).mapIdx fun n j =>
        storeEntry s n (as j) (BitVec.ofNat 64 (el (s.me.rv d) w j)) none false))
    Load (.vgather d a b l q k) (gatherAddr s a b w) ∧ Store (.vscatter d a b q k) (gatherAddr s a b w) ∧
    Load (.vlds d a b l q k) (strideAddr s a b w) ∧ Store (.vsts d a b q k) (strideAddr s a b w)

/-! ### Accesses at their homes, misses and page requests (chapters 04, 08, 09, 12 and 28) -/

namespace Sys2Proof.Claims

/-- The byte of a little-endian value at an offset (00 R3). -/
def byteAt (v k : Nat) : Byte :=
  BitVec.ofNat 8 (v / 256 ^ k)

/-- The little-endian value of n bytes of memory (00 R3). -/
def valueAt (s : State) (loc n : Nat) : Nat :=
  match n with
  | 0 => 0
  | n + 1 => valueAt s loc n + (mget 0 s.mem (loc + n)).toNat * 256 ^ n

/-- Memory after a write of n bytes of v at loc: those bytes, and every other byte as before. -/
def Wrote (s t : State) (loc n v : Nat) : Prop :=
  ∀ a, mget 0 t.mem a = if loc ≤ a ∧ a < loc + n then byteAt v (a - loc) else mget 0 s.mem a

/-- Does a wait watch a word of memory (02 R34, 14 R197)? -/
def watches (w : Wait) (word : Nat) : Bool :=
  match w with
  | .word _ loc _ _ => decide (loc / 8 = word)
  | .bar _ loc _ _ _ _ => decide (loc / 8 = word)
  | .hbar _ _ _ _ | .gang => false

/-- No thread waits on a word that meets the range. -/
def Unwatched (s : State) (loc n : Nat) : Prop :=
  ∀ e ∈ s.waiting, ∀ k, loc / 8 ≤ k → k ≤ (loc + n - 1) / 8 → watches e.2.2 k = false

/-- A window's result, set in the window that the place names. No instruction has issued past a due result (11 R134). -/
def landedIn (u : Ctx) (seq : Nat) (r : Res) : Ctx :=
  { u with windows := u.windows.map fun w => if w.seq = seq then { w with res := some r } else w }

/-- What an atomic writes (12 R166). -/
def atomicValue (w : Nat) (op : BitVec 3) (old b : BitVec w) : BitVec w :=
  match op.toNat with
  | 0 => old + b
  | 1 => old &&& b
  | 2 => old ||| b
  | 3 => old ^^^ b
  | 4 => if old.toInt < b.toInt then b else old
  | 5 => if b.toInt < old.toInt then b else old
  | _ => b

end Sys2Proof.Claims

/-- A line is in its slice, or its set there has room (01 R6, 08 R96). -/
def Sys2Proof.Claims.SliceRoom (s : State) (loc : Nat) : Prop :=
  (mfind s.lines (loc / 64)).isSome = true ∨ (s.sliceSet (loc / 64)).length < 16

/-- 04 R47, R49, 12 R164: a queued store to scratch writes its bytes at its home and no other byte; the entry is then written, and stands
behind those written before it, in which order the stores to one word are acknowledged (04 R45, log 19). With nobody waiting on its words,
no thread's context changes. -/
def Sys2Proof.Claims.StoreReachesScratch : Prop :=
  ∀ (s : State) (n : Nat) (e : StoreEnt), s.entryOf n e.id = some e → isScratch e.acc.loc = true → 0 < e.acc.size → s.storeWay n e = true →
    s.mayWrite n e = true → Ends (.storeWriteAtHome n e.id) s fun t =>
      Wrote s t e.acc.loc e.acc.size e.data.toNat ∧
      (t.core n).storeQ = (s.core n).storeQ.filter (fun q => q.id ≠ e.id) ++ ((s.core n).storeQ.filter fun q => q.id = e.id).map (fun q =>
        { q with written := true, poisoned := partPoison s.poison e.acc.loc e.acc.size }) ∧
      (Unwatched s e.acc.loc e.acc.size → ∀ m i, t.ctx m i = s.ctx m i)

/-- 08 R96: a queued store to DRAM writes its bytes into its home slice's line, which becomes dirty; no other line changes, and DRAM itself
changes only when the line is written back. In the write range of a running bank command, where the slice holds no line, the bytes go to
DRAM, whose other bytes are as before (04 R53, 26 R346). -/
def Sys2Proof.Claims.StoreReachesSlice : Prop :=
  ∀ (s : State) (n : Nat) (e : StoreEnt), s.entryOf n e.id = some e → isDram e.acc.loc = true → s.storeWay n e = true →
    s.mayWrite n e = true →
    let old := (s.sliceLine (e.acc.loc / 64) e.acc.key e.acc.buf false).1.data.toNat
    (s.bankWrites e.acc.loc = false → SliceRoom s e.acc.loc → Ends (.storeWriteAtHome n e.id) s fun t =>
      (∀ a, mget 0 t.mem a = mget 0 s.mem a) ∧ (∀ ln, ln ≠ e.acc.loc / 64 → mfind t.lines ln = mfind s.lines ln) ∧
      ∃ l, mfind t.lines (e.acc.loc / 64) = some l ∧ l.dirty = true ∧ ∀ k, k < 64 →
        BitVec.ofNat 8 (l.data.toNat / 256 ^ k) = if e.acc.loc % 64 ≤ k ∧ k < e.acc.loc % 64 + e.acc.size
          then byteAt e.data.toNat (k - e.acc.loc % 64) else byteAt old k) ∧
    (s.bankWrites e.acc.loc = true → mfind s.lines (e.acc.loc / 64) = none → Ends (.storeWriteAtHome n e.id) s fun t =>
      mfind t.lines (e.acc.loc / 64) = none ∧ ∀ a, mget 0 t.mem a =
        if a / 64 ≠ e.acc.loc / 64 then mget 0 s.mem a
        else if e.acc.loc ≤ a ∧ a < e.acc.loc + e.acc.size then byteAt e.data.toNat (a - e.acc.loc) else byteAt old (a % 64))

/-- 04 R47, 13 R379, 08 R88: an acknowledged store leaves the queue, so that its pending count falls; memory does not change, but where the
refreshed line displaces another from its slice. A store that wrote part of a poisoned word, or that another package refused (log 88), makes
its trap due. Its acknowledgement is not in the mesh, and stores written to its bytes before it are acknowledged first. -/
def Sys2Proof.Claims.StoreIsAcknowledged : Prop :=
  ∀ (s : State) (n : Nat) (e : StoreEnt), s.entryOf n e.id = some e →
    (e.written = true → s.inMesh (.store n e.ctx e.id) = false → (s.core n).ackTurn e = true → Ends (.storeAck n e.id) s fun t =>
      (SliceRoom s e.acc.loc → ∀ a, mget 0 t.mem a = mget 0 s.mem a) ∧ (t.core n).storeQ = (s.core n).storeQ.filter (fun q => q.id ≠ e.id) ∧
      (t.ctx n e.ctx).x = (s.ctx n e.ctx).x ∧
      mfind (t.ctx n e.ctx).poisonDue e.seq = if e.refused then some (3, e.acc.va) else if e.poisoned then some (5, e.acc.va)
        else mfind (s.ctx n e.ctx).poisonDue e.seq) ∧
    (e.written = false → exec (.storeAck n e.id) s = .next s)

/-- 11 R134, 12 R163, 04 R47: a load's result comes back: the bytes of scratch at its address, or those an earlier store of the thread
has queued, zero- or sign-extended; a poisoned word brings the fault of CAUSE 5 instead (13 R184). Nothing else changes. -/
def Sys2Proof.Claims.LoadResultLands : Prop :=
  ∀ (s : State) (n i q : Nat) (w : Window) (a : Acc) (sg : Bool), s.homeWin n i q = some w → w.pend = .load a sg none false →
    (s.ctx n i).past = [] → (s.ctx n i).behind q a.loc a.size = false → isScratch a.loc = true → a.l1 = false → a.size ≤ 8 → 0 < a.size →
    let Lands := fun (r : Res) => Ends (.resultLands n i q .none) s fun t => OnlyCtx s t n i ∧ t.ctx n i = landedIn (s.ctx n i) q r
    let ext := fun (v : Nat) => ((if sg then (BitVec.ofNat (8 * a.size) v).signExtend 64 else BitVec.ofNat 64 v : Word)).setWidth 512
    let F := (s.core n).forward n i q a.loc a.size
    (F = .mem ∨ F = .home → anyPoison s.poison a.loc a.size = false → Lands (.val (ext (valueAt s a.loc a.size)))) ∧
    (∀ v, F = .val v → Lands (.val (ext v))) ∧
    (F = .mem ∨ F = .home → anyPoison s.poison a.loc a.size = true → Lands (.fault 5 0 a.va))

/-- 12 R166 to R168, R170: an atomic on scratch reads its old value and writes the new one, indivisibly; a failed cas writes nothing. -/
def Sys2Proof.Claims.AtomicAtScratch : Prop :=
  ∀ (s : State) (n i q : Nat) (w : Window) (a : Acc) (op : BitVec 3) (b e : Word), s.homeWin n i q = some w →
    w.pend = .atomic a op b e none none → (s.ctx n i).past = [] → (s.ctx n i).loadsDone q = true → s.fencesOpen n i q = true →
    s.storesDone n i q a.loc a.size = true → isScratch a.loc = true → s.bankHas a.loc 2 = false → s.lockFree a.loc n i q = true →
    anyPoison s.poison a.loc a.size = false → a.size = 4 ∨ a.size = 8 → Unwatched s a.loc a.size →
    let W := 8 * a.size
    let old := BitVec.ofNat W (valueAt s a.loc a.size)
    Ends (.atomicAtHome n i q .none) s fun t =>
      (if op = 7 ∧ old ≠ e.setWidth W then ∀ x, mget 0 t.mem x = mget 0 s.mem x
       else Wrote s t a.loc a.size (atomicValue W op old (b.setWidth W)).toNat) ∧
      t.ctx n i = { s.ctx n i with windows := (s.ctx n i).windows.map fun w => if w.seq = q then
        { w with pend := .atomic a op b e none (some (.val (old.setWidth 512))) } else w } ∧
      ∀ m j, (m, j) ≠ (n, i) → t.ctx m j = s.ctx m j

/-- 08 R96: a slice writes a dirty line back whole, at its own bytes of DRAM alone. -/
def Sys2Proof.Claims.DirtyLineIsWrittenBack : Prop :=
  ∀ (s : State) (ln : Nat) (evict : Bool) (l : Line), mfind s.lines ln = some l →
    Ends (.dirtyLineWriteBack ln evict) s fun t =>
      (if l.dirty then Wrote s t (64 * ln) 64 l.data.toNat else ∀ a, mget 0 t.mem a = mget 0 s.mem a) ∧
      mfind t.lines ln = (if evict then none else some { l with dirty := false }) ∧
      (∀ m, m ≠ ln → mfind t.lines m = mfind s.lines m) ∧ t.cores = s.cores

/-- The bytes that an entry maps (08 R98): the first, and how many. -/
def Sys2Proof.Claims.mapsFrom (e : TlbEntry) : Nat :=
  e.te0.toNat / 2 ^ 16 % 2 ^ 44 * 2 ^ 16

def Sys2Proof.Claims.mapsBytes (e : TlbEntry) : Nat :=
  2 ^ (16 + 6 * (e.te0.toNat / 2 ^ 14 % 4))

/-- Do two entries share no byte of one space (08 R106)? -/
def Sys2Proof.Claims.apart (q e : TlbEntry) : Bool :=
  decide (q.te0.toNat % 2 ^ 12 ≠ e.te0.toNat % 2 ^ 12 ∨ mapsFrom q + mapsBytes q ≤ mapsFrom e ∨ mapsFrom e + mapsBytes e ≤ mapsFrom q)

/-- 08 R106, R108: a walk's entry is installed in front; of the old entries those of its space that overlap it in any byte go, all others
stay, but for the least recently used one where the TLB is full; and the miss ends. A malformed entry changes nothing. A failed walk ends a
prefetch's miss, marks an engine's, whose waiting threads try again (log 75), and for a thread sends its page request. -/
def Sys2Proof.Claims.TranslationWalk : Prop :=
  ∀ (s : State) (n k : Nat) (m : Miss) (p : BitVec 64 × BitVec 64), nth (s.core n).misses k = some m → m.requested = false →
    m.failed = false →
    let e : TlbEntry := ⟨p.1, p.2⟩
    (e.malformed = false → Ends (.tlbWalk n k (some p)) s fun t =>
      (t.core n).tlb = (e :: (s.core n).tlb.filter fun q => apart q e).take 256 ∧
      (∀ q ∈ (t.core n).tlb.drop 1, q ∈ (s.core n).tlb ∧ apart q e = true) ∧ m ∉ (t.core n).misses ∧
      (∀ a, mget 0 t.mem a = mget 0 s.mem a)) ∧
    (e.malformed = true → exec (.tlbWalk n k (some p)) s = .next s) ∧
    (m.prefetch = true → Ends (.tlbWalk n k none) s fun t => m ∉ (t.core n).misses ∧ (t.core n).tlb = (s.core n).tlb ∧ t.reqs = s.reqs) ∧
    (m.prefetch = false → 64 ≤ m.ctx → Ends (.tlbWalk n k none) s fun t =>
      (t.core n).misses = (s.core n).misses.map (fun q => if q = m then { q with failed := true, waiters := [] } else q) ∧ t.reqs = s.reqs) ∧
    (m.prefetch = false → m.ctx < 64 → Ends (.tlbWalk n k none) s fun t =>
      (t.core n).misses = (s.core n).misses.map (fun q => if q = m then { q with requested := true } else q) ∧
      t.reqs ++ t.heldReqs = s.reqs ++ s.heldReqs ++ [⟨m.va, m.lid, m.gen, m.space, m.kind, BitVec.ofNat 15 (n * 64 + m.ctx)⟩])

/-- 28 R365: the oldest held request is written to the host's ring where it has room: the record at PRPROD's place, and PRPROD advances
modulo the ring, and then the vector is sent, or, where it is masked, stays pending (28 R357). No other byte of memory changes. A down host link
loses the record, which is logged with KIND 5 (28 R356). -/
def Sys2Proof.Claims.HeldRequestReachesRing : Prop :=
  ∀ (s : State) (r : PageReq) (rest : List PageReq) (k : Nat), s.heldReqs = r :: rest → s.ringSize = some k → s.pkg.prUsed < 2 ^ k →
    Ends .heldPageRequestWrite s fun t =>
      t.heldReqs = rest ∧ t.reqs = s.reqs ++ [r] ∧ t.pkg.prprod = BitVec.ofNat 16 ((s.pkg.prprod.toNat + 1) % 2 ^ k) ∧
      (s.pkg.linkUp = true →
        Wrote s t (hostAt + s.pkg.prbase.toNat / 2 ^ 12 * 2 ^ 12 + 32 * (s.pkg.prprod.toNat % 2 ^ k)) 32 (s.pageRecord r) ∧
        t.errLog = s.errLog) ∧
      (s.pkg.linkUp = false → (∀ a, mget 0 t.mem a = mget 0 s.mem a) ∧
        t.errLog = (s.logErr 5 (BitVec.ofNat 64 (s.pkg.prbase.toNat / 2 ^ 12 * 2 ^ 12 + 32 * (s.pkg.prprod.toNat % 2 ^ k))) r.lid 0 0).errLog) ∧
      t.cores = s.cores ∧
      (let v : BitVec 11 := s.pkg.prmsi.setWidth 11
       if s.pkg.prmsi.getLsbD 11 = false then t.pkg.msix = s.pkg.msix ∧ t.pkg.msixPend = s.pkg.msixPend
       else if s.pkg.masked v.toNat then t.pkg.msix = s.pkg.msix ∧ mget false t.pkg.msixPend v.toNat = true
       else t.pkg.msixPend = s.pkg.msixPend ∧ (s.pkg.linkUp = true → t.pkg.msix = s.pkg.msix ++ [v]))

/-- 08 R110, 28 R366: an answer whose reserved bits are set, or that matches no outstanding request of its context and generation, is
discarded and counted, and changes nothing else; a matching one ends the request. With RESULT 0 the walk is made again (08 R109); with RESULT 1
the miss is over, and every access that waits on it takes a translation fault, CAUSE 4, whose etval is its address. -/
def Sys2Proof.Claims.PageRequestAnswers : Prop :=
  ∀ (s : State) (v : BitVec 64),
    let id := v.toNat % 2 ^ 15
    let gen : BitVec 32 := BitVec.ofNat 32 (v.toNat / 2 ^ 32)
    let n := id / 64
    let i := id % 64
    let Mine := fun (m : Miss) => m ∈ (s.core n).misses ∧ m.requested = true ∧ m.ctx = i ∧ m.gen = gen ∧ (s.ctx n i).gen = gen ∧
      ∃ r ∈ s.reqs, r.id.toNat = id ∧ r.gen = gen ∧ r.va = m.va
    ((v.toNat / 2 ^ 17 % 2 ^ 15 ≠ 0 ∨ v.toNat / 2 ^ 15 % 2 ≠ 0 ∨ ¬∃ m, Mine m) →
      exec (.pageRequestAnswer v) s = .next { s with pkg := { s.pkg with ansdisc := s.pkg.ansdisc + 1 } }) ∧
    (v.toNat / 2 ^ 17 % 2 ^ 15 = 0 → v.toNat / 2 ^ 15 % 2 = 0 → v.toNat / 2 ^ 16 % 2 = 0 → (∃ m, Mine m) →
      Ends (.pageRequestAnswer v) s fun t => ∃ m, Mine m ∧ t.pkg.ansdisc = s.pkg.ansdisc ∧
        t.reqs = s.reqs.filter (fun r => !decide (r.id.toNat = id ∧ r.gen = gen ∧ r.va = m.va)) ∧
        (t.core n).misses = (s.core n).misses.map (fun q => if q = m then { q with requested := false } else q)) ∧
    (v.toNat / 2 ^ 17 % 2 ^ 15 = 0 → v.toNat / 2 ^ 15 % 2 = 0 → v.toNat / 2 ^ 16 % 2 = 1 → (∃ m, Mine m) → ∃ m, Mine m ∧
      let u := { s with reqs := s.reqs.filter (fun r => !decide (r.id.toNat = id ∧ r.gen = gen ∧ r.va = m.va)) }
      let gone := u.setCore n { u.core n with misses := (s.core n).misses.filter fun q => q ≠ m }
      exec (.pageRequestAnswer v) s = .next (m.waiters.foldl (fun u w =>
        if (u.ctx n w.ctx).gen = w.gen ∧ (u.ctx n w.ctx).run = .stalled
        then u.trap n w.ctx ⟨4, w.kind, w.va, (u.ctx n w.ctx).pc, false, false, 0⟩ else u) gone))

/-- 08 R101 to R103: two addresses of an interleaved region that resolve to one place of one channel are equal, so no two bytes of the
region share a location. -/
def Sys2Proof.Claims.InterleaveSharesNoByte : Prop :=
  ∀ (chans : List Nat) (lim first a b loc : Nat), chans.Nodup → (first + lim) * 4096 ≤ chanSize →
    stripe chans lim first a = some loc → stripe chans lim first b = some loc → a = b

/-- 08 R90, R104: an own-scratch address reaches the executing core's scratch at its offset, when aligned to its size, and takes the
misalignment cause 2 otherwise; with a field set that its form requires to be zero it takes cause 3. -/
def Sys2Proof.Claims.OwnScratchAddresses : Prop :=
  ∀ (s : State) (n off kind size : Nat) (sp : BitVec 12) (ho : Bool), off < 2 ^ 20 → size = 1 ∨ size = 2 ∨ size = 4 ∨ size = 8 ∨ size = 64 →
    let va : Word := BitVec.ofNat 64 (14 * 2 ^ 56 + off)
    s.resolve n sp va kind size size ho = (if off % size = 0 then .ok ⟨va, scratchAt n + off, size, false, 0, 0⟩ else .fault 2) ∧
    ∀ k, 20 ≤ k → k < 56 → s.resolve n sp (va + BitVec.twoPow 64 k) kind size size ho = .fault 3

/-! ### Vector instructions (chapter 17, with 06) -/

namespace Sys2Proof.Claims

/-- A w-bit pattern as a signed number, and a number modulo 2^w. -/
def sgn (w x : Nat) : Int := (BitVec.ofNat w x).toInt
def wrap (w : Nat) (n : Int) : Nat := (n % 2 ^ w).toNat

/-- Clamp to the range of w bits, signed or unsigned (06 R62). -/
def clamp (w : Nat) (unsigned : Bool) (n : Int) : Int :=
  if unsigned then max 0 (min n (2 ^ w - 1)) else max (-2 ^ (w - 1)) (min n (2 ^ (w - 1) - 1))

/-- A pattern by the signedness of its code (17 R230). -/
def val (w : Nat) (unsigned : Bool) (x : Nat) : Int :=
  if unsigned then (x : Int) else sgn w x

/-- v[d]'s active elements are computed, its inactive elements keep their values (17 R223), and nothing else changes. -/
def EachActive (s t : State) (d : BitVec 5) (k : BitVec 3) (w : Nat) (f : Nat → Nat) : Prop :=
  ∃ v, WroteV s t d v ∧ ∀ i, i < 512 / w →
    el v w i = if (s.me.rk k).getLsbD (lane w i) then f i else el (s.me.rv d) w i

/-- Every element of v[d] is computed. -/
def EachEl (s t : State) (d : BitVec 5) (w : Nat) (f : Nat → Nat) : Prop :=
  ∃ v, WroteV s t d v ∧ ∀ i, i < 512 / w → el v w i = f i

/-- The elements that lane l governs or shares: a 64-bit element gives both its lanes (17 R231). -/
def governs (w l : Nat) : List Nat :=
  if w = 64 then [l / 2] else (List.range (512 / w)).filter fun i => lane w i = l

/-- A comparison's predicate (17 R231): bit l is 1 when its governing lane is active and every element it governs compares true. -/
def maskOf (w : Nat) (m : Mask) (f : Nat → Bool) (km : Mask) : Prop :=
  ∀ l, l < 16 → km.getLsbD l = (m.getLsbD (if w = 64 then l / 2 * 2 else l) && (governs w l).all f)

/-- The flag field of a lane (06 R79). -/
def laneFlags (u : Ctx) (l : Nat) : BitVec 5 :=
  (if l < 8 then u.vflg0 else u.vflg1).extractLsb' (8 * (l % 8)) 5

/-- The flags that a list of elements raises in one lane, and altogether. -/
def flagsIn (fl : List (Nat × BitVec 5)) (l : Nat) : BitVec 5 :=
  fl.foldl (fun a e => if e.1 = l then a ||| e.2 else a) 0

def flagsAll (fl : List (Nat × BitVec 5)) : BitVec 5 :=
  fl.foldl (fun a e => a ||| e.2) 0

/-- Flags are ORed into their lanes at once, and into what the core's summary takes at the end of the cycle, unless the Q bit suppresses
them (06 R79 to R81, R86); beside the flags, the context is `u` and nothing else has changed. -/
def Flagged (s t : State) (q : BitVec 1) (fl : List (Nat × BitVec 5)) (u : Ctx) : Prop :=
  let n := s.cur.core
  t.cur = s.cur ∧ OnlyCore s t n ∧ (∀ j, j ≠ s.cur.ctx → t.ctx n j = s.ctx n j) ∧
  { t.core n with ctxs := [], raiseDue := 0 } = { s.core n with ctxs := [], raiseDue := 0 } ∧
  (t.core n).raiseDue = (s.core n).raiseDue ||| (if q = 1 then 0 else flagsAll fl) ∧
  (∀ l, l < 16 → laneFlags t.me l = laneFlags s.me l ||| (if q = 1 then 0 else flagsIn fl l)) ∧
  { t.me with vflg0 := 0, vflg1 := 0 } = { u with vflg0 := 0, vflg1 := 0 }

/-- The active elements of v[d] are computed with flags in their lanes; the inactive ones keep their values. -/
def EachActiveFlags (s t : State) (d : BitVec 5) (k : BitVec 3) (q : BitVec 1) (w : Nat) (f : Nat → Nat × BitVec 5) : Prop :=
  ∃ v, Flagged s t q ((actives w (s.me.rk k)).map fun i => (lane w i, (f i).2))
      { issued s.me (s.me.pc + 4) with v := t.me.v, regErr := t.me.regErr } ∧
    (∀ r, t.me.rv r = if r = d then v else s.me.rv r) ∧ ∀ i, i < 512 / w →
      el v w i = if (s.me.rk k).getLsbD (lane w i) then (f i).1 % 2 ^ w else el (s.me.rv d) w i

end Sys2Proof.Claims

/-- 17 R230, R231: the integer operations at the width and signedness of the prefix's code; VINT raises no flag. -/
def Sys2Proof.Claims.VectorIntegers : Prop :=
  ∀ (s : State) (d a b : BitVec 5) (q : BitVec 1) (k : BitVec 3), Governed s vintFmt →
    let c := codeOr s.me.pfx.fc 4
    let w := fmtWidth c
    let u := decide (c = 2 ∨ c = 14)
    let A := fun i => el (s.me.rv a) w i
    let B := fun i => el (s.me.rv b) w i
    let V := fun (j : Instr) (f : Nat → Nat) => Ends j s fun t => EachActive s t d k w f
    V (.vadd d a b q k) (fun i => (A i + B i) % 2 ^ w) ∧
    V (.vsub d a b q k) (fun i => wrap w ((A i : Int) - B i)) ∧
    V (.vmul d a b q k) (fun i => A i * B i % 2 ^ w) ∧
    V (.vmulh d a b q k) (fun i => wrap w (val w u (A i) * val w u (B i) / 2 ^ w)) ∧
    V (.vadds d a b q k) (fun i => wrap w (clamp w u (val w u (A i) + val w u (B i)))) ∧
    V (.vsubs d a b q k) (fun i => wrap w (clamp w u (val w u (A i) - val w u (B i)))) ∧
    V (.vand d a b q k) (fun i => A i &&& B i) ∧ V (.vor d a b q k) (fun i => A i ||| B i) ∧
    V (.vxor d a b q k) (fun i => A i ^^^ B i) ∧
    V (.vsll d a b q k) (fun i => A i * 2 ^ (B i % w) % 2 ^ w) ∧ V (.vsrl d a b q k) (fun i => A i / 2 ^ (B i % w)) ∧
    V (.vsra d a b q k) (fun i => wrap w (sgn w (A i) / 2 ^ (B i % w))) ∧
    V (.vmin d a b q k) (fun i => if sgn w (B i) < sgn w (A i) then B i else A i) ∧
    V (.vmax d a b q k) (fun i => if sgn w (A i) < sgn w (B i) then B i else A i) ∧
    V (.vminu d a b q k) (fun i => min (A i) (B i)) ∧ V (.vmaxu d a b q k) (fun i => max (A i) (B i)) ∧
    Ends (.vsel d a b q k) s fun t => EachEl s t d w fun i => if (s.me.rk k).getLsbD (lane w i) then A i else B i

/-- 17 R230, R231: the integer comparisons write a predicate; bits of inactive elements become 0. -/
def Sys2Proof.Claims.VectorCompares : Prop :=
  ∀ (s : State) (d : BitVec 3) (a b : BitVec 5) (q : BitVec 1) (k : BitVec 3), Governed s vcmpFmt →
    let w := fmtWidth (codeOr s.me.pfx.fc 4)
    let A := fun i => el (s.me.rv a) w i
    let B := fun i => el (s.me.rv b) w i
    let V := fun (j : Instr) (f : Nat → Bool) => Ends j s fun t => ∃ km, WroteK s t d km ∧ maskOf w (s.me.rk k) f km
    V (.vcmpEq d a b q k) (fun i => A i == B i) ∧ V (.vcmpNe d a b q k) (fun i => A i != B i) ∧
    V (.vcmpLt d a b q k) (fun i => sgn w (A i) < sgn w (B i)) ∧ V (.vcmpLe d a b q k) (fun i => sgn w (A i) ≤ sgn w (B i)) ∧
    V (.vcmpLtu d a b q k) (fun i => A i < B i) ∧ V (.vcmpLeu d a b q k) (fun i => A i ≤ B i)

/-- 17 R232, R223, 06 R79 to R81: the floating-point operations at the prefix's format, mode and SAT, element by element with their flags. -/
def Sys2Proof.Claims.VectorFloats : Prop :=
  ∀ (s : State) (d a b : BitVec 5) (q : BitVec 1) (k : BitVec 3), Governed s vfltFmt →
    let p := s.me.pfx
    let c := codeOr p.fc 6
    let w := fmtWidth c
    let f := floatOf c
    let md := s.me.mode p
    let A := fun i => el (s.me.rv a) w i
    let B := fun i => el (s.me.rv b) w i
    let D := fun i => el (s.me.rv d) w i
    let V := fun (j : Instr) (g : Nat → Nat × BitVec 5) => Ends j s fun t => EachActiveFlags s t d k q w g
    V (.vfadd d a b q k) (fun i => fadd f md p.sat (A i) (B i)) ∧ V (.vfsub d a b q k) (fun i => fsub f md p.sat (A i) (B i)) ∧
    V (.vfmul d a b q k) (fun i => fmul f md p.sat (A i) (B i)) ∧ V (.vfma d a b q k) (fun i => fma f md p.sat (A i) (B i) (D i)) ∧
    V (.vfms d a b q k) (fun i => fms f md p.sat (A i) (B i) (D i)) ∧ V (.vfdiv d a b q k) (fun i => fdiv f md p.sat (A i) (B i)) ∧
    V (.vfsqrt d a q k) (fun i => fsqrt f md p.sat (A i)) ∧ V (.vfmin d a b q k) (fun i => fminmax f false (A i) (B i)) ∧
    V (.vfmax d a b q k) (fun i => fminmax f true (A i) (B i)) ∧
    V (.vfabs d a q k) (fun i => (if (f.decode (A i)).isNan then f.nan else A i % 2 ^ (w - 1), 0)) ∧
    V (.vfneg d a q k) (fun i => (if (f.decode (A i)).isNan then f.nan else (A i + 2 ^ (w - 1)) % 2 ^ w, 0))

/-- 17 R231 to R233: the floating-point comparisons. -/
def Sys2Proof.Claims.VectorFloatCompares : Prop :=
  ∀ (s : State) (d : BitVec 3) (a b : BitVec 5) (q : BitVec 1) (k : BitVec 3), Governed s vfltFmt →
    let c := codeOr s.me.pfx.fc 6
    let w := fmtWidth c
    let f := floatOf c
    let A := fun i => f.decode (el (s.me.rv a) w i)
    let B := fun i => f.decode (el (s.me.rv b) w i)
    let nan := fun i => (A i).isNan || (B i).isNan
    let quiet := fun i => if sigNV (A i) = 0 ∧ sigNV (B i) = 0 then 0 else flNV
    let V := fun (j : Instr) (g : Nat → Bool) (fl : Nat → BitVec 5) => Ends j s fun t =>
      ∃ km, Flagged s t q ((actives w (s.me.rk k)).map fun i => (lane w i, fl i))
          { issued s.me (s.me.pc + 4) with k := t.me.k, regErr := t.me.regErr } ∧
        (∀ r, t.me.rk r = if r = d ∧ r ≠ 0 then km else s.me.rk r) ∧ maskOf w (s.me.rk k) g km
    V (.vfcmpEq d a b q k) (fun i => !nan i && feqX (A i) (B i)) quiet ∧
    V (.vfcmpNe d a b q k) (fun i => nan i || !feqX (A i) (B i)) quiet ∧
    V (.vfcmpLt d a b q k) (fun i => !nan i && fltX (A i) (B i)) (fun i => if nan i then flNV else 0) ∧
    V (.vfcmpLe d a b q k) (fun i => !nan i && (fltX (A i) (B i) || feqX (A i) (B i))) (fun i => if nan i then flNV else 0) ∧
    V (.vfcmpUn d a b q k) nan quiet

/-- 17 R235: the element moves. -/
def Sys2Proof.Claims.ElementMoves : Prop :=
  ∀ (s : State) (d a b : BitVec 5) (q : BitVec 1) (k : BitVec 3),
    let c := codeOr s.me.pfx.fc 4
    let w := fmtWidth c
    let n := 512 / w
    (Governed s vmoveFmt → Ends (.vperm d a b q k) s fun t => EachActive s t d k w fun i => el (s.me.rv a) w (el (s.me.rv b) w i % n)) ∧
    (Governed s vbcastFmt → Ends (.vbcast d a q k) s fun t => EachActive s t d k w fun _ => (s.me.rx a).toNat % 2 ^ w) ∧
    (Governed s vmoveFmt → Ends (.vextr d a b q) s fun t =>
      let e := el (s.me.rv a) w ((s.me.rx b).toNat % n)
      WroteX s t d (if c = 4 then BitVec.ofInt 64 (sgn w e) else BitVec.ofNat 64 e)) ∧
    (Governed s vmoveFmt → Ends (.vinsr d a b q) s fun t => EachEl s t d w fun i =>
      if i = (s.me.rx b).toNat % n then (s.me.rx a).toNat % 2 ^ w else el (s.me.rv d) w i)

/-- 17 R238: VSORT writes the active elements in ascending unsigned order and fills with ones; VCOMPR writes them in their order and fills
with zeros. -/
def Sys2Proof.Claims.SortAndCompress : Prop :=
  ∀ (s : State) (d a : BitVec 5) (q : BitVec 1) (k : BitVec 3), Governed s vmoveFmt →
    let w := fmtWidth (codeOr s.me.pfx.fc 4)
    let xs := (actives w (s.me.rk k)).map fun i => el (s.me.rv a) w i
    (Ends (.vsort d a q k) s fun t => ∃ ys : List Nat, ys.Perm xs ∧ ys.Pairwise (· ≤ ·) ∧
      EachEl s t d w fun i => ys.getD i (2 ^ w - 1)) ∧
    (Ends (.vcompr d a q k) s fun t => EachEl s t d w fun i => xs.getD i 0)

/-- 17 R239: the dot products. -/
def Sys2Proof.Claims.DotProducts : Prop :=
  ∀ (s : State) (d a b : BitVec 5) (q : BitVec 1) (k : BitVec 3),
    let p := s.me.pfx
    (Governed s vdot4Fmt → Ends (.vdot4 d a b q k) s fun t => EachActive s t d k 32 fun l =>
      let x := fun j => el (s.me.rv a) 8 (4 * l + j)
      let y := fun j => val 8 (decide (p.fb = 2)) (el (s.me.rv b) 8 (4 * l + j))
      let prod := fun j => if p.fa = 11 then ds8Val (x j) * y j else val 8 (decide (p.fa = 2)) (x j) * y j
      wrap 32 (sgn 32 (el (s.me.rv d) 32 l) + prod 0 + prod 1 + prod 2 + prod 3)) ∧
    (Governed s vfdotFmt → Ends (.vfdot d a b q k) s fun t => EachActiveFlags s t d k q 32 fun l =>
      kGroup (s.me.mode p) (el (s.me.rv d) 32 l)
        [(bf16.decode (el (s.me.rv a) 16 (2 * l)), bf16.decode (el (s.me.rv b) 16 (2 * l))),
         (bf16.decode (el (s.me.rv a) 16 (2 * l + 1)), bf16.decode (el (s.me.rv b) 16 (2 * l + 1)))])

/-- 17 R240: the predicate instructions, with the rule's own example word. They take no format. -/
def Obligations.PredicateInstructions : Prop :=
  encode (.klen 1 11 0) = some 0x982B00D0 ∧
  ∀ (s : State) (d a b : BitVec 3) (x y : BitVec 5) (q : BitVec 1), s.me.latchOn = false →
    let K := fun (j : Instr) (f : Nat → Bool) => Ends j s fun t => ∃ km, WroteK s t d km ∧ ∀ l, l < 16 → km.getLsbD l = f l
    K (.kand d a b q) (fun l => (s.me.rk a).getLsbD l && (s.me.rk b).getLsbD l) ∧
    K (.kor d a b q) (fun l => (s.me.rk a).getLsbD l || (s.me.rk b).getLsbD l) ∧
    K (.kxor d a b q) (fun l => (s.me.rk a).getLsbD l ^^ (s.me.rk b).getLsbD l) ∧
    K (.knot d a q) (fun l => !(s.me.rk a).getLsbD l) ∧
    K (.klen d x q) (fun l => (l : Int) < (s.me.rx x).toInt) ∧
    Ends (.kpop y a q) s (WroteX s · y (BitVec.ofNat 64 ((List.range 16).countP fun l => (s.me.rk a).getLsbD l)))

/-- 17 R236: a reduction over the active elements: the sum modulo 2^w, the smallest or largest, and the bitwise ones, whatever the tree's
shape; the result with no active element; and its extension to 64 bits. -/
def Sys2Proof.Claims.IntegerReductions : Prop :=
  ∀ (s : State) (d a : BitVec 5) (q : BitVec 1) (k : BitVec 3), Governed s vredFmt →
    let c := codeOr s.me.pfx.fc 4
    let w := fmtWidth c
    let xs := (actives w (s.me.rk k)).map fun i => el (s.me.rv a) w i
    let R := fun (j : Instr) (P : Nat → Prop) => Ends j s fun t => ∃ r, P r ∧ r < 2 ^ w ∧
      WroteX s t d (if c = 4 then BitVec.ofInt 64 (sgn w r) else BitVec.ofNat 64 r)
    let Best := fun (le : Nat → Nat → Prop) (none r : Nat) => if xs = [] then r = none else r ∈ xs ∧ ∀ x ∈ xs, le r x
    R (.vredAdd d a q k) (fun r => r = xs.sum % 2 ^ w) ∧
    R (.vredMin d a q k) (Best (fun x y => sgn w x ≤ sgn w y) (2 ^ (w - 1) - 1)) ∧
    R (.vredMax d a q k) (Best (fun x y => sgn w y ≤ sgn w x) (2 ^ (w - 1))) ∧
    R (.vredMinu d a q k) (Best (fun x y => x ≤ y) (2 ^ w - 1)) ∧ R (.vredMaxu d a q k) (Best (fun x y => y ≤ x) 0) ∧
    R (.vredAnd d a q k) (fun r => ∀ j, j < w → r.testBit j = xs.all fun x => x.testBit j) ∧
    R (.vredOr d a q k) (fun r => ∀ j, j < w → r.testBit j = xs.any fun x => x.testBit j) ∧
    R (.vredXor d a q k) (fun r => ∀ j, j < w → r.testBit j = xs.foldl (fun z x => z ^^ x.testBit j) false)

/-- 17 R236: the floating-point reductions write the FP32 bits of the tree of 06 R85 to x[d], with the flags of every node in lane 0. -/
def Sys2Proof.Claims.FloatReductions : Prop :=
  ∀ (s : State) (d a : BitVec 5) (q : BitVec 1) (k : BitVec 3), Governed s vredfFmt →
    let leaf := fun i => if (s.me.rk k).getLsbD (lane 32 i) then some (el (s.me.rv a) 32 i) else none
    let R := fun (j : Instr) (f : Nat → Nat → Nat × BitVec 5) (e : Nat) => Ends j s fun t =>
      let r := treeUp f 4 ((List.range 16).map leaf)
      Flagged s t q [(0, r.2)] { issued s.me (s.me.pc + 4) with x := t.me.x, regErr := t.me.regErr } ∧
      ∀ x, t.me.rx x = if x = d ∧ x ≠ 0 then BitVec.ofNat 64 (r.1.getD e) else s.me.rx x
    R (.vredFadd d a q k) (fadd fp32 (s.me.mode s.me.pfx) false) 0 ∧ R (.vredFmin d a q k) (fminmax fp32 false) 0x7F800000 ∧
    R (.vredFmax d a q k) (fminmax fp32 true) 0xFF800000

/-- 17 R237: a scan's active element i holds the combination of the active elements up to i: the sum modulo 2^w, or the smallest or largest
signed. -/
def Sys2Proof.Claims.IntegerScans : Prop :=
  ∀ (s : State) (d a : BitVec 5) (q : BitVec 1) (k : BitVec 3), Governed s vredFmt →
    let w := fmtWidth (codeOr s.me.pfx.fc 4)
    let upTo := fun i => ((actives w (s.me.rk k)).filter (· ≤ i)).map fun j => el (s.me.rv a) w j
    let S := fun (j : Instr) (P : List Nat → Nat → Prop) => Ends j s fun t => ∃ v, WroteV s t d v ∧ ∀ i, i < 512 / w →
      if (s.me.rk k).getLsbD (lane w i) then P (upTo i) (el v w i) else el v w i = el (s.me.rv d) w i
    S (.vscanAdd d a q k) (fun xs r => r = xs.sum % 2 ^ w) ∧
    S (.vscanMin d a q k) (fun xs r => r ∈ xs ∧ ∀ x ∈ xs, sgn w r ≤ sgn w x) ∧
    S (.vscanMax d a q k) (fun xs r => r ∈ xs ∧ ∀ x ∈ xs, sgn w x ≤ sgn w r)

/-- 17 R237: the floating-point scan combines in the rule's fixed order, raising every combination's flags in its element's lane, and none
in an inactive lane (06 R80). That a combination in an inactive lane raises nothing is the model's reading (log 21). -/
def Sys2Proof.Claims.FloatScan : Prop :=
  ∀ (s : State) (d a : BitVec 5) (q : BitVec 1) (k : BitVec 3), Governed s vredfFmt →
    let leaf := fun i => if (s.me.rk k).getLsbD (lane 32 i) then some (el (s.me.rv a) 32 i) else none
    let r := scanAll (fadd fp32 (s.me.mode s.me.pfx) false) [1, 2, 4, 8] ((List.range 16).map leaf)
    Ends (.vscanFadd d a q k) s fun t => ∃ v,
      Flagged s t q ((r.2.filter fun e => (s.me.rk k).getLsbD e.1).map fun e => (lane 32 e.1, e.2)) { issued s.me (s.me.pc + 4) with v := t.me.v, regErr := t.me.regErr } ∧
      (∀ x, t.me.rv x = if x = d then v else s.me.rv x) ∧ ∀ i, i < 16 →
        el v 32 i = if (s.me.rk k).getLsbD (lane 32 i) then ((r.1.getD i none).getD 0) % 2 ^ 32 else el (s.me.rv d) 32 i

/-- 17 R241, R223: the conversions, each element rounded once in the governing mode, its flags in the lane of the wider element. -/
def Sys2Proof.Claims.Conversions : Prop :=
  ∀ (s : State) (d a b : BitVec 5) (q : BitVec 1) (k : BitVec 3),
    let p := s.me.pfx
    let cv := fun (fa fc x : Nat) => convert (numFmt fa) (numFmt fc) (s.me.mode p) p.sat x
    let Out := fun (j : Instr) (w n : Nat) (fl : List (Nat × BitVec 5)) (f : Nat → Nat) => Ends j s fun t => ∃ v,
      Flagged s t q fl { issued s.me (s.me.pc + 4) with v := t.me.v, regErr := t.me.regErr } ∧
      (∀ x, t.me.rv x = if x = d then v else s.me.rv x) ∧ (∀ i, i < n → el v w i = f i % 2 ^ w) ∧ v.toNat < 2 ^ (n * w)
    (Governed s vcvtFmt →
      let wa := fmtWidth (codeOr p.fa 6)
      let wc := fmtWidth (codeOr p.fc 4)
      let w := max wa wc
      let r := fun i => cv (codeOr p.fa 6) (codeOr p.fc 4) (el (s.me.rv a) wa i)
      Out (.vcvt d a q k) wc (512 / w) ((actives w (s.me.rk k)).map fun i => (lane w i, (r i).2)) fun i =>
        if (s.me.rk k).getLsbD (lane w i) then (r i).1 else el (s.me.rv d) wc i) ∧
    (Governed s vpackFmt →
      let wa := fmtWidth (codeOr p.fa 6)
      let n := 512 / wa
      let r := fun i => cv (codeOr p.fa 6) (codeOr p.fc 7) (if i < n then el (s.me.rv a) wa i else el (s.me.rv b) wa (i - n))
      Out (.vpack d a b q) (fmtWidth (codeOr p.fc 7)) (2 * n) ((List.range (2 * n)).map fun i => (lane wa (i % n), (r i).2)) fun i => (r i).1) ∧
    (Governed s vunpkFmt →
      let wa := fmtWidth (codeOr p.fa 7)
      let wc := fmtWidth (codeOr p.fc 6)
      let n := 512 / wc
      let r := fun i => cv (codeOr p.fa 7) (codeOr p.fc 6) (el (s.me.rv a) wa ((s.me.rx b).toNat % 2 * n + i))
      Out (.vunpk d a b q) wc n ((List.range n).map fun i => (lane wc i, (r i).2)) fun i => (r i).1)

/-- 06 R74, R77: FMT sets the fields that govern the next instruction and changes nothing else; directly after another FMT it is
illegal (R76). -/
def Sys2Proof.Claims.PrefixGovernsTheNext : Prop :=
  ∀ (s : State) (a b c : BitVec 4) (r : BitVec 3) (z : BitVec 1) (m : BitVec 3),
    (s.me.latchOn = false → Ends (.fmt a b c r z m) s fun t => OnlyMe s t ∧ t.me.latchOn = true ∧
      t.me.pfx = ⟨a.toNat, b.toNat, c.toNat, r, z = 1, m.toNat⟩ ∧
      { t.me with latch := 0, latchOn := false } = { issued s.me (s.me.pc + 4) with latch := 0 }) ∧
    (s.me.latchOn = true → exec (.fmt a b c r z m) s = .next (s.trapMe 1 0 (s.cur.word.setWidth 64)))

/-- 17 R224, 06 R76: a prefix that breaks its instruction's row takes the illegal-instruction trap at the governed instruction; one row
each of the format table's lines. -/
def Sys2Proof.Claims.PrefixRowsAreChecked : Prop :=
  ∀ (s : State) (d a b : BitVec 5) (e : BitVec 3) (l : BitVec 4) (q : BitVec 1) (k : BitVec 3),
    let Checks := fun (i : Instr) (row : Pfx → Bool) => ¬Governed s row → exec i s = .next (s.trapMe 1 0 (s.cur.word.setWidth 64))
    Checks (.vgather d a b l q k) vmemFmt ∧ Checks (.vscatter d a b q k) vmemFmt ∧ Checks (.vadd d a b q k) vintFmt ∧
    Checks (.vsel d a b q k) vintFmt ∧ Checks (.vcmpEq e a b q k) vcmpFmt ∧ Checks (.vfadd d a b q k) vfltFmt ∧
    Checks (.vfcmpEq e a b q k) vfltFmt ∧ Checks (.vperm d a b q k) vmoveFmt ∧ Checks (.vbcast d a q k) vbcastFmt ∧
    Checks (.vredAdd d a q k) vredFmt ∧ Checks (.vredFadd d a q k) vredfFmt ∧ Checks (.vdot4 d a b q k) vdot4Fmt ∧
    Checks (.vfdot d a b q k) vfdotFmt ∧ Checks (.vcvt d a q k) vcvtFmt ∧ Checks (.vpack d a b q) vpackFmt ∧
    Checks (.vunpk d a b q) vunpkFmt

/-! ### Threads, traps, waiting and control registers (chapters 02, 13 and 14) -/

namespace Sys2Proof.Claims

/-- The executing instruction has put a message on its way (02 R28): a window waits for the status, the message is the last one, and
nothing else has changed. `rec`: it has yet to load a launch record. -/
def MessageIssued (s t : State) (d : BitVec 5) (l : BitVec 4) (scnt : BitVec 6) (rec : Bool) (o : OutMsg) : Prop :=
  OnlyMe s { t with outs := s.outs } ∧ t.outs = s.outs ++ [o] ∧ t.me = { opened s (.x d) 0xFFFF l (.message rec) none with scnt := scnt }

/-- The lowest scope that encloses two coordinate words (04 R41, 12 R174). -/
def scopeOfWords (A B : Word) : Nat :=
  let P := fun (w : Word) => w.toNat / 2 ^ 11 % 64
  let Y := fun (w : Word) => w.toNat / 2 ^ 7 % 16
  let X := fun (w : Word) => w.toNat / 2 ^ 2 % 32
  let G := fun (w : Word) => w.toNat % 4
  let chiplet := fun (w : Word) => 4 * (X w / 16) + 2 * (Y w / 8) + X w % 16 / 8
  if P A ≠ P B then 6 else if X A / 16 ≠ X B / 16 then 5 else if chiplet A ≠ chiplet B then 4
  else if X A % 2 ≠ X B % 2 then 3 else if X A ≠ X B ∨ Y A ≠ Y B then 2 else if G A ≠ G B then 1 else 0

/-- The core that a coordinate word names, and the package. -/
def coreNamed (w : Word) : Nat := w.toNat / 2 ^ 7 % 16 * 32 + w.toNat / 2 ^ 2 % 32
def packageNamed (w : Word) : Nat := w.toNat / 2 ^ 11 % 64

/-- The message of a spawn or a send (02 R28, 14 R193): the child's number, x1 to x4 and what the child takes from its parent. -/
def childMessage (s : State) (kind : Nat) (pc : Word) (payload : List Byte) : InMsg :=
  ⟨kind, s.me.lid, pc, s.me.rx 1, s.me.rx 2, s.me.rx 3, s.me.rx 4, s.me.spawnno * 64 + s.me.scnt.setWidth 64 + 1, s.me.tid, s.me.cls,
    s.me.space, s.me.rmode, s.me.ehandler, payload, [], []⟩

/-- The message's place: it leaves when the thread's release at the scope holds (14 R193). -/
def messageOut (s : State) (scope dest : Nat) (m : InMsg) : OutMsg :=
  ⟨s.cur.core, s.cur.ctx, s.me.seq, s.myCore.nextStore, s.me.gen, scope, dest, none, m⟩

/-- The thread may read a byte of its core's scratch now, and memory has it: no earlier load or queued store of the thread, watermark or
poison stands over it. -/
def ReadsMine (s : State) (loc : Nat) : Prop :=
  s.me.behind s.me.seq loc 1 = false ∧ s.belowMark loc 1 = true ∧
  (s.myCore.forward s.cur.core s.cur.ctx s.me.seq loc 1 = .mem ∨ s.myCore.forward s.cur.core s.cur.ctx s.me.seq loc 1 = .home) ∧
  mget false s.poison (loc / 8) = false

end Sys2Proof.Claims

/-- 14 R192, R193, 02 R28: SPAWN and SEND. A wrong destination and a misaligned child PC trap with the spawn count unchanged; the KIND of
the latter is the model's choice (log 18). The order of the checks, destination, PC, then descriptor, is the model's choice too (log 77). -/
def Sys2Proof.Claims.SpawnAndSend : Prop :=
  ∀ (s : State) (d a b : BitVec 5) (l : BitVec 4), s.me.latchOn = false →
    let dest := s.me.rx a
    let pc := s.me.rx b
    let w := s.me.rx d
    let off := w.toNat % 2 ^ 21
    let len := w.toNat / 2 ^ 32 % 2 ^ 9
    let S := max 1 (scopeOfWords (s.coordOf s.cur.core (groupOf s.cur.ctx)) dest)
    let There := packageNamed dest = s.pkg.pkgnum.toNat ∧ coreNamed dest ∉ s.pkg.retired
    let Descriptor := w.toNat / 2 ^ 41 = 0 ∧ w.toNat / 2 ^ 21 % 2 ^ 11 = 0 ∧ 1 ≤ len ∧ len ≤ 256 ∧ off + len ≤ 0x100000
    (There → pc.toNat % 4 = 0 → Ends (.spawn d a b l) s
      (MessageIssued s · d l (s.me.scnt + 1) false (messageOut s S (coreNamed dest) (childMessage s 1 pc [])))) ∧
    (There → pc.toNat % 4 = 0 → Descriptor → s.me.acquiring = false → s.cur.core < 2 ^ 20 →
      (∀ k, k < len → ReadsMine s (scratchAt s.cur.core + off + k)) → Ends (.send d a b l) s
        (MessageIssued s · d l (s.me.scnt + 1) false (messageOut s S (coreNamed dest)
          (childMessage s 2 pc ((List.range len).map fun k => mget 0 s.mem (scratchAt s.cur.core + off + k)))))) ∧
    (There → pc.toNat % 4 = 0 → ¬Descriptor → exec (.send d a b l) s = .next (s.trapMe 3 0 w)) ∧
    (∀ i : Instr, i = .spawn d a b l ∨ i = .send d a b l →
      (¬There → exec i s = .next (s.trapMe 3 1 dest)) ∧ (There → pc.toNat % 4 ≠ 0 → exec i s = .next (s.trapMe 2 0 pc)))

/-- 14 R194: LAUNCH sends the record's place to its base's device queue x[b][1:0], to be read after a release at scope base; a record
that is not in the executing core's scratch takes an access fault. -/
def Sys2Proof.Claims.LaunchFromTheDevice : Prop :=
  ∀ (s : State) (d a b : BitVec 5) (l : BitVec 4) (acc : Acc), s.me.latchOn = false → PassesScratch s 64 64 (s.me.rx a) acc →
    (isScratch acc.loc = true → scratchCore acc.loc = s.cur.core → Ends (.launch d a b l) s fun t => ∃ m, m.space = s.me.space ∧
      MessageIssued s t d l s.me.scnt true ⟨s.cur.core, s.cur.ctx, s.me.seq, s.myCore.nextStore, s.me.gen, 4, baseOf s.cur.core,
        some ((s.me.rx b).toNat % 4, acc.loc), m⟩) ∧
    (isScratch acc.loc = false ∨ scratchCore acc.loc ≠ s.cur.core → exec (.launch d a b l) s = .next (s.trapMe 3 0 (s.me.rx a)))

namespace Sys2Proof.Claims

/-- No deferred write is due: taking a trap applies none. -/
def NoneDue (u : Ctx) : Prop :=
  ∀ w ∈ u.windows, w.left ≠ 0 ∨ w.held = true

/-- A handler can be entered: there is one, every result has landed, and the trap is not the fetch of the handler's first word (13 R183). -/
def CanEnter (u : Ctx) (p : PendTrap) : Prop :=
  u.landed = true ∧ u.ehandler ≠ 0 ∧ ¬(u.inh = true ∧ p.pc = u.ehandler ∧ p.kind = 3)

/-- What a trap leaves of a context (13 R180, R181, R183; 06 R78): ecause, etval, epc, the prefix saved and cleared, windows held, in issue
order, stores' traps that were due held, the lock register cleared, in the handler. Every register, flag and other CSR is as before; the
errors of those written end (13 R184, log 83). -/
def entered (u : Ctx) (p : PendTrap) : Ctx :=
  { u with
    ecause := BitVec.ofNat 64 (p.imp.toNat * 2 ^ 15 + p.defer.toNat * 2 ^ 14 + u.inh.toNat * 2 ^ 13 + p.kind % 4 * 2 ^ 10 + p.cause % 256)
    etval := p.val, epc := p.pc &&& ~~~3, fmtp := u.latch, pp := u.latchOn, latchOn := false,
    windows := (bySeq u.windows).map (fun w => { w with held := true }), regErr := trapErr u.regErr, reqLost := none
    poisonHeld := mergeDue u.poisonHeld u.poisonDue, poisonDue := []
    lock := none, inh := true, pc := u.ehandler, run := .ready, stallAt := none, stallCnt := 0, todo := none, trapPend := none }

/-- A trap of context i of core n touches no other context, and beside that context only the lock bits, the retries and what waits on
misses. -/
def TrapFrame (s t : State) (n i : Nat) : Prop :=
  OnlyCores s t ∧ (∀ m j, (m, j) ≠ (n, i) → t.ctx m j = s.ctx m j) ∧
  ∀ m, { t.core m with ctxs := [], lockBits := [], lockWait := [], misses := [] } =
    { s.core m with ctxs := [], lockBits := [], lockWait := [], misses := [] }

/-- A launch of a thread ends with status 4, unless it was ending already (02 R36, 28 R364). -/
def EndsLaunch (s t : State) (lid : BitVec 32) : Prop :=
  t.launches = s.launches.map fun l => if l.lid = lid then { l with phase := match l.phase with
    | .ending q => .ending q
    | _ => .ending 4 } else l

end Sys2Proof.Claims

/-- 13 R180, R181, R183, R378, R379: taking a trap. With every result landed and no write due, the handler is entered as the rule's steps
give; with no handler the launch ends with status 4; with a result outstanding the context waits, and TRAP_ENTRY enters later. A faulted
write that is due first is taken in the trap's place, and the writes of later instructions stay held (13 R181); a store's trap that gives
way to it stays due. That a second trap holds the windows of the handler too is the model's choice (log 74). -/
def Sys2Proof.Claims.TakingATrap : Prop :=
  ∀ (s : State) (n i : Nat) (p : PendTrap),
    let u := s.ctx n i
    (NoneDue u → CanEnter u p → (s.trap n i p).ctx n i = entered u p ∧ TrapFrame s (s.trap n i p) n i ∧
      (∀ k, u.lock = some k → k.taken = true →
        ⟨lockBank k.loc, lockIdx k.loc, n, i⟩ ∉ ((s.trap n i p).core (scratchCore k.loc)).lockBits)) ∧
    (NoneDue u → u.landed = true → u.ehandler = 0 → EndsLaunch s (s.trap n i p) u.lid ∧ (s.trap n i p).ctx n i = { u with run := .stalled, trapPend := none }) ∧
    (u.landed = false → s.trap n i p = s.setCtx n i { u with trapPend := some p, run := .stalled }) ∧
    (∀ c k f q r, u.landed = true → u.ehandler ≠ 0 → u.windows = q :: r → q.left = 0 → q.held = false → q.res = some (.fault c k f) →
      k ≠ 3 → (s.trap n i p).ctx n i =
        entered { u with windows := r, poisonDue := if p.imp then mput u.poisonDue p.seq (p.cause, p.val) else u.poisonDue }
          { p with cause := c, kind := k, val := f, imp := false, defer := true })

/-- 14 R200: TRAP, and the two ways its handler may return. -/
def Obligations.TrapInstruction : Prop :=
  ∀ (s : State) (a : BitVec 5), s.me.latchOn = false → NoneDue s.me → s.me.landed = true → s.me.ehandler ≠ 0 → s.me.pc.toNat % 4 = 0 →
    Ends (.trap a) s fun t => TrapFrame s t s.cur.core s.cur.ctx ∧ t.cur = s.cur ∧
      t.me.ecause.toNat = 6 + s.me.inh.toNat * 2 ^ 13 ∧ t.me.etval = s.me.rx a ∧ t.me.epc = s.me.pc ∧ t.me.pc = s.me.ehandler ∧
      t.me.inh = true ∧ (∀ r, t.me.rx r = s.me.rx r) ∧ (∀ r, t.me.rv r = s.me.rv r) ∧ (∀ r, t.me.rk r = s.me.rk r) ∧
      (Ends .eret t fun q => q.me.pc = s.me.pc ∧ q.me.inh = false) ∧
      (Ends .eret (t.putMe { t.me with epc := t.me.epc + 4 }) fun q => q.me.pc = s.me.pc + 4 ∧ q.me.inh = false)

/-- 13 R183, 14 R201, 11 R137: ERET, in a handler or not. TRAP_ENTRY, the watchdog (13 R182) and a register's uncorrectable error:
an instruction that reads the register traps with CAUSE 5, after its illegal-instruction checks (13 R181, R184) and its wait for the
registers that are due (11 R134). -/
def Sys2Proof.Claims.ReturnAndTrapEvents : Prop :=
  ∀ s : State,
    (s.me.latchOn = false → Ends .eret s fun t => OnlyMe s t ∧ t.me = { s.me with
      latch := if s.me.pp then s.me.fmtp else s.me.latch, latchOn := s.me.pp
      windows := s.me.windows.map fun w => { tick w with held := false }
      poisonDue := mergeDue s.me.poisonDue s.me.poisonHeld, poisonHeld := []
      inh := false, pc := s.me.epc, run := .ready, stallAt := none, stallCnt := 0, yieldFor := none, todo := none }) ∧
    (∀ n i p, (s.ctx n i).trapPend = some p → NoneDue (s.ctx n i) → CanEnter (s.ctx n i) p →
      Ends (.trapEntry n i) s fun t => TrapFrame s t n i ∧ t.ctx n i = entered (s.ctx n i) p) ∧
    (∀ n i t0, let u := s.ctx n i
      u.run = .stalled → u.stallAt = some t0 → u.trapPend = none → u.todo = none → u.poisonDue = [] → s.stopped u.lid = false → NoneDue u →
      CanEnter u ⟨7, 0, 0, u.pc, false, false, 0⟩ →
      let lim := (mget Ctl.reset s.ctl (baseOf n)).wdlim.toNat
      let count := u.stallCnt + (s.clock.toNat - t0)
      (lim ≠ 0 → lim < count → Ends (.watchdogExpiry n i) s fun t =>
        TrapFrame s t n i ∧ t.ctx n i = entered u ⟨7, 0, 0, u.pc, false, false, 0⟩) ∧
      (lim = 0 ∨ count ≤ lim → exec (.watchdogExpiry n i) s = .next s)) ∧
    (∀ n i r, r ≠ .x 0 → r ≠ .k 0 → (s.ctx n i).run ≠ .idle → r ∉ (s.ctx n i).regErr → Ends (.uncorrectableRegisterError n i r) s fun t =>
      OnlyCtx s t n i ∧ t.ctx n i = { s.ctx n i with regErr := r :: (s.ctx n i).regErr }) ∧
    (∀ n i j, (s.ctx n i).todo = none → exec j s ≠ .next s.illegal →
      let Waits := ∃ q ∈ j.touches, q ∈ (s.ctx n i).dueRegs
      (Waits → s.perform n i j = .next s.stall) ∧
      (¬Waits → ∀ r ∈ j.reads, r ∈ (s.ctx n i).regErr →
        s.perform n i j = .next (s.trap n i ⟨5, 0, 0, (s.ctx n i).pc, false, false, 0⟩)))

namespace Sys2Proof.Claims

/-- Every result of the thread has landed and every store of it is acknowledged (14 R195). -/
def Quiet (s : State) : Prop :=
  s.me.landed = true ∧ ∀ e ∈ s.myCore.storeQ, e.ctx ≠ s.cur.ctx

/-- An entry has been appended to a log, or dropped and counted where it is full (28 R367). -/
def Logged (l l' : Log) (e : LogEnt) : Prop :=
  if (l.head - l.tail).toNat = 256 then l' = { l with drop := l.drop + 1 }
  else l'.head = l.head + 1 ∧ l'.tail = l.tail ∧ l'.drop = l.drop ∧
    ∀ k, mfind l'.ents k = if k = l.head.toNat % 256 then some e else mfind l.ents k

/-- What a context is once its thread has retired at a cycle: idle, of the next generation, and otherwise as at reset. -/
def retired (u : Ctx) (now : Nat) : Ctx :=
  { Ctx.reset with gen := u.gen + 1, seq := u.seq, idleAt := some now }

/-- Another context is as before, but that one whose access waits on a miss that thread i of core n sent tries again (08 R108). -/
def OtherAfterExit (s t : State) (n i m j : Nat) : Prop :=
  t.ctx m j = s.ctx m j ∨ (m = n ∧ (s.ctx m j).run = .stalled ∧ t.ctx m j = { s.ctx m j with run := .ready } ∧
    ∃ q ∈ (s.core n).misses, q.ctx = i ∧ ∃ w ∈ q.waiters, w.ctx = j)

end Sys2Proof.Claims

/-- 14 R195, 02 R35, R202: EXIT and HALT wait until the thread is quiet. EXIT then idles the context, freeing its lock, its rendezvous
entries and its slice, and abandoning its misses; HALT stops it in place and enters it in the debug log with KIND 16. -/
def Obligations.ExitAndHalt : Prop :=
  ∀ s : State, s.me.latchOn = false →
    let n := s.cur.core
    let i := s.cur.ctx
    (Quiet s → ¬(s.myCore.mx.owner = some i ∧ s.myCore.mx.op ≠ none) → Ends .exit s fun t =>
      t.ctx n i = Sys2Proof.Claims.retired s.me s.clock.toNat ∧ (∀ m j, (m, j) ≠ (n, i) → OtherAfterExit s t n i m j) ∧ OnlyCores s t ∧
      (∀ q ∈ (t.core n).misses, q.ctx ≠ i ∧ ∀ w ∈ q.waiters, w.ctx ≠ i) ∧
      (t.core n).rvt = s.myCore.rvt.filter (fun e => decide (e.holder ≠ i)) ∧
      (t.core n).mx.owner = (if s.myCore.mx.owner = some i then none else s.myCore.mx.owner) ∧
      (∀ m, (t.core m).storeQ = (s.core m).storeQ ∧ (t.core m).copyFifo = (s.core m).copyFifo) ∧
      ∀ k, s.me.lock = some k → k.taken = true → ⟨lockBank k.loc, lockIdx k.loc, n, i⟩ ∉ (t.core (scratchCore k.loc)).lockBits) ∧
    (Quiet s → Ends .halt s fun t => OnlyMe s { t with dbgLog := s.dbgLog } ∧ t.me = { s.me with run := .stopped, stallAt := none } ∧
      Logged s.dbgLog t.dbgLog ⟨s.me.pc, s.clock, s.me.lid, (s.coordOf n (groupOf i)).setWidth 17, BitVec.ofNat 7 i, 16⟩) ∧
    (¬Quiet s → exec .exit s = .next s.stall ∧ exec .halt s = .next s.stall)

/-- 14 R196, 02 R30: YIELD, and when its context is passed over: until each other context of its class that may issue has issued since, and
then no more, whatever becomes ready later. The context a lane group turns to is of its slot's class; one that issues moves the sequence on
and is seen by those that yielded. -/
def Obligations.YieldPassesOver : Prop :=
  ∀ s : State,
    (s.me.latchOn = false → Ends .yield s fun t => OnlyMe s t ∧ t.me = { issued s.me (s.me.pc + 4) with yieldFor := some [] }) ∧
    (∀ n lg c tried i,
      let Peer := fun (p : Nat) => p / 16 = lg ∧ s.canIssue n p = true ∧ (s.ctx n p).cls.toNat = c ∧ p ∉ tried
      let t := s.endYields n lg tried
      (i ∈ s.choices n lg c tried ↔ Peer i ∧ (s.ctx n i).yieldFor = none) ∧
      (i / 16 = lg → (s.ctx n i).cls.toNat = c → ∀ seen, (s.ctx n i).yieldFor = some seen →
        ((∀ p, Peer p → p = i ∨ p ∈ seen) → t.ctx n i = { s.ctx n i with yieldFor := none }) ∧
        (¬(∀ p, Peer p → p = i ∨ p ∈ seen) → t.ctx n i = s.ctx n i)) ∧
      (i / 16 ≠ lg ∨ (s.ctx n i).yieldFor = none → t.ctx n i = s.ctx n i)) ∧
    (∀ n lg tried slot i, s.pick n lg tried = some (slot, i) → slot < 15 →
      i ∈ s.choices n lg ([0, 1, 0, 2, 0, 1, 0, 3, 0, 1, 0, 2, 0, 1, 0].getD slot 0) tried) ∧
    (∀ n slot i j,
      ((s.advance n slot i).core n).slotOf (i / 16) = ⟨(slot + 1) % 15,
        setNth ((s.core n).slotOf (i / 16)).last ([0, 1, 0, 2, 0, 1, 0, 3, 0, 1, 0, 2, 0, 1, 0].getD slot 0) (i % 16), some s.clock.toNat⟩ ∧
      (s.advance n slot i).ctx n j = if j = i then s.ctx n i else
        { s.ctx n j with yieldFor := (s.ctx n j).yieldFor.map fun seen => if i ∈ seen then seen else seen ++ [i] })

namespace Sys2Proof.Claims

/-- A waiting instruction has completed with a status or a value: the thread goes on behind it. -/
def Completed (u t : Ctx) (d : BitVec 5) (v : Word) : Prop :=
  t = { issued u (u.pc + 4) with x := t.x, regErr := t.regErr } ∧ ∀ r, t.rx r = if r = d ∧ r ≠ 0 then v else u.rx r

/-- The status of a waiter: 3 where its time-out fell before this cycle, else the one that the event gives (14 R198). -/
def afterTime (s : State) (dl : Option Nat) (v : Word) : Word :=
  match dl with
  | some d => if d < s.clock.toNat then 3 else v
  | none => v

end Sys2Proof.Claims

namespace Sys2Proof.Claims

/-- The request of the executing group instruction or WAIT comes to the core of its word (15 R212 to R214): it is not on its way, no route
error has answered it, and the turn table leads it there. -/
def RequestComes (s : State) (loc : Nat) : Prop :=
  s.inMesh (.group s.cur.core s.cur.ctx s.me.seq) = false ∧ s.me.reqLost ≠ some s.me.seq ∧
  s.misrouted (coreNode s.cur.core) (homeNode loc) 3 = false

end Sys2Proof.Claims

/-- 14 R197: WAIT reads its word and goes on or waits; a store into the word that leaves it different wakes the thread with the new value,
and any store into a group word with waiters wakes each with status 1 (02 R34), or 3 where its time-out fell before (14 R198). -/
def Obligations.WaitingOnAWord : Prop :=
  ∀ (s : State) (d a b : BitVec 5) (acc : Acc),
    (s.me.latchOn = false → PassesScratch s 8 8 (s.me.rx a) acc → isRemote acc.loc = false → s.bankHas acc.loc 0 = false → s.me.behind s.me.seq acc.loc 8 = false →
      s.storesDone s.cur.core s.cur.ctx s.me.seq acc.loc 8 = true → RequestComes s acc.loc →
      let v := BitVec.ofNat 64 (valueAt s acc.loc 8)
      (anyPoison s.poison acc.loc 8 = false → v = s.me.rx b → Ends (.wait d a b) s fun t => OnlyMe s t ∧
        t.me = { s.me with run := .waiting (.word (s.me.rx a) acc.loc (s.me.rx b) d), stallAt := none }) ∧
      (anyPoison s.poison acc.loc 8 = false → v ≠ s.me.rx b → Ends (.wait d a b) s (WroteX s · d v)) ∧
      (anyPoison s.poison acc.loc 8 = true → exec (.wait d a b) s = .next (s.trapMe 5 0 (s.me.rx a)))) ∧
    (∀ n e m j, Tables s → s.entryOf n e.id = some e → isScratch e.acc.loc = true → 0 < e.acc.size →
      e.acc.loc / 8 = (e.acc.loc + e.acc.size - 1) / 8 → s.storeWay n e = true → s.mayWrite n e = true →
      (∀ va loc x r, (s.ctx m j).run = .waiting (.word va loc x r) → loc / 8 = e.acc.loc / 8 → anyPoison s.poison loc 8 = false →
        Ends (.storeWriteAtHome n e.id) s fun t =>
          let v := BitVec.ofNat 64 (valueAt t loc 8)
          if v = x then t.ctx m j = s.ctx m j else Completed (s.ctx m j) (t.ctx m j) r v) ∧
      (∀ va loc p r dl q, (s.ctx m j).run = .waiting (.bar va loc p r dl q) → loc / 8 = e.acc.loc / 8 →
        Ends (.storeWriteAtHome n e.id) s fun t => Completed (s.ctx m j) (t.ctx m j) r (afterTime s dl 1)))

namespace Sys2Proof.Claims

/-- A group instruction may act on its word: its checks pass, the thread's earlier loads have their values, the release fences before it
are satisfied, the stores it must follow are written, the word's lock bit is free (02 R32, 08 R116), no later operation has reached the
word in this cycle (05 R60), and its request comes there. The word lies in this package. -/
def GroupPasses (s : State) (va : Word) (acc : Acc) : Prop :=
  s.me.latchOn = false ∧ PassesScratch s 8 8 va acc ∧ isScratch acc.loc = true ∧ s.bankHas acc.loc 1 = false ∧
  s.me.loadsDone s.me.seq = true ∧ s.fencesOpen s.cur.core s.cur.ctx s.me.seq = true ∧
  s.storesDone s.cur.core s.cur.ctx s.me.seq acc.loc 8 = true ∧ s.lockFree acc.loc s.cur.core s.cur.ctx s.me.seq = true ∧ RequestComes s acc.loc

/-- A group instruction changes its word, its own context, the contexts that watch the word, the word's arrivals, the bank's cycle, the lock
retries and L1 lines, nothing else; what a WAIT that watches the word does at the change is stated with WAIT. -/
def GroupFrame (s t : State) (loc : Nat) : Prop :=
  t.cur = s.cur ∧
  ((∀ m j va l x r, (s.ctx m j).run = .waiting (.word va l x r) → l / 8 ≠ loc / 8) → { t with cores := s.cores, mem := s.mem } = s ∧
    ∀ m, { t.core m with ctxs := [], lockWait := [], l1 := [], arrs := [], bankAt := 0, bankOps := [] } =
      { s.core m with ctxs := [], lockWait := [], l1 := [], arrs := [], bankAt := 0, bankOps := [] }) ∧
  ∀ m j, (m, j) ≠ (s.cur.core, s.cur.ctx) → (∀ w, (s.ctx m j).run = .waiting w → watches w (loc / 8) = false) → t.ctx m j = s.ctx m j

/-- The word has been released: every waiter of it goes on with status 0, and its arrivals are over (02 R33). -/
def Woken (s t : State) (loc : Nat) : Prop :=
  (t.core (scratchCore loc)).arrs = (s.core (scratchCore loc)).arrs.filter (fun a => decide (a.loc ≠ loc)) ∧ ∀ m j va p r dl q, (m, j) ≠ (s.cur.core, s.cur.ctx) → (s.ctx m j).run = .waiting (.bar va loc p r dl q) →
    Completed (s.ctx m j) (t.ctx m j) r (afterTime s dl 0)

/-- The release of every arriver holds at the scope that encloses them, those whose BART has timed out among them (02 R33, R34). -/
def Releasable (s : State) (loc : Nat) : Prop :=
  s.gwReady (s.gwScope loc (s.gwArrs loc)) (s.gwArrs loc) = true

end Sys2Proof.Claims

/-- 02 R33, 14 R198: JOIN, LEAVE, BAR and BART on a word that is not poisoned, with each of their statuses; a BART that times out. A thread
that waits keeps its pc and goes on when it is woken. -/
def Sys2Proof.Claims.GroupInstructions : Prop :=
  ∀ (s : State) (d a b : BitVec 5) (l : BitVec 4) (acc : Acc), Tables s →
    (s.me.run = .ready → GroupPasses s (s.me.rx a) acc → anyPoison s.poison acc.loc 8 = false →
      let w := valueAt s acc.loc 8
      let members := w % 2 ^ 20
      let arrived := w / 2 ^ 20 % 2 ^ 20
      let phase := w / 2 ^ 40 % 2
      let bad := w / 2 ^ 41 ≠ 0
      let flipped := fun (k : Nat) => k + (1 - phase) * 2 ^ 40
      let Ok := fun (t : State) (v : Nat) => GroupFrame s t acc.loc ∧ Wrote s t acc.loc 8 v
      let Opens := fun (t : State) (join : Bool) (r : Nat) => t.me = opened s (.x d) 0xFFFF l (.group acc join) (some (.val (BitVec.ofNat 512 r)))
      let Ready := Releasable s acc.loc
      let deadline := fun (x : Word) => if x = 0 then none else some (s.clock.toNat + min x.toNat (2 ^ 32 - 1))
      let Bar := fun (i : Instr) (dl : Option Nat) =>
        (bad ∨ members = 0 → Ends i s fun t => Ok t w ∧ Completed s.me t.me d 2) ∧
        (¬bad → members ≠ 0 → members ≤ arrived + 1 → Ready → Ends i s fun t => Ok t (flipped members) ∧ Completed s.me t.me d 0 ∧ Woken s t acc.loc) ∧
        (¬bad → members ≠ 0 → arrived + 1 < members → Ends i s fun t => Ok t (w + 2 ^ 20) ∧
          (t.core (scratchCore acc.loc)).arrs = (s.core (scratchCore acc.loc)).arrs ++
            [⟨acc.loc, s.cur.core, s.cur.ctx, s.me.seq, s.myCore.nextStore⟩] ∧
          t.me = { s.me with run := .waiting (.bar (s.me.rx a) acc.loc (phase = 1) d dl s.myCore.nextStore), stallAt := none })
      (Ends (.join d a l) s fun t =>
        if bad ∨ members = 2 ^ 20 - 1 then Ok t w ∧ Opens t true 2 else Ok t (w + 1) ∧ Opens t true 0) ∧
      (bad ∨ members = 0 → Ends (.leave d a l) s fun t => Ok t w ∧ Opens t false 2) ∧
      (¬bad → members ≠ 0 → members = 1 ∨ arrived < members - 1 → Ends (.leave d a l) s fun t => Ok t (w - 1) ∧ Opens t false 0) ∧
      (¬bad → 1 < members → members - 1 ≤ arrived → Ready → Ends (.leave d a l) s fun t =>
        Ok t (flipped (members - 1)) ∧ Opens t false 0 ∧ Woken s t acc.loc) ∧
      Bar (.bar d a) none ∧ Bar (.bart d a b) (deadline (s.me.rx b))) ∧
    (∀ n i va loc p r dl q, (s.ctx n i).run = .waiting (.bar va loc p r (some dl) q) →
      (dl < s.clock.toNat → Ends (.bartTimeout n i) s fun t => OnlyCtx s t n i ∧ Completed (s.ctx n i) (t.ctx n i) r 3) ∧
      (s.clock.toNat ≤ dl → exec (.bartTimeout n i) s = .next s))

/-- 02 R34, 13 R184, 14 R198: a group instruction on a poisoned word leaves it as it is; JOIN and LEAVE bring the fault in place of their
write, BAR and BART trap. -/
def Sys2Proof.Claims.PoisonedGroupWord : Prop :=
  ∀ (s : State) (d a b : BitVec 5) (l : BitVec 4) (acc : Acc), GroupPasses s (s.me.rx a) acc → anyPoison s.poison acc.loc 8 = true →
    let Same := fun (t : State) => ∀ x, mget 0 t.mem x = mget 0 s.mem x
    let Faults := fun (join : Bool) (t : State) =>
      Same t ∧ t.me = opened s (.x d) 0xFFFF l (.group acc join) (some (.fault 5 2 (s.me.rx a)))
    Ends (.join d a l) s (Faults true) ∧ Ends (.leave d a l) s (Faults false) ∧
    (∀ i : Instr, i = .bar d a ∨ i = .bart d a b → NoneDue s.me → s.me.landed = true → s.me.ehandler ≠ 0 → Ends i s fun t =>
      Same t ∧ t.me = entered s.me ⟨5, 2, s.me.rx a, s.me.pc, false, false, 0⟩)

namespace Sys2Proof.Claims

/-- A thread of core n waits in HBAR on a wire: 0 its row, 1 its column, 2 the mesh of its base. -/
def OnWire (s : State) (base kind idx n : Nat) : Prop :=
  ∃ j d since dl, (s.ctx n j).run = .waiting (.hbar kind d since dl) ∧ baseOf n = base ∧ wireIdx kind n = idx

/-- The same where neither the thread's time-out nor a release since it began has lowered its arrival (14 R199). -/
def Raised (s : State) (base kind idx n : Nat) : Prop :=
  ∃ j d since dl, (s.ctx n j).run = .waiting (.hbar kind d since dl) ∧ baseOf n = base ∧ wireIdx kind n = idx ∧
    (∀ q, dl = some q → s.clock.toNat ≤ q) ∧ ∀ r, (base, kind, idx, r) ∈ s.pkg.wireDue → s.clock.toNat ≤ r ∨ r < since

/-- Someone waits on the wire and every core of its set counts as arrived: it is retired, parked and excused, or has a waiting thread
whose arrival is raised (15 R218). -/
def WireComplete (s : State) (base kind idx : Nat) : Prop :=
  (∃ n, OnWire s base kind idx n) ∧ ∀ n, n < 512 → baseOf n = base → wireIdx kind n = idx →
    n ∈ s.pkg.retired ∨ (if (s.core n).parked = true then (s.core n).excuse = true else Raised s base kind idx n)

/-- Every wire that is complete is due, no earlier than now; one that was due stays so, whatever arrivals are lowered (14 R199, 15 R219), and
one that was not is complete and due 9 cycles from now on the mesh wire, 5 on another. -/
def WiresFollow (s t : State) : Prop :=
  { t.pkg with wireDue := [] } = { s.pkg with wireDue := [] } ∧
  (∀ base kind idx, WireComplete t base kind idx → ∃ due, (base, kind, idx, due) ∈ t.pkg.wireDue ∧ s.clock.toNat ≤ due) ∧
  (∀ e ∈ s.pkg.wireDue, e ∈ t.pkg.wireDue) ∧
  ∀ e ∈ t.pkg.wireDue, e ∈ s.pkg.wireDue ∨
    (WireComplete t e.1 e.2.1 e.2.2.1 ∧ e.2.2.2 = s.clock.toNat + (if e.2.1 = 2 then 9 else 5) ∧
      ∀ r, (e.1, e.2.1, e.2.2.1, r) ∈ s.pkg.wireDue → r < s.clock.toNat)

end Sys2Proof.Claims

/-- 14 R199, 15 R218: HBAR, whose core's arrival is raised in the cycle of its issue (log 89), the release of a wire, which frees each thread
that waits on it in that cycle and wins where the thread's time-out does not fall before, and the time-out. -/
def Obligations.BarrierWires : Prop :=
  ∀ (s : State), Tables s →
    (∀ d a b : BitVec 5, s.me.latchOn = false →
      let k := (s.me.rx a).toNat % 4
      let dl := if s.me.rx b = 0 then none else some (s.clock.toNat + min (s.me.rx b).toNat (2 ^ 32 - 1))
      (k = 3 → Ends (.hbar d a b) s (WroteX s · d 2)) ∧
      (k ≠ 3 → Ends (.hbar d a b) s fun t => OnlyMe s { t with pkg := s.pkg } ∧ WiresFollow s t ∧
        t.me = { s.me with run := .waiting (.hbar k d s.clock.toNat dl), stallAt := none })) ∧
    (∀ base wire idx,
      (∀ due, s.pkg.wireDue.find? (fun e => decide (e.1 = base ∧ e.2.1 = wire ∧ e.2.2.1 = idx ∧ e.2.2.2 ≤ s.clock.toNat)) =
          some (base, wire, idx, due) → Ends (.wireRelease base wire idx) s fun t =>
        { t with cores := s.cores, pkg := s.pkg } = s ∧
        t.pkg = (if due < s.clock.toNat then
          { s.pkg with wireDue := s.pkg.wireDue.filter fun e => decide (e ≠ (base, wire, idx, due)) } else s.pkg) ∧
        (∀ m, { t.core m with ctxs := [] } = { s.core m with ctxs := [] }) ∧ ∀ m j,
          (∀ r since dl, (s.ctx m j).run = .waiting (.hbar wire r since dl) → baseOf m = base → wireIdx wire m = idx → since ≤ due →
            Completed (s.ctx m j) (t.ctx m j) r (match dl with
              | some d => if d < due then 3 else 0
              | none => 0)) ∧
          ((∀ r since dl, (s.ctx m j).run = .waiting (.hbar wire r since dl) → baseOf m ≠ base ∨ wireIdx wire m ≠ idx ∨ due < since) →
            t.ctx m j = s.ctx m j)) ∧
      ((∀ due, (base, wire, idx, due) ∈ s.pkg.wireDue → s.clock.toNat < due) → exec (.wireRelease base wire idx) s = .next s)) ∧
    (∀ n i k r since dl, (s.ctx n i).run = .waiting (.hbar k r since (some dl)) → dl ≤ s.clock.toNat →
      let Wins := ∃ due, (baseOf n, k, wireIdx k n, due) ∈ s.pkg.wireDue ∧ since ≤ due ∧ due ≤ dl
      (¬Wins → Ends (.hbarTimeout n i) s fun t => OnlyCtx s { t with pkg := s.pkg } n i ∧ WiresFollow s t ∧
        Completed (s.ctx n i) (t.ctx n i) r 3) ∧
      (Wins → exec (.hbarTimeout n i) s = .next s))

/-- 14 R203, 08 R106: TLBW and TLBI on a translation core, for a target of its chiplet; on a compute core they are illegal. TLBI goes on
once no access that a removed entry translated, nor a bank command pushed with it, is still on its way. A malformed entry is illegal
whatever the target (13 R181). -/
def Obligations.TranslationInstructions : Prop :=
  ∀ (s : State) (d a b : BitVec 5), s.me.latchOn = false →
    let w := s.me.rx d
    let n := coreNamed w
    let Mine := packageNamed w = s.pkg.pkgnum.toNat ∧ chipletOf n = s.cur.core - 512 ∧ n ∉ s.pkg.retired
    let e : TlbEntry := ⟨s.me.rx a, s.me.rx b⟩
    let mode := (s.me.rx b).toNat / 2 ^ 12 % 4
    let hits := fun (q : TlbEntry) => if mode = 0 then q.hit ((s.me.rx b).setWidth 12) (s.me.rx a) else if mode = 1 then
      decide (q.te0.toNat % 2 ^ 12 = (s.me.rx b).toNat % 2 ^ 12) else true
    let Others := fun (t : State) => (∀ m, m ≠ n → m ≠ s.cur.core → t.core m = s.core m) ∧
      { t.core s.cur.core with ctxs := [] } = { s.myCore with ctxs := [] } ∧ ∀ j, j ≠ s.cur.ctx → t.ctx s.cur.core j = s.ctx s.cur.core j
    (512 ≤ s.cur.core → Mine →
      (e.malformed = false → Ends (.tlbw d a b) s fun t => t.me = issued s.me (s.me.pc + 4) ∧ (t.core n).tlb.head? = some e ∧
        (∀ q ∈ (t.core n).tlb, q = e ∨ q ∈ (s.core n).tlb) ∧
        (t.core n).misses = (s.core n).misses.filter (fun m => !e.hit m.space m.va || m.failed) ∧
        (∀ x, mget 0 t.mem x = mget 0 s.mem x) ∧ Others t) ∧
      (mode ≠ 3 → (∀ q ∈ (s.core n).tlb, hits q = true → (s.core n).uses q = false ∧ s.bankUses n q = false) → Ends (.tlbi d a b) s fun t =>
        t.me = issued s.me (s.me.pc + 4) ∧ t.core n = { s.core n with tlb := (s.core n).tlb.filter fun q => !hits q } ∧
        OnlyCores s t ∧ Others t) ∧
      (mode = 3 → exec (.tlbi d a b) s = .next (s.trapMe 3 1 (s.me.rx b)))) ∧
    (e.malformed = true → exec (.tlbw d a b) s = .next (s.trapMe 1 0 (s.cur.word.setWidth 64))) ∧
    (∀ i : Instr, (i = .tlbw d a b ∧ e.malformed = false) ∨ i = .tlbi d a b →
      (512 ≤ s.cur.core → ¬Mine → exec i s = .next (s.trapMe 3 1 w)) ∧
      (s.cur.core < 512 → exec i s = .next (s.trapMe 1 0 (s.cur.word.setWidth 64))))

namespace Sys2Proof.Claims

/-- The value that a CSR instruction gives: 0 writes, 1 sets, 2 clears (14 R204). -/
def csrResult (how : Nat) (old x : Word) : Word :=
  if how = 0 then x else if how = 1 then old ||| x else old &&& ~~~x

/-- tagcfg as it reads (08 R117). -/
def tagcfgWord (k : Core) : Word :=
  BitVec.ofNat 64 (k.tagEn.toNat * 2 ^ 31 + k.tagSize.toNat * 2 ^ 24 + k.tagSets.toNat * 2 ^ 20 + k.tagBase.toNat * 2 ^ 8)

/-- A change of a per-core CSR: flgsum, mxidle, and tagcfg, where a bad write is ignored whole and any other invalidates every entry (06 R81,
08 R117, 14 R208); scopecost keeps its value (04 R43). -/
def coreChange (k : Core) (h : CsrChange) : Core :=
  if h.csr = 0x100 then { k with flgsum := (csrResult h.how (k.flgsum.setWidth 64) h.val).setWidth 5 }
  else if h.csr = 0x102 then { k with mxidle := (csrResult h.how (k.mxidle.setWidth 64) h.val).setWidth 24 }
  else if h.csr = 0x104 then
    let v := csrResult h.how (tagcfgWord k) h.val
    let size := v.toNat / 2 ^ 24 % 16
    let sets := v.toNat / 2 ^ 20 % 16
    let base := v.toNat / 2 ^ 8 % 2 ^ 12
    if size ≤ 6 ∧ sets ≤ 8 ∧ base % 2 ^ size = 0 ∧ base * 256 + 4 * 2 ^ sets * (256 * 2 ^ size) ≤ 0xFC000 then
      { k with tagEn := v.getLsbD 31, tagSize := BitVec.ofNat 4 size, tagSets := BitVec.ofNat 4 sets, tagBase := BitVec.ofNat 12 base,
               tags := [], tagLru := [] }
    else k
  else k

/-- The numbers of 14 R205, and those whose access is R. -/
def csrNumbers : List (BitVec 12) :=
  [0x000, 0x001, 0x002, 0x003, 0x004, 0x005, 0x006, 0x007, 0x008, 0x009, 0x00A, 0x00B, 0x00C, 0x00D, 0x00E, 0x040, 0x041, 0x042, 0x043,
   0x100, 0x101, 0x102, 0x103, 0x104, 0x110, 0x111, 0x112, 0x113, 0x114, 0x115, 0x116, 0x117]

def csrReadOnly : List (BitVec 12) :=
  [0x000, 0x001, 0x002, 0x003, 0x101, 0x103]

/-- The active instances of a level in this package (04 R39, R43). -/
def activeInstances (s : State) (l : Nat) : Nat :=
  let act := (List.range 512).filter fun n => decide (n ∉ s.pkg.retired)
  let some := fun (f : Nat → Nat) (k : Nat) => ((List.range k).filter fun j => act.any fun n => decide (f n = j)).length
  if l = 0 then 4 * act.length else if l = 1 then act.length else if l = 2 then some (fun n => chipletOf n * 2 + coreX n % 2) 16
  else if l = 3 then some chipletOf 8 else if l = 4 then some baseOf 2 else if l = 5 then (if act = [] then 0 else 1) else 1

/-- The executing core's instance id at a level, lane group 0 for level 0 (04 R39). -/
def instanceOf (s : State) (l : Nat) : Nat :=
  let p := s.pkg.pkgnum.toNat
  let n := s.cur.core
  if l = 0 then (p * 512 + n) * 4 else if l = 1 then p * 512 + n else if l = 2 then p * 16 + chipletOf n * 2 + coreX n % 2
  else if l = 3 then p * 8 + chipletOf n else if l = 4 then p * 2 + baseOf n else if l = 5 then p else 0

end Sys2Proof.Claims

/-- 14 R204 to R208, 06 R79, R81, 13 R180, 24 R307, 04 R43, R44: what each CSR reads as, and what a write, set or clear of each writable
one changes: the CSR under its rule, and x[d], which takes the old value. A thread's CSR changes at once, a core's at the end of the
cycle, in the order of issue, to the value made from the one read at issue (but flgsum's sets and clears add up), and a flag raised in the
cycle then counts whatever a clear did. A change of the excuse bit takes effect there too (15 R219). A number that R205 does not list, and
a write of a CSR whose access is R, are illegal. Choices of the model: COUNT adds to this package's instances the numbers that firmware
found for the others (log 20), and a CSR write of a flag register raises nothing and leaves flgsum alone (log 80). -/
def Obligations.ControlRegisters : Prop :=
  ∀ (s : State) (d a : BitVec 5), s.me.latchOn = false →
    let u := s.me
    let k := s.myCore
    let reads : List (BitVec 12 × Word) := [(0x000, u.tid.setWidth 64), (0x001, u.lid.setWidth 64),
      (0x002, s.coordOf s.cur.core (groupOf s.cur.ctx)), (0x003, u.spawnno), (0x004, u.rmode.setWidth 64), (0x005, u.vflg0),
      (0x006, u.vflg1), (0x007, u.fmtp.setWidth 64), (0x009, u.cvd.setWidth 64), (0x00A, u.cvf.setWidth 64),
      (0x00B, BitVec.ofNat 64 (u.qtb.toNat * 2 ^ 8)), (0x00C, u.qstr.setWidth 64), (0x00D, u.qbat.setWidth 64), (0x00E, u.mxprog),
      (0x008, BitVec.ofNat 64 (u.space.toNat * 2 ^ 16 + u.inh.toNat * 2 ^ 15 + u.pp.toNat * 2 ^ 14 + u.scnt.toNat * 2 ^ 8 + u.cls.toNat)),
      (0x040, u.epc), (0x041, u.ecause), (0x042, u.etval), (0x043, u.ehandler), (0x100, k.flgsum.setWidth 64), (0x101, s.clock),
      (0x102, k.mxidle.setWidth 64), (0x103, 180), (0x104, tagcfgWord k)]
    let Others := fun (t : State) => t.cur = s.cur ∧ OnlyCore s t s.cur.core ∧ ∀ j, j ≠ s.cur.ctx → t.ctx s.cur.core j = s.ctx s.cur.core j
    let OldTo := fun (t : State) (c : BitVec 12) => ∀ r, t.me.rx r = if r = d ∧ r ≠ 0 then s.csr c.toNat else u.rx r
    let forms := fun (c : BitVec 12) => [(Instr.csrw d a c, 0), (Instr.csrs d a c, 1), (Instr.csrc d a c, 2)]
    let Writes := fun (c : BitVec 12) (f : Word → Ctx → Ctx) => ∀ p ∈ forms c, Ends p.1 s fun t => Others t ∧
      { t.core s.cur.core with ctxs := [] } = { k with ctxs := [] } ∧
      t.me = { f (csrResult p.2 (s.csr c.toNat) (u.rx a)) (issued u (u.pc + 4)) with x := t.me.x, regErr := t.me.regErr } ∧ OldTo t c
    let WritesCore := fun (c : BitVec 12) => ∀ p ∈ forms c, Ends p.1 s fun t => Others t ∧
      { t.core s.cur.core with ctxs := [] } = { k with ctxs := [], csrDue := k.csrDue ++ [
        if c = 0x100 then ⟨c.toNat, p.2, u.rx a⟩ else ⟨c.toNat, 0, csrResult p.2 (s.csr c.toNat) (u.rx a)⟩] } ∧
      t.me = { issued u (u.pc + 4) with x := t.me.x, regErr := t.me.regErr } ∧ OldTo t c
    (∀ p ∈ reads, s.csr p.1.toNat = p.2 ∧ Ends (.csrr d p.1) s (WroteX s · d p.2)) ∧
    (∀ l < 8, s.pkg.scopeBoot = true →
      let n := if l < 6 then activeInstances s l + s.pkg.podCounts.getD l 0 else 1
      let c : BitVec 12 := 0x110 + BitVec.ofNat 12 l
      n < 2 ^ 18 → Ends (.csrr d c) s (WroteX s · d (s.csr c.toNat)) ∧ (s.csr c.toNat).toNat =
        [4, 24, 60, 140, 1400, 2800, 8400, 9800].getD l 0 * 2 ^ 48 + [2, 6, 14, 30, 90, 260, 1800, 2400].getD l 0 * 2 ^ 36 +
          n * 2 ^ 18 + instanceOf s l % 2 ^ 18) ∧
    Writes 0x004 (fun v u => if v.toNat % 8 < 5 then { u with rmode := v.setWidth 3 } else u) ∧
    Writes 0x005 (fun v u => { u with vflg0 := v &&& 0x1F1F1F1F1F1F1F1F }) ∧
    Writes 0x006 (fun v u => { u with vflg1 := v &&& 0x1F1F1F1F1F1F1F1F }) ∧
    Writes 0x007 (fun v u => { u with fmtp := v.setWidth 19 }) ∧
    Writes 0x008 (fun v u => { u with pp := v.getLsbD 14 }) ∧
    Writes 0x009 (fun v u => let b := v.toNat / 16 % 2 ^ 7; let n := v.toNat % 16
      if v.toNat % 2 ^ 11 = 0 ∨ (1 ≤ n ∧ n ≤ 8 ∧ 1 ≤ b ∧ n * b ≤ 64) then { u with cvd := v.setWidth 11 } else u) ∧
    Writes 0x00A (fun v u => { u with cvf := v.setWidth 8 }) ∧ Writes 0x00B (fun v u => { u with qtb := (v >>> 8).setWidth 13 }) ∧
    Writes 0x00C (fun v u => if v.toNat % 8 < 5 then { u with qstr := v.setWidth 3 } else u) ∧
    Writes 0x00D (fun v u => { u with qbat := v.setWidth 16 }) ∧ Writes 0x040 (fun v u => { u with epc := v &&& ~~~3 }) ∧
    Writes 0x041 (fun v u => { u with ecause := v &&& 0xECFF }) ∧ Writes 0x042 (fun v u => { u with etval := v }) ∧
    Writes 0x043 (fun v u => { u with ehandler := v &&& ~~~3 }) ∧
    Writes 0x00E (fun v u => { u with mxprog := mxprogPut u.mxprog v }) ∧
    WritesCore 0x100 ∧ WritesCore 0x102 ∧ WritesCore 0x104 ∧ (∀ l < 8, WritesCore (0x110 + BitVec.ofNat 12 l)) ∧
    (∀ n m, Tables s → 1 ≤ m → (s.cycles m).clock = s.clock + BitVec.ofNat 64 m ∧
      let e := (s.core n).csrDue.foldl coreChange (s.core n)
      (s.cycles m).core n = { e with
        flgsum := e.flgsum ||| (s.core n).raiseDue, csrDue := [], raiseDue := 0, excuse := (s.core n).excuseDue.getD (s.core n).excuse,
        excuseDue := none }) ∧
    (∀ n i (o : BitVec 2) (c : BitVec 12), c ∉ csrNumbers ∨ (o ≠ 0 ∧ c ∈ csrReadOnly) →
      let w : BitVec 32 := 0x35#6 ++ d ++ a ++ o ++ 0#2 ++ c
      s.decodeStep n i w = .stop (({ s with cur := { s.cur with core := n, ctx := i, word := w } } : State).trapMe 1 0 (w.setWidth 64))) ∧
    ∀ v : Word, ∀ j < 64, (mxprogPut u.mxprog v).getLsbD j = if j < 10 ∨ j = 46 then false
      else if 60 ≤ j ∧ 5 ≤ v.toNat / 2 ^ 60 then u.mxprog.getLsbD j else v.getLsbD j

/-! ### Copy engines and the tag table (chapter 18; 08 R117, R118) -/

namespace Sys2Proof.Claims

/-- Register i of a quad (18 R253). -/
def quadWord (s : State) (a : BitVec 3) (i : Nat) : Word :=
  s.me.rx (BitVec.ofNat 5 (4 * a.toNat + i))

/-- Only the executing core has changed, of its contexts only the executing one, and beside the contexts only what `f` clears. -/
def CoreKeeps (s t : State) (f : Core → Core) : Prop :=
  let n := s.cur.core
  t.cur = s.cur ∧ OnlyCore s t n ∧ (∀ j, j ≠ s.cur.ctx → t.ctx n j = s.ctx n j) ∧
  f { t.core n with ctxs := [] } = f { s.core n with ctxs := [] }

/-- The executing context goes on as `u`, with x[d] holding v. -/
def GoesOn (s t : State) (u : Ctx) (d : BitVec 5) (v : Word) : Prop :=
  t.me = { u with x := t.me.x, regErr := t.me.regErr } ∧ ∀ r, t.me.rx r = if r = d ∧ r ≠ 0 then v else s.me.rx r

/-- The command that the executing thread pushes with a register quad (18 R242, R243, R254). -/
def pushed (s : State) (a : BitVec 3) : CopyCmd :=
  let w := quadWord s a
  ⟨s.myCore.nextCmd, s.cur.ctx, s.me.gen, s.me.lid, s.me.seq, s.myCore.nextStore, s.me.space, s.me.rmode, w 0, w 1, w 2, w 3,
    (s.myCore.chan ((w 0).toNat / 2 ^ 56 % 16)).phase, false, 0, none, [], [], 0, false, none, []⟩

/-- The request has been accepted: last in the FIFO, with a place in the thread's record queue (18 R254). -/
def Accepted (s t : State) (a : BitVec 3) : Prop :=
  CoreKeeps s t (fun c => { c with copyFifo := [], nextCmd := 0 }) ∧ (t.core s.cur.core).nextCmd = s.myCore.nextCmd + 1 ∧
  (t.core s.cur.core).copyFifo = s.myCore.copyFifo ++ [pushed s a]

/-- The context after acceptance. -/
def afterPush (s : State) (a : BitVec 3) : Ctx :=
  { issued s.me (s.me.pc + 4) with
    copyQ := s.me.copyQ ++ [⟨s.myCore.nextCmd, (quadWord s a 0).toNat / 2 ^ 56 % 16, none, [], false⟩], seq := s.me.seq + 1 }

/-- A record has been popped (18 R256, 26 R334): its L1 lines dropped, its flags ORed into lane 0 and what flgsum takes at the end of the
cycle, its word in x[d]; `u` is the context with the record gone. That a record restored from a save region drops every line is the model's
choice (log 22). -/
def Popped (s t : State) (d : BitVec 5) (r : RecSlot) (w : Word) (F : BitVec 5) (u : Ctx) : Prop :=
  CoreKeeps s t (fun c => { c with l1 := [], raiseDue := 0 }) ∧
  (t.core s.cur.core).raiseDue = s.myCore.raiseDue ||| F ∧
  (t.core s.cur.core).l1 = (if r.anyRange then [] else s.myCore.l1.filter fun e => r.ranges.all fun g => !meets (e.1 * 64) 64 g.1 g.2) ∧
  { t.me with vflg0 := 0 } = { u with vflg0 := 0, x := t.me.x, regErr := t.me.regErr } ∧
  (∀ l, l < 16 → laneFlags t.me l = laneFlags s.me l ||| (if l = 0 then F else 0)) ∧
  ∀ x, t.me.rx x = if x = d ∧ x ≠ 0 then w else s.me.rx x

/-- Has a channel a command in the FIFO or a record not yet popped (18 R255)? -/
def ChannelBusy (s : State) (k : Nat) : Prop :=
  (∃ r ∈ s.myCore.copyFifo, r.chan = k) ∨ ∃ j, ∃ r ∈ (s.ctx s.cur.core j).copyQ, r.chan = k

end Sys2Proof.Claims

/-- 18 R254 to R257: pushing, binding, unbinding, popping and reading the state of a copy channel. What a pop clears where a record says
nothing of its range, the whole L1, is the model's choice (log 22). -/
def Obligations.CopyInstructions : Prop :=
  ∀ (s : State) (d a b : BitVec 5) (q : BitVec 3), Tables s → s.me.latchOn = false →
    let c := s.myCore
    let n := s.cur.core
    let k := (s.me.rx a).toNat % 16
    let w := s.me.rx b
    let base := w.toNat % 2 ^ 21
    let size := w.toNat / 2 ^ 32 % 2 ^ 21
    let Valid := w.toNat / 2 ^ 21 % 2 ^ 11 = 0 ∧ w.toNat / 2 ^ 53 = 0 ∧ base % 64 = 0 ∧ size % 64 = 0 ∧ 64 ≤ size ∧ base + size ≤ 0xFC000 ∧
      ¬∃ e ∈ c.chans, e.1 ≠ k ∧ ∃ o, e.2.bound = some o ∧ o.base < base + size ∧ base < o.base + o.size
    let h := c.chan k
    let Channel := fun (t : State) (h' : Chan) => CoreKeeps s t (fun c => { c with chans := [] }) ∧ (t.core n).chan k = h' ∧
      ∀ j, j ≠ k → (t.core n).chan j = c.chan j
    let next := issued s.me (s.me.pc + 4)
    let Full := 16 ≤ c.copyFifo.length
    let Many := 16 ≤ s.me.copyQ.length
    (¬Full → ¬Many → (Ends (.copy q) s fun t => Accepted s t q ∧ t.me = afterPush s q) ∧
      Ends (.copyt d q) s fun t => Accepted s t q ∧ GoesOn s t (afterPush s q) d 0) ∧
    (Full ∨ Many → exec (.copy q) s = .next s.stall ∧ Ends (.copyt d q) s (WroteX s · d (if Full then 1 else 2))) ∧
    (Valid → ¬ChannelBusy s k → Ends (.cpbind d a b) s fun t =>
      Channel t ⟨some ⟨s.cur.ctx, s.me.gen, s.me.lid, base, size, []⟩, !h.phase, h.stopAddr⟩ ∧
      GoesOn s t next d (if h.phase then 0 else 256)) ∧
    (¬Valid → Ends (.cpbind d a b) s (WroteX s · d (2 + if h.phase then 256 else 0))) ∧
    (Valid → ChannelBusy s k → Ends (.cpbind d a b) s (WroteX s · d (1 + if h.phase then 256 else 0))) ∧
    (h.bound ≠ none → ¬ChannelBusy s k → Ends (.cpunb d a) s fun t => Channel t { h with bound := none } ∧ GoesOn s t next d 0) ∧
    (h.bound = none ∨ ChannelBusy s k → Ends (.cpunb d a) s (WroteX s · d (if h.bound = none then 2 else 1))) ∧
    (s.me.copyQ = [] → Ends (.cppop d) s (WroteX s · d 0xF000000000000000)) ∧
    (∀ r rest, s.me.copyQ = r :: rest →
      (∀ v, r.record = some v → Ends (.cppop d) s (Popped s · d r v (v.extractLsb' 40 5) { next with copyQ := rest })) ∧
      (r.record = none → exec (.cppop d) s = .next s.stall)) ∧
    Ends (.cpstat d a) s (WroteX s · d (if (s.me.rx a).getLsbD 4 then h.stopAddr else BitVec.ofNat 64 (
      (if h.bound = none then 0 else 2 ^ 63) + (if h.phase then 2 ^ 62 else 0) + c.copyFifo.countP (fun r => r.chan = k) * 2 ^ 53 +
      (c.ctxs.map fun e => e.2.copyQ.countP fun r => decide (r.chan = k) && r.record.isSome).sum * 2 ^ 42 +
      match h.bound with
      | some o => o.wm * 2 ^ 21 + o.base
      | none => 0)))

namespace Sys2Proof.Claims

/-- A byte of the window that the channel has written. -/
def covered (b : Binding) (x : Nat) : Prop :=
  ∃ r ∈ b.written, r.1 ≤ x ∧ x < r.1 + r.2

/-- The command at a channel's head, running, not ended, with no word of its source kept; the translations of its pieces that it keeps
are those that the core gives now (08 R105). -/
def Running (s : State) (n k : Nat) (c : CopyCmd) : Prop :=
  (s.core n).headCmd k = some c ∧ c.running = true ∧ c.malformed = false ∧ c.stop = none ∧ c.done < c.len ∧ c.words = [] ∧
  ∀ role run va size a, va.toNat / 4096 = (va.toNat + size - 1) / 4096 → c.piece role run va size = some a →
    s.resolve n c.space va (if role = 1 then 1 else 0) size 1 false = .ok a

/-- The own-scratch address of an offset (08 R87). -/
def ownVa (off : Nat) : Word :=
  BitVec.ofNat 64 (14 * 2 ^ 56 + off)

/-- The command once it has read source bits up to bit `nb` past offset `so` of its core's scratch: the aligned word read last is kept, so
that no word is read twice (04 R53). -/
def afterWords (s : State) (n : Nat) (c : CopyCmd) (so nb : Nat) : CopyCmd :=
  let last := (so * 8 + nb - 1) / 64 * 8
  { c with words := [(ownVa last, valueAt s (scratchAt n + last) 8)] }

/-- What a copy-accumulate adds for an element, in w bits, and the flags it raises (18 R248). -/
def addend (v : FVal) (shift w : Nat) (clamp : Bool) : Int × BitVec 5 :=
  let lo : Int := -2 ^ (w - 1)
  let hi : Int := 2 ^ (w - 1) - 1
  match v with
  | .nan _ => (0, flNV)
  | .inf neg => (if neg then lo else hi, flNV)
  | .fin neg m e =>
    let r := roundShift .rne neg m (-(e + shift))
    let x : Int := if neg then -r.1 else r.1
    let nx : BitVec 5 := if r.2 then flNX else 0
    if lo ≤ x ∧ x ≤ hi then (x, nx) else (if clamp then max lo (min x hi) else x, nx ||| flOF)

/-- Of the state outside contexts, only core n's FIFO and channels, its TLB order and lock tables may have changed by a step of a copy
command; the command is now `c'`, and of its pieces it keeps translations that it had or that the core gives (08 R105). -/
def CommandNow (s t : State) (n : Nat) (c c' : CopyCmd) : Prop :=
  (∃ ps : List CopyPiece, (∀ p ∈ ps, p ∈ c.pieces ∨
      s.resolve n c.space p.acc.va (if p.role = 1 then 1 else 0) p.acc.size 1 false = .ok p.acc) ∧
    (t.core n).copyFifo = (s.core n).copyFifo.map (fun q => if q.id = c.id then { c' with pieces := ps } else q)) ∧
  (∀ m, m ≠ n → (t.core m).copyFifo = (s.core m).copyFifo) ∧ t.engines = s.engines ∧ t.pkg = s.pkg ∧
  ∀ m, (t.core m).storeQ = (s.core m).storeQ ∧ (t.core m).mx = (s.core m).mx

end Sys2Proof.Claims

/-- 18 R242, R244 to R251, 23 R306: a command starts once the pusher's release holds; a fill, a raw copy, a converting copy, a gather and
a scatter move their units, an accumulate adds into its word, and a write of the bound window raises the watermark; a misaligned list
entry ends the command. The moves are stated for addresses in the core's own scratch, the accumulate for elements of whole bytes; an ended
command posts its record, and a thread whose access waits on a miss of it tries again; a retired thread's binding goes. WM is the first
byte of the window not written. A piece whose walk has found nothing ends the command with CAUSE 4, whatever entry comes later (09 R119).
That a destination word written in part keeps its mark (log 42), and the address a command stops at for poison or a list entry (log 43),
are the model's readings. Of the malformed conditions of 18 R244 a scatter's or gather's alone stand here; those of the other kinds are
left out. -/
def Obligations.CopyCommands : Prop :=
  ∀ (s : State) (n k : Nat), (∀ src dst q, s.misrouted src dst q = false) →
    (∀ c, (s.core n).headCmd k = some c → c.running = false → s.gate n c.ctx c.seq c.qpos 5 = true →
      Ends (.copyCommandStart n k) s fun t => CommandNow s t n c { c with running := true, malformed := !c.ok } ∧ t.mem = s.mem) ∧
    (∀ c, (s.core n).headCmd k = some c → s.gate n c.ctx c.seq c.qpos 5 = false → exec (.copyCommandStart n k) s = .next s) ∧
    (∀ c : CopyCmd, c.w0.toNat / 2 ^ 60 = 2 → (c.ok = true ↔ c.w0.toNat / 2 ^ 32 % 2 ^ 28 % 2 ^ 24 = 0 ∧ c.w3 = 0 ∧ c.w0.toNat % 2 ^ 32 % 8 = 0 ∧
      c.w2.toNat % 8 = 0)) ∧
    (∀ c acc, Running s n k c → c.kind = 2 →
      (∀ m ∈ (s.core n).misses, m.ctx = 64 + k → m.failed = false) →
      s.resolve n c.space (c.w2 + BitVec.ofNat 64 c.done) 1 8 1 false = .ok acc → isScratch acc.loc = true → acc.loc % 8 = 0 →
      Ends (.watermarkAdvance n k 1) s fun t => Wrote s t acc.loc 8 c.w1.toNat ∧
        CommandNow s t n c { c with done := c.done + 8, ranges := addRun c.ranges acc.loc 8 } ∧
        ∀ b, ((s.core n).chan k).bound = some b → scratchCore acc.loc = n → b.base ≤ scratchOff acc.loc →
          scratchOff acc.loc + 8 ≤ b.base + b.size → ∃ b', ((t.core n).chan k).bound = some b' ∧ b'.base = b.base ∧ b'.size = b.size ∧
            ∀ x, covered b' x ↔ covered b x ∨ (scratchOff acc.loc ≤ b.base + x ∧ b.base + x < scratchOff acc.loc + 8)) ∧
    (∀ c, Running s n k c → c.kind = 2 →
      let va := c.w2 + BitVec.ofNat 64 c.done
      bits va 56 4 < 8 → c.piece 1 0 va 8 = none →
      (∃ m ∈ (s.core n).misses, m.ctx = 64 + k ∧ m.region = regionOf va ∧ m.space = c.space ∧ m.failed = true) →
      Ends (.watermarkAdvance n k 1) s fun t => CommandNow s t n c { c with stop := some (4, va) } ∧ ∀ x, mget 0 t.mem x = mget 0 s.mem x) ∧
    (∀ c so d, Running s n k c → c.kind = 0 → c.raw = true →
      let o := c.done % c.row
      let u := min (c.row - o) (8 - d % 8)
      c.w1 + BitVec.ofNat 64 (c.done / c.row * c.spitch + o) = ownVa so → c.w2 + BitVec.ofNat 64 (c.done / c.row * c.dpitch + o) = ownVa d →
      so + 144 ≤ 2 ^ 20 → d + 16 ≤ 2 ^ 20 → anyPoison s.poison (scratchAt n + so) u = false →
      Ends (.watermarkAdvance n k 1) s fun t => Wrote s t (scratchAt n + d) u (valueAt s (scratchAt n + so) u) ∧
        CommandNow s t n c { afterWords s n c so (8 * u) with done := c.done + u, ranges := addRun c.ranges (scratchAt n + d) u }) ∧
    (∀ c so d, Running s n k c → c.kind = 0 → c.raw = false → convCodes.contains c.src = true → convCodes.contains c.dst = true →
      let ws := fmtWidth c.src
      let wd := fmtWidth c.dst
      let e := c.done % c.row * 8 / ws + if c.entry = none then 0 else 1
      let i := e * ws % 8
      let h := e * wd % 8
      let m := min (c.row * 8 / ws - e) ((64 - d % 8 * 8 - h) / wd)
      let source := valueAt s (scratchAt n + so) ((i + m * ws + 7) / 8) / 2 ^ i
      let conv := fun (j : Nat) => convert (numFmt c.src) (numFmt c.dst) (modeRM c.rm c.rmode) c.sat (source / 2 ^ (ws * j) % 2 ^ ws)
      let x := ((List.range m).map fun j => (conv j).1 % 2 ^ wd * 2 ^ (wd * j)).sum
      let bytes := (h + m * wd + 7) / 8
      let old := valueAt s (scratchAt n + d) bytes
      c.w1 + BitVec.ofNat 64 (c.done / c.row * c.spitch + e * ws / 8) = ownVa so →
      c.w2 + BitVec.ofNat 64 (c.done / c.row * c.dpitch + e * wd / 8) = ownVa d →
      0 < m → so + 144 ≤ 2 ^ 20 → d + 16 ≤ 2 ^ 20 → anyPoison s.poison (scratchAt n + so) ((i + m * ws + 7) / 8) = false →
      anyPoison s.poison (scratchAt n + d) bytes = false →
      Ends (.watermarkAdvance n k 1) s fun t =>
        Wrote s t (scratchAt n + d) bytes (old % 2 ^ h + x * 2 ^ h + old / 2 ^ (h + m * wd) * 2 ^ (h + m * wd)) ∧
        CommandNow s t n c { afterWords s n c so (i + m * ws) with
          done := c.done / c.row * c.row + (e + m) * ws / 8, entry := if (e + m) * ws % 8 = 0 then none else some 0,
          flags := (List.range m).foldl (fun f j => f ||| (conv j).2) c.flags, ranges := addRun c.ranges (scratchAt n + d) bytes }) ∧
    (∀ c so d, Running s n k c → c.kind = 1 → convCodes.contains c.src = true → 8 ≤ fmtWidth c.src →
      let ws := fmtWidth c.src
      let w := 8 * c.accSize
      let v := (srcVal (numFmt c.src) (valueAt s (scratchAt n + so) (ws / 8))).1
      let r := addend v c.shift w c.clamp
      let acc : Acc := ⟨ownVa d, scratchAt n + d, c.accSize, false, 0, 0⟩
      c.w1 + BitVec.ofNat 64 c.done = ownVa so → c.w2 + BitVec.ofNat 64 (c.done * 8 / ws * c.accSize) = ownVa d →
      so + 144 ≤ 2 ^ 20 → d + 16 ≤ 2 ^ 20 → so % (ws / 8) = 0 → d % c.accSize = 0 → s.accFree n c acc = true →
      anyPoison s.poison (scratchAt n + so) (ws / 8) = false → anyPoison s.poison (scratchAt n + d) c.accSize = false →
      Ends (.watermarkAdvance n k 1) s fun t =>
        Wrote s t (scratchAt n + d) c.accSize (((valueAt s (scratchAt n + d) c.accSize : Int) + r.1) % 2 ^ w).toNat ∧
        CommandNow s t n c { afterWords s n c so ws with
          done := c.done + ws / 8, entry := none, flags := c.flags ||| r.2, ranges := addRun c.ranges (scratchAt n + d) c.accSize }) ∧
    (∀ c (e : Word) so d, Running s n k c → c.kind = 3 ∨ c.kind = 4 →
      let o := c.done % c.esize
      let list := if c.kind = 3 then c.w1 else c.w2
      let near := (if c.kind = 3 then c.w2 else c.w1) + BitVec.ofNat 64 c.done
      let far := e + BitVec.ofNat 64 o
      (c.entry = some e ∨ (c.entry = none ∧ ∃ l, list + BitVec.ofNat 64 (8 * (c.done / c.esize)) = ownVa l ∧ l % 8 = 0 ∧ l + 8 ≤ 2 ^ 20 ∧
        anyPoison s.poison (scratchAt n + l) 8 = false ∧ valueAt s (scratchAt n + l) 8 = e.toNat)) →
      (e.toNat % 8 = 0 → (if c.kind = 3 then far else near) = ownVa so → (if c.kind = 3 then near else far) = ownVa d →
        so + 144 ≤ 2 ^ 20 → d + 16 ≤ 2 ^ 20 → so % 8 = 0 → d % 8 = 0 → anyPoison s.poison (scratchAt n + so) 8 = false →
        Ends (.watermarkAdvance n k 1) s fun t => Wrote s t (scratchAt n + d) 8 (valueAt s (scratchAt n + so) 8) ∧
          CommandNow s t n c { afterWords s n c so 64 with
            done := c.done + 8, entry := if o + 8 = c.esize then none else some e, ranges := addRun c.ranges (scratchAt n + d) 8 }) ∧
      (e.toNat % 8 ≠ 0 → c.entry = none → Ends (.watermarkAdvance n k 1) s fun t =>
        CommandNow s t n c { c with stop := some (2, e) } ∧ ∀ x, mget 0 t.mem x = mget 0 s.mem x)) ∧
    (∀ c, (s.core n).headCmd k = some c → c.ended = true → Ends (.copyCompletion n k) s fun t =>
      (t.core n).copyFifo = (s.core n).copyFifo.filter (fun q => decide (q.id ≠ c.id)) ∧ t.mem = s.mem ∧
      ((t.core n).chan k).stopAddr = (match c.stop with | some e => e.2 | none => ((s.core n).chan k).stopAddr) ∧
      (∀ m j, (m, j) ≠ (n, c.ctx) → OtherAfterExit s t n (64 + k) m j) ∧
      ((∀ q ∈ (s.core n).misses, q.ctx = 64 + k → ∀ w ∈ q.waiters, w.ctx ≠ c.ctx) → t.ctx n c.ctx = { s.ctx n c.ctx with copyQ := if (s.ctx n c.ctx).gen = c.gen then (s.ctx n c.ctx).copyQ.map (fun r =>
        if r.cmd = c.id ∧ r.record = none then { r with record := some c.record, ranges := c.ranges } else r) else (s.ctx n c.ctx).copyQ })) ∧
    (∀ c : CopyCmd, c.done < 2 ^ 32 → (∀ e, c.stop = some e → e.1 < 2 ^ 8) →
      let st := if c.malformed then 2 else if c.stop = none then 0 else 1
      c.record.toNat / 2 ^ 60 = st ∧ c.record.toNat / 2 ^ 56 % 16 = c.chan ∧
      c.record.toNat / 2 ^ 48 % 2 ^ 8 = (if st = 1 then (c.stop.map (·.1)).getD 0 else 0) ∧
      c.record.toNat / 2 ^ 40 % 2 ^ 8 = c.flags.toNat ∧ c.record.toNat / 2 ^ 32 % 2 ^ 8 = c.phase.toNat ∧
      c.record.toNat % 2 ^ 32 = if st = 2 then 0 else c.done) ∧
    (∀ b, ((s.core n).chan k).bound = some b → (s.ctx n b.ctx).gen ≠ b.gen → (s.core n).headCmd k = none →
      Ends (.channelAutoUnbind n k) s fun t => ((t.core n).chan k).bound = none ∧ (∀ j, j ≠ k → (t.core n).chan j = (s.core n).chan j) ∧
        OnlyCore s t n ∧ ∀ j, t.ctx n j = s.ctx n j) ∧
    (∀ b, ((s.core n).chan k).bound = some b → (s.ctx n b.ctx).gen = b.gen → exec (.channelAutoUnbind n k) s = .next s) ∧
    (∀ b : Binding, b.wm ≤ b.size ∧ (∀ x, x < b.wm → covered b x) ∧ (b.wm < b.size → ¬covered b b.wm))

namespace Sys2Proof.Claims

/-- The set of a tag (08 R118). -/
def tagSetOf (c : Core) (k : Word) : Nat :=
  ((k.toNat % 2 ^ 16) ^^^ (k.toNat / 2 ^ 16 % 2 ^ 16) ^^^ (k.toNat / 2 ^ 32 % 2 ^ 16) ^^^ (k.toNat / 2 ^ 48)) % 2 ^ c.tagSets.toNat

/-- The slot of the tag: the lowest way of its set that holds it. -/
def HitAt (c : Core) (k : Word) (n : Nat) : Prop :=
  n / 4 = tagSetOf c k ∧ mfind c.tags n = some k ∧ ∀ m, m / 4 = tagSetOf c k → m < n → mfind c.tags m ≠ some k

def Misses (c : Core) (k : Word) : Prop :=
  ∀ m, m / 4 = tagSetOf c k → mfind c.tags m ≠ some k

/-- The recency of the table's sets after slot n has become the most recent of its set. -/
def Recent (c c' : Core) (n : Nat) : Prop :=
  ∀ q, mget [0, 1, 2, 3] c'.tagLru q = if q = n / 4
    then n % 4 :: (mget [0, 1, 2, 3] c.tagLru q).filter (fun w => decide (w ≠ n % 4)) else mget [0, 1, 2, 3] c.tagLru q

/-- The slot that a missing tag takes: the lowest invalid way of its set, or the least recent. -/
def Victim (c : Core) (k : Word) (n : Nat) : Prop :=
  n / 4 = tagSetOf c k ∧ (
    (mfind c.tags n = none ∧ ∀ m, m / 4 = tagSetOf c k → m < n → mfind c.tags m ≠ none) ∨
    ((∀ m, m / 4 = tagSetOf c k → mfind c.tags m ≠ none) ∧ (mget [0, 1, 2, 3] c.tagLru (n / 4)).getLast? = some (n % 4)))

end Sys2Proof.Claims

/-- 18 R258, 08 R118: the tag instructions. With the table off, or the all-ones tag, each returns all ones and changes nothing. -/
def Obligations.TagInstructions : Prop :=
  ∀ (s : State) (d a : BitVec 5), s.me.latchOn = false →
    let c := s.myCore
    let k := s.me.rx a
    let InUse := c.tagEn = true ∧ k ≠ BitVec.allOnes 64
    let Table := fun (t : State) (v : Word) => CoreKeeps s t (fun c => { c with tags := [], tagLru := [] }) ∧ GoesOn s t (issued s.me (s.me.pc + 4)) d v
    let Tags := fun (t : State) (n : Nat) (v : Option Word) =>
      ∀ m, mfind (t.core s.cur.core).tags m = if m = n then v else mfind c.tags m
    (¬InUse → ∀ i : Instr, i = .tlook d a ∨ i = .tins d a ∨ i = .tdel d a ∨ i = .tstat d a → Ends i s (WroteX s · d (BitVec.allOnes 64))) ∧
    (InUse →
      (Misses c k → Ends (.tlook d a) s (WroteX s · d (BitVec.allOnes 64)) ∧ Ends (.tdel d a) s (WroteX s · d (BitVec.allOnes 64)) ∧
        ∀ n, Victim c k n → Ends (.tins d a) s fun t => Table t (BitVec.ofNat 64 n) ∧ Tags t n (some k) ∧ Recent c (t.core s.cur.core) n) ∧
      (∀ n, HitAt c k n →
        (Ends (.tlook d a) s fun t => Table t (BitVec.ofNat 64 n) ∧ Tags t n (some k) ∧ Recent c (t.core s.cur.core) n) ∧
        (Ends (.tins d a) s fun t => Table t (BitVec.ofNat 64 (2 ^ 63 + n)) ∧ Tags t n (some k) ∧ Recent c (t.core s.cur.core) n) ∧
        (Ends (.tdel d a) s fun t => Table t (BitVec.ofNat 64 n) ∧ Tags t n none)) ∧
      Ends (.tstat d a) s (WroteX s · d (if k.toNat < 4 * 2 ^ c.tagSets.toNat then (mfind c.tags k.toNat).getD (BitVec.allOnes 64)
        else BitVec.allOnes 64)))

/-! ### Query sets (chapter 20) -/

namespace Sys2Proof.Claims

/-- Only the executing context has changed: it goes on as `u`, with x[d] holding v. -/
def MeGoesOn (s t : State) (u : Ctx) (d : BitVec 5) (v : Word) : Prop :=
  OnlyMe s t ∧ GoesOn s t u d v

/-- The number of a set's members. -/
def ones (q : BitVec 256) : Nat :=
  (List.range 256).countP fun i => q.getLsbD i

/-- A set's lowest member, all ones for none. -/
def IsLowest (q : BitVec 256) (v : Word) : Prop :=
  (q = 0 → v = BitVec.allOnes 64) ∧ (q ≠ 0 → ∃ i, i < 256 ∧ v = BitVec.ofNat 64 i ∧ q.getLsbD i = true ∧ ∀ j, j < i → q.getLsbD j = false)

end Sys2Proof.Claims

/-- 20 R272: the membership instructions. QPUT ends an error of its set (13 R184, log 83). -/
def Obligations.MembershipInstructions : Prop :=
  ∀ (s : State) (d a b : BitVec 5), s.me.latchOn = false →
    let qm := s.me.qm
    let qd := s.me.qd
    let x := s.me.rx a
    let w := x.toNat % 4
    let I := (List.range 256).filter fun i => qm.getLsbD i && decide (x.toNat ≤ i)
    let next := issued s.me (s.me.pc + 4)
    let Put := fun (old new : BitVec 256) => ∀ j, j < 256 → new.getLsbD j = if j / 64 = w then (s.me.rx b).getLsbD (j % 64) else old.getLsbD j
    (Ends (.qdef d) s fun t => MeGoesOn s t { next with qm := qm ||| qd, qd := 0 } d (BitVec.ofNat 64 (ones (qm ||| qd)))) ∧
    (Ends (.qidx d a) s fun t => OnlyMe s t ∧ { t.me with x := [], v := [], k := [], regErr := [] } = { next with x := [], v := [], k := [], regErr := [] } ∧
      (∀ r, t.me.rx r = if r = a ∧ r ≠ 0 then (if 16 < I.length then BitVec.ofNat 64 (I.getD 15 0 + 1) else 256) else s.me.rx r) ∧
      (∀ r, r ≠ d → t.me.rv r = s.me.rv r) ∧ (∀ l, l < 16 → el (t.me.rv d) 32 l = I.getD l 0xFFFFFFFF) ∧
      ∀ r, t.me.rk r = if r = 7 then BitVec.ofNat 16 (2 ^ min I.length 16 - 1) else s.me.rk r) ∧
    (Ends (.qpop d) s fun t => ∃ v q, IsLowest qm v ∧ (∀ j, j < 256 → q.getLsbD j = (qm.getLsbD j && decide (BitVec.ofNat 64 j ≠ v))) ∧
      MeGoesOn s t { next with qm := q } d v) ∧
    (Ends (.qfirst d) s fun t => ∃ v, IsLowest qm v ∧ MeGoesOn s t next d v) ∧
    (Ends (.qget d a) s (WroteX s · d (((if x.getLsbD 2 then qd else qm) >>> (64 * w)).setWidth 64))) ∧
    (Ends (.qput a b) s fun t => OnlyMe s t ∧ ∃ q, if x.getLsbD 2 then Put qd q ∧ t.me = { next with qd := q, regErr := s.me.regErr.filter fun r => decide (r ≠ .qd) }
      else Put qm q ∧ t.me = { next with qm := q, regErr := s.me.regErr.filter fun r => decide (r ≠ .qm) }) ∧
    (Ends (.qadd a) s fun t => OnlyMe s t ∧ ∃ q, t.me = { next with qm := q } ∧
      ∀ j, j < 256 → q.getLsbD j = (qm.getLsbD j || decide (j = x.toNat % 256))) ∧
    (Ends (.qdel a) s fun t => OnlyMe s t ∧ ∃ q, t.me = { next with qm := q } ∧
      ∀ j, j < 256 → q.getLsbD j = (qm.getLsbD j && decide (j ≠ x.toNat % 256)))

namespace Sys2Proof.Claims

/-- The entry of the executing thread's key for a node (20 R266). -/
def entryFor (s : State) (a : BitVec 5) : Option Rendezvous :=
  s.myCore.rvt.find? fun e => decide (e.lid = s.me.lid ∧ e.tag = s.me.qbat ∧ e.node = (s.me.rx a).setWidth 31)

/-- A place of the table is free; the lowest free place of the holder's bank, or of the lowest other bank that has one. -/
def PlaceFree (s : State) (p : Nat) : Prop :=
  ∀ e ∈ s.myCore.rvt, e.place ≠ p

def NewPlace (s : State) (p : Nat) : Prop :=
  let g := s.cur.ctx / 16
  PlaceFree s p ∧ ((p / 16 = g ∧ ∀ q, q / 16 = g → q < p → ¬PlaceFree s q) ∨
    ((∀ q, q / 16 = g → ¬PlaceFree s q) ∧ p < 64 ∧ ∀ q, q < p → ¬PlaceFree s q))

/-- The table after an entry has been replaced at its place. -/
def replaced (l : List Rendezvous) (e : Rendezvous) : List Rendezvous :=
  l.map fun q => if q.place = e.place then e else q

/-- The table has changed to `l`, the L1 lines are dropped where the instruction acquires, and the context goes on as `u`. -/
def TableNow (s t : State) (l : List Rendezvous) (acq : Bool) (u : Ctx) : Prop :=
  CoreKeeps s t (fun c => { c with rvt := [], l1 := [] }) ∧ (t.core s.cur.core).rvt = l ∧
  (t.core s.cur.core).l1 = (if acq then [] else s.myCore.l1) ∧
  t.me = { u with x := t.me.x, regErr := t.me.regErr }

def Holds (s t : State) (d : BitVec 5) (v : Word) : Prop :=
  ∀ r, t.me.rx r = if r = d ∧ r ≠ 0 then v else s.me.rx r

/-- The clone of a split (20 R270). -/
def Cloned (s : State) (d : BitVec 5) (pc : Word) (L : BitVec 256) (old c : Ctx) : Prop :=
  c = { Ctx.reset with
    run := .ready, pc := pc, x := c.x, qm := L, tid := s.me.tid, lid := s.me.lid, rmode := s.me.rmode, ehandler := s.me.ehandler
    cls := s.me.cls, space := s.me.space, cvd := s.me.cvd, qtb := s.me.qtb, qstr := s.me.qstr, qbat := s.me.qbat
    spawnno := s.me.spawnno * 64 + s.me.scnt.setWidth 64 + 1, gen := old.gen, seq := old.seq } ∧
  ∀ r, c.rx r = if r = d ∧ r ≠ 0 then 1 else s.me.rx r

end Sys2Proof.Claims

/-- 20 R267, R268: QARR, QSEAL and QDEP. QARR waits for its thread's stores to the core's scratch. -/
def Sys2Proof.Claims.RendezvousInstructions : Prop :=
  ∀ (s : State) (d a : BitVec 5), s.me.latchOn = false →
    let i := s.cur.ctx
    let next := issued s.me (s.me.pc + 4)
    let l := s.myCore.rvt
    let Ready := s.gate s.cur.core i s.me.seq s.myCore.nextStore 1 = true
    let mine := match entryFor s a with
      | some e => if e.holder = i then some e else none
      | none => none
    (¬Ready → exec (.qarr d a) s = .next s.stall) ∧
    (Ready → s.me.qm = 0 → Ends (.qarr d a) s (WroteX s · d 2)) ∧
    (Ready → s.me.qm ≠ 0 →
      (∀ e, entryFor s a = some e → e.holder = i → Ends (.qarr d a) s (WroteX s · d 0)) ∧
      (∀ e, entryFor s a = some e → e.holder ≠ i → e.isSealed = true → Ends (.qarr d a) s (WroteX s · d 3)) ∧
      (∀ e, entryFor s a = some e → e.holder ≠ i → e.isSealed = false → Ends (.qarr d a) s fun t =>
        TableNow s t (replaced l { e with mask := e.mask ||| s.me.qm, count := e.count + 1 }) false { next with qm := 0 } ∧ Holds s t d 1) ∧
      (entryFor s a = none → (∀ p, NewPlace s p → Ends (.qarr d a) s fun t =>
          TableNow s t (l ++ [⟨p, s.me.lid, s.me.qbat, (s.me.rx a).setWidth 31, false, i, 0, 0⟩]) false next ∧ Holds s t d 0) ∧
        ((∀ p, p < 64 ∨ p / 16 = i / 16 → ¬PlaceFree s p) → Ends (.qarr d a) s (WroteX s · d 2)))) ∧
    (mine = none → Ends (.qseal d a) s (WroteX s · d (BitVec.ofNat 64 (2 ^ 63 + ones s.me.qm))) ∧
      Ends (.qdep a) s fun t => OnlyMe s t ∧ t.me = next) ∧
    (∀ e, mine = some e →
      let q := if e.isSealed then s.me.qm else s.me.qm ||| e.mask
      (Ends (.qseal d a) s fun t => TableNow s t (replaced l { e with isSealed := true }) true { next with qm := q } ∧
        Holds s t d (BitVec.ofNat 64 (e.count * 2 ^ 16 + ones q))) ∧
      (Ends (.qdep a) s fun t => TableNow s t (l.filter fun r => decide (r.place ≠ e.place)) (!e.isSealed) { next with qm := q } ∧
        ∀ r, t.me.rx r = s.me.rx r))

/-- 20 R270, 21 R282: QSPLIT, with its clone. A context idled in this cycle takes no clone, and a QSPLIT waits where the core has already
given out a context in this cycle to a message. The KIND of a misaligned clone PC (log 18), and that a QSPLIT then
waits for the next cycle (log 60), are the model's readings. -/
def Sys2Proof.Claims.SplitInstruction : Prop :=
  ∀ (s : State) (d a b : BitVec 5), s.me.latchOn = false → s.me.run = .ready →
    let n := s.cur.core
    let pc := s.me.rx b
    let p : BitVec 256 := (s.me.rv a).setWidth 256
    let L := s.me.qm &&& ~~~p
    let S := s.me.qm &&& p
    let next := issued s.me (s.me.pc + 4)
    let Ready := s.gate n s.cur.ctx s.me.seq s.myCore.nextStore 1 = true
    let Takes := fun (j : Nat) => j < 64 ∧ (s.ctx n j).run = .idle ∧ (s.ctx n j).idleAt ≠ some s.clock.toNat ∧
      s.heldFrom n j s.me.lid s.me.cls = false
    let Full := pc.toNat % 4 = 0 ∧ L ≠ 0 ∧ S ≠ 0
    let Turn := s.handedPast n 1 = false
    (pc.toNat % 4 ≠ 0 → exec (.qsplit d a b) s = .next (s.trapMe 2 0 pc)) ∧
    (pc.toNat % 4 = 0 → L = 0 → Ends (.qsplit d a b) s (WroteX s · d 0)) ∧
    (pc.toNat % 4 = 0 → L ≠ 0 → S = 0 → Ends (.qsplit d a b) s (WroteX s · d 3)) ∧
    (Full → ¬(Ready ∧ Turn) → exec (.qsplit d a b) s = .next s.stall) ∧
    (Full → Ready → Turn → (∀ j, ¬Takes j) → Ends (.qsplit d a b) s fun t =>
      MeGoesOn s t { next with qm := S, qd := s.me.qd ||| L, scnt := s.me.scnt + 1 } d 2) ∧
    (∀ j, Full → Ready → Turn → Takes j → (∀ m, m < j → ¬Takes m) → Ends (.qsplit d a b) s fun t =>
      OnlyCore s t n ∧ Cloned s d pc L (s.ctx n j) (t.ctx n j) ∧ GoesOn s t { next with qm := S, scnt := s.me.scnt + 1 } d 1 ∧
      (∀ m, m ≠ j → m ≠ s.cur.ctx → t.ctx n m = s.ctx n m) ∧
      { t.core n with ctxs := [], held := [] } = { s.core n with ctxs := [], held := [], handAt := some (s.clock.toNat, 1) })

namespace Sys2Proof.Claims

/-- The query unit may act on ranges (offset, length) of the core's scratch (20 R277): the thread's stores there are written, no acquire or
fence is in its way, no earlier load of the thread meets a range and no watermark stands over one. Where it writes, no earlier load of the
thread is open (04 R45). -/
def UnitActs (s : State) (wr : Bool) (rs : List (Nat × Nat)) : Prop :=
  s.me.acquiring = false ∧ (wr = true → s.me.loadsDone s.me.seq = true) ∧ s.fencesOpen s.cur.core s.cur.ctx s.me.seq = true ∧
  (∀ e ∈ s.myCore.storeQ, e.ctx = s.cur.ctx → isScratch e.acc.loc = true → scratchCore e.acc.loc = s.cur.core → e.written = true) ∧
  ∀ r ∈ rs, s.me.behind s.me.seq (scratchAt s.cur.core + r.1) r.2 = false ∧ s.belowMark (scratchAt s.cur.core + r.1) r.2 = true

/-- No word that meets a range of the core's scratch is poisoned. -/
def Clean (s : State) (off n : Nat) : Prop :=
  ∀ k, off / 8 ≤ k → k ≤ (off + n - 1) / 8 → mget false s.poison (scratchAt s.cur.core / 8 + k) = false

/-- The own-scratch offset of a slot, its stride, and a field of it. -/
def strideOf (s : State) : Nat := 256 * 2 ^ s.me.qstr.toNat
def slotAt (s : State) (k : Nat) : Nat := s.me.qtb.toNat * 256 + k * strideOf s
def fieldAt (s : State) (off n : Nat) : Nat := valueAt s (scratchAt s.cur.core + off) n

/-- The most entries, and the entries of a slot (20 R263, R264). -/
def mostOf (s : State) : Nat := (strideOf s - 64) / 8
def entriesAt (s : State) (off : Nat) : List Nat :=
  (List.range (fieldAt s off 4)).map fun j => fieldAt s (off + 64 + 8 * j) 8

/-- The key (DIST, ID) as one number, the ID, and the expanded bit. -/
def keyOf (e : Nat) : Nat := e / 2 ^ 32 * 2 ^ 31 + e % 2 ^ 31
def idOf (e : Nat) : Nat := e % 2 ^ 31
def expanded (e : Nat) : Bool := e.testBit 31

/-- A well-formed queue, of which the first `hdr` bytes and the entries are ready to be read and not poisoned: in place, with a legal CAP and
LEN, in strict key order, one entry per ID. -/
def QueueOk (s : State) (wr : Bool) (hdr off : Nat) : Prop :=
  off + strideOf s ≤ 0xFC000 ∧ UnitActs s wr [(off, hdr), (off + 64, 8 * fieldAt s off 4)] ∧ Clean s off hdr ∧
  Clean s (off + 64) (8 * fieldAt s off 4) ∧
  1 ≤ fieldAt s (off + 4) 4 ∧ fieldAt s (off + 4) 4 ≤ mostOf s ∧ fieldAt s off 4 ≤ fieldAt s (off + 4) 4 ∧
  ((entriesAt s off).map keyOf).Pairwise (· < ·) ∧ ((entriesAt s off).map idOf).Nodup

/-- A byte of the core's scratch, and its change by writes of (offset, length, value), the later standing. -/
def Poked (s t : State) (ws : List (Nat × Nat × Nat)) : Prop :=
  ∀ a, mget 0 t.mem a = (ws.foldl (fun (r : Byte) w => if scratchAt s.cur.core + w.1 ≤ a ∧ a < scratchAt s.cur.core + w.1 + w.2.1
    then byteAt w.2.2 (a - (scratchAt s.cur.core + w.1)) else r) (mget 0 s.mem a))

/-- Nothing of the executing context has changed but x[d]. -/
def MeWrote (s t : State) (d : BitVec 5) (v : Word) : Prop :=
  t.cur = s.cur ∧ GoesOn s t (issued s.me (s.me.pc + 4)) d v

/-- The executing context is not among those that wait, and no access of another falls between the words of its instruction (20 R277). -/
def Runs (s : State) : Prop :=
  (∀ e ∈ s.waiting, (e.1, e.2.1) ≠ (s.cur.core, s.cur.ctx)) ∧ s.cur.mixed = []

end Sys2Proof.Claims

/-- 20 R273, with R265 for where it faults: CQINIT and CQCNT. The checks of the header's fields come before words 0 and 1 are looked at
(log 46). CQINIT's writes are stated for a visited table that does not overlap the header. That CQINIT looks at the header words that it
reads, and clears the marks of the table it writes, is the model's reading (log 25). -/
def Obligations.QueueInitAndCount : Prop :=
  ∀ (s : State) (d a b : BitVec 5), s.me.latchOn = false → Runs s →
    let off := slotAt s ((s.me.rx a).toNat % 256)
    let cap := (s.me.rx b).toNat
    let vptr := fieldAt s (off + 32) 8
    let vb := fieldAt s (off + 20) 1 % 32
    let Fields := fieldAt s (off + 16) 8 / 2 ^ 37 = 0 ∧ fieldAt s (off + 24) 8 / 2 ^ 32 = 0 ∧ vb ≤ 17
    let es := entriesAt s off
    (0xFC000 < off + strideOf s → exec (.cqcnt d a) s = .next (s.trapMe 3 0 (BitVec.ofNat 64 (14 * 2 ^ 56 + off))) ∧
      exec (.cqinit d a b) s = .next (s.trapMe 3 2 (BitVec.ofNat 64 (14 * 2 ^ 56 + off)))) ∧
    (off + strideOf s ≤ 0xFC000 → ¬UnitActs s false [(off, 8)] → exec (.cqcnt d a) s = .next s.stall) ∧
    (off + strideOf s ≤ 0xFC000 → ¬UnitActs s true [(off, 40)] → exec (.cqinit d a b) s = .next s.stall) ∧
    (QueueOk s false 8 off → Ends (.cqcnt d a) s (WroteX s · d (BitVec.ofNat 64 (es.countP (fun e => !expanded e) * 2 ^ 32 + es.length)))) ∧
    (off + strideOf s ≤ 0xFC000 → UnitActs s true [(off, 40)] → Clean s (off + 16) 24 →
      (¬Fields → exec (.cqinit d a b) s = .next (s.trapMe 3 2 (BitVec.ofNat 64 (14 * 2 ^ 56 + off)))) ∧
      (Fields → 0xFC000 < vptr + 4 * 2 ^ vb → exec (.cqinit d a b) s = .next (s.trapMe 3 2 (BitVec.ofNat 64 (14 * 2 ^ 56 + vptr))))) ∧
    (off + strideOf s ≤ 0xFC000 → UnitActs s true [(off, 40)] → Clean s off 40 → Fields → vptr + 4 * 2 ^ vb ≤ 0xFC000 →
      (cap = 0 ∨ mostOf s < cap → Ends (.cqinit d a b) s (WroteX s · d 1)) ∧
      (1 ≤ cap → cap ≤ mostOf s → UnitActs s true [(vptr, 4 * 2 ^ vb)] → (vb = 0 → Clean s (vptr / 8 * 8) 8) → vptr + 4 * 2 ^ vb ≤ off ∨ off + 40 ≤ vptr → Ends (.cqinit d a b) s fun t => MeWrote s t d 0 ∧
        Poked s t [(off, 4, 0), (off + 4, 4, cap), (off + 8, 4, 0), (off + 12, 4, 0xFFFFFFFF), (off + 16, 4, 0xFFFFFFFF), (off + 24, 4, 0),
          (vptr, 4 * 2 ^ vb, 2 ^ (32 * 2 ^ vb) - 1)]))

/-- 20 R274: CQMRG. The offered pairs, one per ID with the lowest key and none already present, join the queue; its lowest CAP entries
stay; x[d] counts the pairs kept. -/
def Sys2Proof.Claims.QueueMerge : Prop :=
  ∀ (s : State) (d a b : BitVec 5), s.me.latchOn = false → Runs s →
    let off := slotAt s ((s.me.rx d).toNat % 256)
    let old := entriesAt s off
    let dist := fun l => el (s.me.rv a) 32 l
    let id := fun l => el (s.me.rv b) 32 l
    let Offers := fun (l e : Nat) => l < 16 ∧ dist l < 2 ^ 31 ∧ id l < 2 ^ 31 ∧ e = dist l * 2 ^ 32 + id l
    QueueOk s true 8 off → UnitActs s true [(off + 64, 8 * fieldAt s (off + 4) 4)] → Ends (.cqmrg d a b) s fun t => ∃ P es : List Nat,
      P.Nodup ∧ (∀ e, e ∈ P ↔ (∃ l, Offers l e) ∧ (∀ l f, Offers l f → idOf f = idOf e → keyOf e ≤ keyOf f) ∧ ∀ z ∈ old, idOf z ≠ idOf e) ∧
      es.length = min (fieldAt s (off + 4) 4) (old.length + P.length) ∧ (es.map keyOf).Pairwise (· < ·) ∧ (∀ e ∈ es, e ∈ old ∨ e ∈ P) ∧
      (∀ e, e ∈ old ∨ e ∈ P → e ∉ es → ∀ z ∈ es, keyOf z < keyOf e) ∧
      Poked s t ((es.mapIdx fun j e => (off + 64 + 8 * j, 8, e)) ++ [(off, 4, es.length)]) ∧
      MeWrote s t d (BitVec.ofNat 64 (P.countP fun e => es.contains e))

/-- 20 R275: CQBEST. -/
def Sys2Proof.Claims.QueueBest : Prop :=
  ∀ (s : State) (d a b : BitVec 5), s.me.latchOn = false → Runs s →
    let off := slotAt s ((s.me.rx a).toNat % 256)
    let step := (s.me.rx b).toNat % 2 ^ 32
    let es := entriesAt s off
    QueueOk s true 24 off →
      (fieldAt s (off + 12) 4 = step → Ends (.cqbest d a b) s (WroteX s · d (BitVec.ofInt 64 (sgn 32 (fieldAt s (off + 16) 4))))) ∧
      (fieldAt s (off + 12) 4 ≠ step → (∀ e ∈ es, expanded e = true) → Ends (.cqbest d a b) s fun t => MeWrote s t d (BitVec.allOnes 64) ∧
        Poked s t [(off + 12, 4, step), (off + 16, 4, 0xFFFFFFFF)]) ∧
      (∀ j, fieldAt s (off + 12) 4 ≠ step → j < es.length → expanded (es.getD j 0) = false → (∀ i, i < j → expanded (es.getD i 0) = true) →
        Ends (.cqbest d a b) s fun t => MeWrote s t d (BitVec.ofNat 64 (idOf (es.getD j 0))) ∧
          Poked s t [(off + 12, 4, step), (off + 64 + 8 * j, 8, es.getD j 0 + 2 ^ 31), (off + 8, 4, fieldAt s (off + 8) 4 + 1),
            (off + 16, 4, idOf (es.getD j 0))])

namespace Sys2Proof.Claims

/-- The little-endian value of n bytes of the core's scratch as a function gives them. -/
def valueIn (s : State) (M : Nat → Byte) (off n : Nat) : Nat :=
  match n with
  | 0 => 0
  | n + 1 => valueIn s M off n + (M (scratchAt s.cur.core + off + n)).toNat * 256 ^ n

/-- Bytes changed at an offset of the core's scratch. -/
def pokeIn (s : State) (M : Nat → Byte) (off n v : Nat) : Nat → Byte :=
  fun a => if scratchAt s.cur.core + off ≤ a ∧ a < scratchAt s.cur.core + off + n then byteAt v (a - (scratchAt s.cur.core + off)) else M a

/-- One lane of VVIS (20 R276): slot k, node n, bytes before and after, and the lane's two predicate bits. VPTR and VB are those before any
lane (DEDUCED, log 86). -/
def LaneVisits (s : State) (k n : Nat) (M M' : Nat → Byte) (isNew full : Bool) : Prop :=
  if 256 ≤ k ∨ 2 ^ 31 ≤ n then M' = M ∧ isNew = false ∧ full = false
  else
    let off := slotAt s k
    let vptr := fieldAt s (off + 32) 8
    let vb := fieldAt s (off + 20) 1 % 32
    let at0 := n * 0x9E3779B1 % 2 ^ 32 / 2 ^ (32 - vb)
    let T := fun p => valueIn s M (vptr + 4 * ((at0 + p) % 2 ^ vb)) 4
    let Stops := fun p => p < 2 ^ vb ∧ (T p = n ∨ T p = 0xFFFFFFFF) ∧ ∀ r, r < p → T r ≠ n ∧ T r ≠ 0xFFFFFFFF
    (∃ p, Stops p ∧ T p = n ∧ M' = M ∧ isNew = false ∧ full = false) ∨
    (∃ p, Stops p ∧ T p ≠ n ∧ isNew = true ∧ full = false ∧
      M' = (let M1 := pokeIn s M (vptr + 4 * ((at0 + p) % 2 ^ vb)) 4 n; pokeIn s M1 (off + 24) 4 (valueIn s M (off + 24) 4 + 1))) ∨
    ((∀ p, p < 2 ^ vb → T p ≠ n ∧ T p ≠ 0xFFFFFFFF) ∧ M' = M ∧ isNew = false ∧ full = true)

end Sys2Proof.Claims

/-- 20 R276, R265: VVIS. The lanes act one after the other on the bytes of the core's scratch, each seeing the insertions of those below,
and write the two predicates. Stated for a memory without poison. That etval names the lowest lane that fails is the model's choice (log
46), as is what a lane reads of a header that an earlier lane has changed (log 86). -/
def Sys2Proof.Claims.VisitedTables : Prop :=
  ∀ (s : State) (d : BitVec 2) (a b : BitVec 5), s.me.latchOn = false → d ≠ 0 → Runs s → (∀ k, mget false s.poison k = false) →
    let K := fun l => el (s.me.rv a) 32 l
    let N := fun l => el (s.me.rv b) 32 l
    let Lane := fun l => l < 16 ∧ K l < 256 ∧ N l < 2 ^ 31
    let Ok := fun (off : Nat) => off + strideOf s ≤ 0xFC000 ∧ UnitActs s true [(off + 16, 24)] ∧
      fieldAt s (off + 16) 8 / 2 ^ 37 = 0 ∧ fieldAt s (off + 24) 8 / 2 ^ 32 = 0 ∧ fieldAt s (off + 20) 1 % 32 ≤ 17 ∧
      fieldAt s (off + 32) 8 + 4 * 2 ^ (fieldAt s (off + 20) 1 % 32) ≤ 0xFC000 ∧
      UnitActs s true [(fieldAt s (off + 32) 8, 4 * 2 ^ (fieldAt s (off + 20) 1 % 32))]
    (UnitActs s true [] → (∀ l, Lane l → Ok (slotAt s (K l))) → Ends (.vvis d a b) s fun t =>
      ∃ (Ms : Nat → Nat → Byte) (kn kf : Mask), Ms 0 = (fun x => mget 0 s.mem x) ∧
        (∀ l, l < 16 → LaneVisits s (K l) (N l) (Ms l) (Ms (l + 1)) (kn.getLsbD l) (kf.getLsbD l)) ∧
        (∀ x, mget 0 t.mem x = Ms 16 x) ∧ t.cur = s.cur ∧
        t.me = { issued s.me (s.me.pc + 4) with k := t.me.k, regErr := t.me.regErr } ∧
        ∀ r, t.me.rk r = if r.toNat = 2 * d.toNat then kn else if r.toNat = 2 * d.toNat + 1 then kf else s.me.rk r) ∧
    (¬UnitActs s true [] → exec (.vvis d a b) s = .next s.stall) ∧
    (∀ l, UnitActs s true [] → Lane l → 0xFC000 < slotAt s (K l) + strideOf s → (∀ m, Lane m → m < l → Ok (slotAt s (K m))) →
      (∀ m, Lane m → slotAt s (K m) + 64 ≤ 0xFC000 → UnitActs s true [(slotAt s (K m) + 16, 24)]) →
      exec (.vvis d a b) s = .next (s.trapMe 3 2 (BitVec.ofNat 64 (14 * 2 ^ 56 + slotAt s (K l)))))

/-! ### Curve coordinates (chapter 24) -/

namespace Sys2Proof.Claims

/-- The thread's codes have D dimensions of B bits (24 R307). -/
def Shaped (s : State) (D B : Nat) : Prop :=
  s.me.latchOn = false ∧ s.me.cvd = BitVec.ofNat 11 (16 * B + D) ∧ 1 ≤ D ∧ D ≤ 8 ∧ 1 ≤ B ∧ D * B ≤ 64

/-- axis(c, a) of 24 R308, and the code of a point. -/
def axisOf (D B c a : Nat) : Nat :=
  ((List.range B).map fun j => if c.testBit (j * D + a) then 2 ^ j else 0).sum

def IsCode (D B c : Nat) (v : Nat → Nat) : Prop :=
  c < 2 ^ (D * B) ∧ ∀ a, a < D → axisOf D B c a = v a % 2 ^ B

/-- A code operand: its bits at and above D B are ignored. -/
def codeIn (s : State) (D B : Nat) (r : BitVec 5) : Nat :=
  (s.me.rx r).toNat % 2 ^ (D * B)

/-- A code lies in the box of two corners (24 R310). -/
def InBox (D B lo hi c : Nat) : Prop :=
  ∀ a, a < D → axisOf D B lo a ≤ axisOf D B c a ∧ axisOf D B c a ≤ axisOf D B hi a

/-- A sum or difference of two codes, axis by axis, and the axes that overflow (24 R314). -/
def axisSum (D B : Nat) (sub : Bool) (x y a : Nat) : Int :=
  if sub then (axisOf D B x a : Int) - axisOf D B y a else (axisOf D B x a : Int) + axisOf D B y a

def overflows (D B : Nat) (sub : Bool) (x y a : Nat) : Bool :=
  decide (a < D) && (decide (axisSum D B sub x y a < 0) || decide (2 ^ B ≤ axisSum D B sub x y a))

/-- The register a pair or quad field names. -/
def pairReg (b : BitVec 4) (i : Nat) : BitVec 5 := BitVec.ofNat 5 (2 * b.toNat + i)

/-- The codes whose level-L cell meets the box (24 R319). -/
def InCells (D B lo hi L c : Nat) : Prop :=
  c < 2 ^ (D * B) ∧ ∃ e, e < 2 ^ (D * B) ∧ e / 2 ^ (D * L) = c / 2 ^ (D * L) ∧ InBox D B lo hi e

/-- The ranges of 24 R319: the maximal runs of those codes, ascending, from START on. -/
def AreRanges (D B lo hi L start : Nat) (R : List (Nat × Nat)) : Prop :=
  let S := InCells D B lo hi L
  (∀ r ∈ R, start ≤ r.1 ∧ r.1 ≤ r.2 ∧ (∀ c, r.1 ≤ c → c ≤ r.2 → S c) ∧ ¬S (r.2 + 1) ∧ (r.1 = start ∨ r.1 = 0 ∨ ¬S (r.1 - 1))) ∧
  R.Pairwise (fun p q => p.2 < q.1) ∧ ∀ c, S c → start ≤ c → ∃ r ∈ R, r.1 ≤ c ∧ c ≤ r.2

end Sys2Proof.Claims

/-- 24 R308, R313 to R317: the scalar curve instructions; with cvd = 0 each is illegal (R307). -/
def Sys2Proof.Claims.CurveCodes : Prop :=
  ∀ (s : State) (d a b : BitVec 5) (p : BitVec 4) (r : BitVec 3),
    (∀ D B, Shaped s D B →
      let x := codeIn s D B a
      let y := codeIn s D B b
      let lo := codeIn s D B (pairReg p 0)
      let hi := codeIn s D B (pairReg p 1)
      let Sum := fun (i : Instr) (sub : Bool) => Ends i s fun t => ∃ (c : Nat) (f : BitVec 8), IsCode D B c (fun k => (axisSum D B sub x y k % 2 ^ B).toNat) ∧
        (∀ k, k < 8 → f.getLsbD k = (s.me.cvf.getLsbD k || overflows D B sub x y k)) ∧
        MeGoesOn s t { issued s.me (s.me.pc + 4) with cvf := f } d (BitVec.ofNat 64 c)
      (Ends (.cvenc d a) s (WroteXSuch s · d fun v => IsCode D B v.toNat fun k => el (s.me.rv a) 64 k)) ∧
      (Ends (.cvdec d a) s fun t => EachEl s t d 64 fun k => if k < D then axisOf D B x k else 0) ∧
      Sum (.cvadd d a b) false ∧ Sum (.cvsub d a b) true ∧
      (InBox D B lo hi x → Ends (.cvin d a p) s (WroteX s · d 1)) ∧ (¬InBox D B lo hi x → Ends (.cvin d a p) s (WroteX s · d 0)) ∧
      (∀ c, c < 2 ^ (D * B) → InBox D B lo hi c → x ≤ c → (∀ e, InBox D B lo hi e → x ≤ e → c ≤ e) →
        Ends (.cvnext d a p) s (WroteX s · d (BitVec.ofNat 64 c))) ∧
      ((∀ e, e < 2 ^ (D * B) → x ≤ e → ¬InBox D B lo hi e) → Ends (.cvnext d a p) s (WroteX s · d (BitVec.allOnes 64))) ∧
      (∀ c, InBox D B lo hi c → c ≤ x → (∀ e, InBox D B lo hi e → e ≤ x → e ≤ c) →
        Ends (.cvprev d a p) s (WroteX s · d (BitVec.ofNat 64 c))) ∧
      ((∀ e, e ≤ x → ¬InBox D B lo hi e) → Ends (.cvprev d a p) s (WroteX s · d (BitVec.allOnes 64))) ∧
      (Ends (.cvlev d a b) s fun t => ∃ L, WroteX s t d (BitVec.ofNat 64 L) ∧ L ≤ B ∧ x / 2 ^ (D * L) = y / 2 ^ (D * L) ∧
        ∀ M, M < L → x / 2 ^ (D * M) ≠ y / 2 ^ (D * M)) ∧
      (let L := (s.me.rx b).toNat
       Ends (.cvcell d a b) s (WroteX s · d (if B ≤ L then 0 else BitVec.ofNat 64 (x / 2 ^ (D * L) * 2 ^ (D * L)))))) ∧
    (s.me.cvd = 0 → ∀ i : Instr, i ∈ [Instr.cvenc d a, .cvdec d a, .cvadd d a b, .cvsub d a b, .cvin d a p, .cvnext d a p, .cvprev d a p,
        .cvlev d a b, .cvcell d a b, .cvsplit d r b] → exec i s = .next (s.trapMe 1 0 (s.cur.word.setWidth 64)))

/-- 24 R318 to R320: CVSPLIT, with the whole list of ranges of which it writes the first N as stores of the thread. A reserved bit of its
last register takes KIND 1 (log 50). -/
def Sys2Proof.Claims.CurveSplit : Prop :=
  ∀ (s : State) (d : BitVec 5) (a : BitVec 3) (b : BitVec 5) (D B : Nat) (as : Nat → Acc), Shaped s D B →
    let w := quadWord s a 3
    let N := w.toNat % 2 ^ 13
    let L := min (w.toNat / 2 ^ 16 % 2 ^ 7) B
    let lo := (quadWord s a 0).toNat % 2 ^ (D * B)
    let hi := (quadWord s a 1).toNat % 2 ^ (D * B)
    let out := s.me.rx b
    let Legal := w.toNat / 2 ^ 23 = 0 ∧ w.toNat / 2 ^ 13 % 8 = 0 ∧ N ≤ 4096
    (s.me.todo = none → ¬Legal → exec (.cvsplit d a b) s = .next (s.trapMe 3 1 w)) ∧
    (s.me.todo = none → Legal → N ≠ 0 → out.toNat % 8 ≠ 0 → exec (.cvsplit d a b) s = .next (s.trapMe 2 1 out)) ∧
    (Legal → N = 0 ∨ out.toNat % 8 = 0 → s.me.acquiring = false → s.me.todo = none →
      (∀ k, k < 2 * N → s.resolve s.cur.core s.me.space (out + BitVec.ofNat 64 (8 * k)) 1 8 8 false = .ok (as k) ∧
        s.belowMark (as k).loc 8 = true ∧ ∀ lv, Room s lv (2 * N)) →
      Ends (.cvsplit d a b) s fun t => ∃ R, AreRanges D B lo hi L (quadWord s a 2).toNat R ∧
        let m := min N R.length
        let vals := (R.take m).flatMap fun r => [r.1, r.2]
        AccessedMany s t ∧ (t.core s.cur.core).nextStore = s.myCore.nextStore + 2 * m ∧
        (t.core s.cur.core).storeQ = s.myCore.storeQ ++ vals.mapIdx (fun k v => storeEntry s k (as k) (BitVec.ofNat 64 v) none false) ∧
        t.me = { issued s.me (s.me.pc + 4) with seq := s.me.seq + 2 * m, x := t.me.x, regErr := t.me.regErr } ∧
        ∀ r, t.me.rx r = if r = d ∧ r ≠ 0 then BitVec.ofNat 64 (m + if D * B = 64 ∧ R.length ≤ m then 2 ^ 63 else 0)
          else if r = BitVec.ofNat 5 (4 * a.toNat + 2) then (match R[m]? with | some q => BitVec.ofNat 64 q.1 | none => BitVec.allOnes 64)
          else s.me.rx r)

/-- 24 R321: the vector forms over the active codes; Q suppresses VCVADD's flags. -/
def Obligations.CurveVectors : Prop :=
  ∀ (s : State) (d a b : BitVec 5) (e : BitVec 3) (p : BitVec 4) (q : BitVec 1) (k : BitVec 3) (D B : Nat), Shaped s D B →
    let x := fun i => el (s.me.rv a) 64 i
    let y := fun i => el (s.me.rv b) 64 i
    (Ends (.vcvadd d a b q k) s fun t => ∃ (v : Vec) (f : BitVec 8) (g : Nat → Nat), OnlyMe s t ∧
      (∀ i, i < 8 → IsCode D B (g i) (fun j => (axisSum D B false (x i) (y i) j % 2 ^ B).toNat)) ∧
      (∀ i, i < 8 → el v 64 i = if (s.me.rk k).getLsbD (2 * i) then g i else el (s.me.rv d) 64 i) ∧
      (∀ j, j < 8 → f.getLsbD j = (s.me.cvf.getLsbD j || (decide (q ≠ 1) && (List.range 8).any fun i =>
        (s.me.rk k).getLsbD (2 * i) && overflows D B false (x i) (y i) j))) ∧
      t.me = { issued s.me (s.me.pc + 4) with cvf := f, v := t.me.v, regErr := t.me.regErr } ∧ ∀ r, t.me.rv r = if r = d then v else s.me.rv r) ∧
    (Ends (.vcvin e a p q k) s fun t => ∃ (f : Nat → Bool) (km : Mask), WroteK s t e km ∧ maskOf 64 (s.me.rk k) f km ∧
      ∀ i, f i = true ↔ InBox D B (codeIn s D B (pairReg p 0)) (codeIn s D B (pairReg p 1)) (x i)) ∧
    (Ends (.vcvenc d a q k) s fun t => ∃ g : Nat → Nat, (∀ i, i < 8 → IsCode D B (g i) (fun j => x i / 2 ^ (j * B))) ∧ EachActive s t d k 64 g)

/-! ### Matrix gangs and power (chapter 22; 28 R372, R373) -/

namespace Sys2Proof.Claims

/-- Core m stands in the block of 2^c cores of core n (22 R284). -/
def InBlock (n c m : Nat) : Prop :=
  m / 32 = n / 32 ∧ m % 32 / 16 = n % 32 / 16 ∧ m % 16 / 2 ^ c = n % 16 / 2 ^ c

/-- The executing thread owns its core's slice. -/
def Owns (s : State) : Prop :=
  s.myCore.mx.owner = some s.cur.ctx

/-- Only the executing core's slice has changed, to `m`, and the context goes on as `u`. -/
def SliceNow (s t : State) (m : Slice) (u : Ctx) : Prop :=
  CoreKeeps s t (fun c => { c with mx := Slice.reset }) ∧ (t.core s.cur.core).mx = m ∧
  t.me = { u with x := t.me.x, regErr := t.me.regErr }

/-- The operation that an issue records (22 R289, R291). -/
def opOf (s : State) (a : BitVec 3) (res : Bool) (acc : BitVec 2) (fa fb fc : BitVec 4) (rm : BitVec 3) (kdone : Nat) : MxOp :=
  let w := quadWord s a
  ⟨s.cur.ctx, res, acc, w 0, w 1, w 2, w 3, fa, fb, fc, rm, kdone, 0, false, s.myCore.nextStore, s.me.seq⟩

/-- The slice after a thread asked for a grant: asked from now, unless it holds one or has asked already (22 R303). -/
def asked (m : Slice) (now : Nat) : Slice :=
  if m.grant ∨ m.request then m else { m with request := true, reqAt := now }

/-- The executing thread has entered gang wait with operation o (22 R291); its prefix stays pending. -/
def InGangWait (s t : State) (o : MxOp) : Prop :=
  CoreKeeps s t (fun c => { c with mx := Slice.reset }) ∧ (t.core s.cur.core).mx = asked { s.myCore.mx with form := some o } s.clock.toNat ∧
  t.me = { s.me with run := .waiting .gang, stallAt := none, seq := s.me.seq + 1 }

/-- The combinations of formats of 22 R288, and the kind tag each sets. -/
def mxRows : List (Nat × Nat × Nat × Nat) :=
  [(7, 7, 6, 0), (11, 7, 6, 0), (1, 1, 4, 1), (11, 1, 4, 2), (12, 1, 4, 2)]

end Sys2Proof.Claims

/-- 22 R285, R287 to R289, R291, R296, R298, R299, R304: joining, leaving, issuing, reading and clearing, with every status and the fault
of a thread that does not own the slice. A prefix's trap comes before the check of the owner, which is the model's reading (log 47). -/
def Obligations.MatrixInstructions : Prop :=
  ∀ (s : State) (d a b : BitVec 5) (k : BitVec 2) (q : BitVec 3) (l : BitVec 4),
    let n := s.cur.core
    let m := s.myCore.mx
    let next := issued s.me (s.me.pc + 4)
    let c := (s.me.rx a).toNat % 8
    let gone := ∃ r, InBlock n c r ∧ r ∈ s.pkg.retired
    let busy := m.op ≠ none ∨ m.form ≠ none
    let p := s.me.pfx
    let fa := if p.fa = 0 then 7 else p.fa
    let fb := if p.fb = 0 then 7 else p.fb
    let fc := if p.fc = 0 then (if fb = 7 then 6 else 4) else p.fc
    let Legal := p.legal = true ∧ p.sat = false ∧ p.scm = 0 ∧ ∃ r ∈ mxRows, r.1 = fa ∧ r.2.1 = fb ∧ r.2.2.1 = fc
    let rm := if p.rm = 0 then s.me.rmode + 1 else p.rm
    let w := s.me.mxprog
    let field := fun (lo bits : Nat) => BitVec.ofNat 4 (w.toNat / 2 ^ lo % 2 ^ bits)
    let stopped := w.toNat / 2 ^ 60 = 3 ∨ w.toNat / 2 ^ 60 = 4
    (s.me.latchOn = false →
      (4 < c → Ends (.mxgang d a) s (WroteX s · d 2)) ∧
      (c ≤ 4 → gone → Ends (.mxgang d a) s (WroteX s · d 3)) ∧
      (c ≤ 4 → ¬gone → m.owner ≠ none → ¬Owns s → Ends (.mxgang d a) s (WroteX s · d 1)) ∧
      (c ≤ 4 → ¬gone → Owns s → busy → Ends (.mxgang d a) s (WroteX s · d 4)) ∧
      (c ≤ 4 → ¬gone → m.owner = none ∨ (Owns s ∧ ¬busy) → Ends (.mxgang d a) s fun t =>
        SliceNow s t { m with owner := some s.cur.ctx, g := BitVec.ofNat 3 c } next ∧ Holds s t d 0) ∧
      (¬Owns s → Ends (.mxleave d) s (WroteX s · d 1)) ∧ (Owns s → m.op ≠ none → exec (.mxleave d) s = .next s.stall) ∧
      (Owns s → m.op = none → Ends (.mxleave d) s fun t => SliceNow s t { m with owner := none } next ∧ Holds s t d 0) ∧
      (Owns s → m.op = none → Ends (.mxzero k) s fun t => SliceNow s t { m with acc := (t.core n).mx.acc } next ∧ (∀ r, t.me.rx r = s.me.rx r) ∧
        ∀ e, mget 0 (t.core n).mx.acc e = if e / 4096 = k.toNat then 0 else mget 0 m.acc e) ∧
      (Owns s → m.op = none → Ends (.mxmov d k b l) s fun t => ∃ v : Vec, Opened s t (.v d) 0xFFFF l .none (some (.val v)) ∧ ∀ j, j < 16 →
        el v 32 j = (mget 0 m.acc (4096 * k.toNat + 64 * ((s.me.rx b).toNat % 64) + 16 * ((s.me.rx b).toNat / 64 % 4) + j)).toNat) ∧
      (Owns s → m.op ≠ none → exec (.mxzero k) s = .next s.stall ∧ exec (.mxmov d k b l) s = .next s.stall) ∧
      (m.grant = true → Ends (.pwreq d) s fun t => SliceNow s t { m with idleAt := s.clock.toNat } next ∧ Holds s t d 0) ∧
      (m.grant = false → Ends (.pwreq d) s fun t => SliceNow s t (asked m s.clock.toNat) next ∧ Holds s t d 1) ∧
      (Owns s → stopped → Ends (.mxres q) s fun t => InGangWait s t (opOf s q true (w.extractLsb' 44 2) (field 24 4) (field 20 4)
        (field 16 4) (w.extractLsb' 13 3) (w.toNat / 2 ^ 28 % 2 ^ 16))) ∧
      (Owns s → ¬stopped → Ends (.mxres q) s fun t => OnlyMe s t ∧ t.me = next) ∧
      (¬Owns s → ∀ i : Instr, i = .mxres q ∨ i = .mxmov d k b l ∨ i = .mxzero k → exec i s = .next (s.trapMe 3 0 0))) ∧
    (Legal → Owns s → Ends (.mxgo k q) s fun t => InGangWait s t
      (opOf s q false k (BitVec.ofNat 4 fa) (BitVec.ofNat 4 fb) (BitVec.ofNat 4 fc) rm 0)) ∧
    (Legal → ¬Owns s → exec (.mxgo k q) s = .next (s.trapMe 3 0 0)) ∧
    (¬Legal → exec (.mxgo k q) s = .next (s.trapMe 1 0 (s.cur.word.setWidth 64)))

namespace Sys2Proof.Claims

/-- The scales of element (i, j) of a drain by its mode (22 R300, 06 R84). -/
def scalesAt (scm : Nat) (x : Nat → Nat) (i j : Nat) : List Nat :=
  if scm = 1 then [x i] else if scm = 2 then [x j] else if scm = 3 then [x i, x (64 + j)] else if scm = 4 then [x 0] else []

/-- The number of scales a mode reads. -/
def scalesRead (scm : Nat) : Nat :=
  if scm = 1 ∨ scm = 2 then 64 else if scm = 3 then 128 else if scm = 4 then 1 else 0

end Sys2Proof.Claims

/-- 22 R300, 06 R84: MXDRAIN stores every element, drained once, row by row as 8-byte stores of the thread, ORs the flags into lane 0 and,
from the end of the cycle, flgsum, and zeroes the accumulator where asked. Its stores are stated where every level has room for all of
them (04 R47), and its scales where memory holds them: in scratch, with no queued store of the group and no poison over them. The drain of
an integer accumulator to an integer format is the model's reading (log 39). -/
def Sys2Proof.Claims.MatrixDrain : Prop :=
  ∀ (s : State) (k : BitVec 2) (a : BitVec 3) (os ss : Nat → Acc), Governed s mxdrainFmt → Owns s → s.me.todo = none →
    let p := s.me.pfx
    let m := s.myCore.mx
    let fc := if p.fc = 0 then 6 else p.fc
    let w := fmtWidth fc
    let wd := quadWord s a
    let addr := fun q => wd 0 + BitVec.ofNat 64 (q / w * (wd 1).toNat + 8 * (q % w))
    let saddr := fun q => wd 2 + BitVec.ofNat 64 (4 * q)
    let u := (List.range (64 * w)).foldl (fun t q => t.touchTlb s.cur.core s.me.space (addr q)) s
    let Reserved := (wd 1).toNat / 2 ^ 32 ≠ 0 ∨ (wd 3).toNat / 2 ≠ 0
    (m.op ≠ none ∨ s.me.acquiring = true → exec (.mxdrain k a) s = .next s.stall) ∧
    (m.op = none → s.me.acquiring = false → Reserved → exec (.mxdrain k a) s = .next (s.trapMe 3 1 (wd 0))) ∧
    (m.op = none → s.me.acquiring = false → ¬Reserved → (wd 0).toNat % 64 ≠ 0 ∨ (wd 1).toNat % 64 ≠ 0 → exec (.mxdrain k a) s = .next (s.trapMe 2 1 (wd 0))) ∧
    (m.op = none → s.me.acquiring = false → ¬Reserved → (wd 0).toNat % 64 = 0 → (wd 1).toNat % 64 = 0 → (∀ lv, Room s lv (64 * w)) →
      (∀ q, q < 64 * w → s.resolve s.cur.core s.me.space (addr q) 1 8 8 false = .ok (os q) ∧ s.belowMark (os q).loc 8 = true) →
      (∀ q, q < scalesRead p.scm → u.resolve s.cur.core s.me.space (saddr q) 0 4 4 false = .ok (ss q) ∧ s.belowMark (ss q).loc 4 = true ∧
        isScratch (ss q).loc = true ∧ (ss q).l1 = false ∧ s.me.behind s.me.seq (ss q).loc 4 = false ∧
        s.myCore.forward s.cur.core s.cur.ctx s.me.seq (ss q).loc 4 = .mem ∧ anyPoison s.poison (ss q).loc 4 = false) →
      let tag := m.tags.toNat / 4 ^ k.toNat % 4
      let out := fun i j => drain (decide (tag ≠ 0)) (if tag = 2 then 6 else 0) (mget 0 m.acc (4096 * k.toNat + 64 * i + j)).toNat
        (scalesAt p.scm (fun q => valueAt s (ss q).loc 4) i j) (numFmt fc) (s.me.mode p) p.sat
      let F := flagsAll ((List.range 4096).map fun e => (0, (out (e / 64) (e % 64)).2))
      let word := fun q => ((List.range (64 / w)).map fun x => (out (q / w) (q % w * (64 / w) + x)).1 * 2 ^ (w * x)).sum
      Ends (.mxdrain k a) s fun t =>
        CoreKeeps s t (fun c => { c with mx := Slice.reset, storeQ := [], nextStore := 0, tlb := [], raiseDue := 0 }) ∧
        (t.core s.cur.core).storeQ = s.myCore.storeQ ++ (List.range (64 * w)).map (fun q => storeEntry s q (os q) (BitVec.ofNat 64 (word q)) none false) ∧
        (t.core s.cur.core).nextStore = s.myCore.nextStore + 64 * w ∧ (t.core s.cur.core).raiseDue = s.myCore.raiseDue ||| F ∧
        (t.core s.cur.core).mx = { m with acc := (t.core s.cur.core).mx.acc } ∧
        (∀ e, mget 0 (t.core s.cur.core).mx.acc e = if (wd 3).getLsbD 0 = true ∧ e / 4096 = k.toNat then 0 else mget 0 m.acc e) ∧
        { t.me with vflg0 := 0 } = { issued s.me (s.me.pc + 4) with vflg0 := 0, seq := s.me.seq + 64 * w } ∧
        ∀ x, x < 16 → laneFlags t.me x = laneFlags s.me x ||| if x = 0 then F else 0)

namespace Sys2Proof.Claims

/-- A member's operation is well formed, with its kind tag (22 R288 to R290, R296); the leader's A descriptor counts for the leader. -/
def OpOk (o : MxOp) (leader : Bool) : Prop :=
  let K := o.w3.toNat / 2 ^ 32 % 2 ^ 16
  let size := fun (f : Nat) => if f = 7 then 2 else 1
  K ≠ 0 ∧ o.w1.toNat / 2 ^ 32 = 0 ∧ o.w3.toNat / 2 ^ 49 = 0 ∧ o.w2.toNat % size o.fb.toNat = 0 ∧ o.w3.toNat % 2 ^ 32 % size o.fb.toNat = 0 ∧
  (leader = true → o.w0.toNat % size o.fa.toNat = 0 ∧ o.w1.toNat % size o.fa.toNat = 0) ∧
  (∃ r ∈ mxRows, r.1 = o.fa.toNat ∧ r.2.1 = o.fb.toNat ∧ r.2.2.1 = o.fc.toNat) ∧ 1 ≤ o.rm.toNat ∧ o.rm.toNat ≤ 5 ∧
  (o.res = true → o.kdone % 32 = 0 ∧ o.kdone < K)

/-- The members of a gang agree (22 R290). -/
def Agree (o l : MxOp) : Prop :=
  o.res = l.res ∧ o.w3.toNat / 2 ^ 32 % 2 ^ 17 = l.w3.toNat / 2 ^ 32 % 2 ^ 17 ∧ o.fa = l.fa ∧ o.fb = l.fb ∧ o.fc = l.fc ∧ o.rm = l.rm

/-- mxprog of an operation (22 R295). -/
def progOf (st cause member src : Nat) (o : MxOp) (g : BitVec 3) : Word :=
  BitVec.ofNat 64 (st * 2 ^ 60 + cause * 2 ^ 52 + member * 2 ^ 48 + src * 2 ^ 47 + o.acc.toNat * 2 ^ 44 + o.kdone * 2 ^ 28 +
    o.fa.toNat * 2 ^ 24 + o.fb.toNat * 2 ^ 20 + o.fc.toNat * 2 ^ 16 + o.rm.toNat * 2 ^ 13 + g.toNat * 2 ^ 10)

/-- The tag of an accumulator. -/
def tagOf (m : Slice) (k : Nat) : Nat := m.tags.toNat / 4 ^ k % 4

/-- A member thread after its gang has started or was refused: its mxprog set, and it leaves gang wait (22 R291). -/
def Left (u : Ctx) (w : Word) : Ctx :=
  if u.run = .waiting .gang then { issued u (u.pc + 4) with mxprog := w } else { u with mxprog := w }

/-- Every core of the block waits with the recorded size, holds a grant and is awake (22 R291). -/
def BlockReady (s : State) (n : Nat) (os : Nat → MxOp) : Prop :=
  ∀ r, InBlock n (s.core n).mx.g.toNat r → let m := (s.core r).mx
    m.form = some (os r) ∧ m.g = (s.core n).mx.g ∧ m.op = none ∧ m.grant = true ∧ m.awake = true

/-- A launch is being halted for a pre-emption or is ending (22 R292, R301). -/
def Halting (s : State) (lid : BitVec 32) : Prop :=
  ∃ l, s.launchOf lid = some l ∧ (l.phase = .halting ∨ ∃ st, l.phase = .ending st)

/-- The first core of a block. -/
def leaderOf (n c : Nat) : Nat := n / 32 * 32 + n % 32 / 16 * 16 + n % 16 / 2 ^ c * 2 ^ c

end Sys2Proof.Claims

/-- 22 R289 to R292, R294, R297, R301: a gang starts on every member or is refused on every member; a group commits on every member, by
the kind's sum, or stops the gang at its first failure; the last group ends the operation; a pre-emption halt stops it after a group. The
flags of all groups are ORed into lane 0 and flgsum when the operation ends or stops. A slice whose grant is revoked gives it up at the
group's end (28 R373), and asks again where its owner waits for the next operation (22 R303). The rows that a group reads are stated where
operands stand in the members' own scratch. That the leader's AADDR and ASTR count, and that a K-group is read whole in one step, are the
model's readings (log 49). -/
def Sys2Proof.Claims.GangOperations : Prop :=
  ∀ (s : State) (n : Nat), (s.core n).mx.g.toNat ≤ 4 →
    let g := (s.core n).mx.g.toNat
    let lead := leaderOf n g
    (∀ os, BlockReady s n os →
      let Ok := OpOk (os lead) true ∧ ∀ r, InBlock n g r → OpOk (os r) false ∧ Agree (os r) (os lead)
      Ends (.gangStart n) s fun t => t.mem = s.mem ∧ (∀ m, ¬InBlock n g m → t.core m = s.core m) ∧ ∀ r, InBlock n g r →
        let o := os r
        (Ok → (t.core r).mx.op = some { o with running := true } ∧ (t.core r).mx.form = none ∧ (t.core r).mx.acc = (s.core r).mx.acc ∧
          (∃ row ∈ mxRows, row.1 = o.fa.toNat ∧ row.2.1 = o.fb.toNat ∧ row.2.2.1 = o.fc.toNat ∧ tagOf (t.core r).mx o.acc.toNat = row.2.2.2) ∧
          (∀ k, k < 4 → k ≠ o.acc.toNat → tagOf (t.core r).mx k = tagOf (s.core r).mx k) ∧
          t.ctx r o.ctx = Left (s.ctx r o.ctx) (progOf 1 0 0 0 o (s.core r).mx.g)) ∧
        (¬Ok → (t.core r).mx = { (s.core r).mx with form := none, idleAt := s.clock.toNat } ∧
          t.ctx r o.ctx = Left (s.ctx r o.ctx) (BitVec.ofNat 64 ((s.ctx r o.ctx).mxprog.toNat % 2 ^ 52 + 2 * 2 ^ 60)))) ∧
    ((∃ r, InBlock n g r ∧ (s.core r).mx.form = none) → exec (.gangStart n) s = .next s) ∧
    (∀ (ops : Nat → MxOp), (∀ r, InBlock n g r → (s.core r).mx.op = some (ops r) ∧ (s.core r).mx.grant = true ∧ (s.core r).mx.awake = true ∧
        s.gate r (ops r).ctx (ops r).seq (ops r).qpos 5 = true) →
      let l := ops lead
      let K := l.w3.toNat / 2 ^ 32 % 2 ^ 16
      let g0 := l.kdone
      let len := min 32 (K - g0)
      let os := (List.range (2 ^ g)).map fun k => (lead + k, ops (lead + k))
      (∀ A Bs, (s.groupReads os g0 len).1 = .ok A Bs → Ends (.kGroupCommit n) s fun t => ∀ k, k < 2 ^ g →
        let r := lead + k
        let o := ops r
        let B := Bs.getD k []
        let tag := ((mxRows.find? fun row => decide (row.1 = o.fa.toNat ∧ row.2.1 = o.fb.toNat ∧ row.2.2.1 = o.fc.toNat)).map (·.2.2.2)).getD 0
        let wa := fmtWidth o.fa.toNat
        let wb := fmtWidth o.fb.toNat
        let av := fun i x => A.getD i 0 / 2 ^ (wa * x) % 2 ^ wa
        let bv := fun x j => B.getD x 0 / 2 ^ (wb * j) % 2 ^ wb
        let old := fun i j => if o.w3.getLsbD 48 = true ∧ g0 = 0 then 0 else (mget 0 (s.core r).mx.acc (4096 * o.acc.toNat + 64 * i + j)).toNat
        let sum := fun i j => kGroup (modeRM o.rm 0) (old i j) ((List.range len).map fun x => ((srcVal (numFmt o.fa.toNat) (av i x)).1, (srcVal (numFmt o.fb.toNat) (bv x j)).1))
        (∀ i j, i < 64 → j < 64 → (mget 0 (t.core r).mx.acc (4096 * o.acc.toNat + 64 * i + j)).toNat =
          if tag = 0 then (sum i j).1 % 2 ^ 32
          else wrap 32 (sgn 32 (old i j) + ((List.range len).map fun x => intProd (numFmt o.fa.toNat) (av i x) (sgn 8 (bv x j))).sum)) ∧
        (∀ e, e / 4096 ≠ o.acc.toNat → mget 0 (t.core r).mx.acc e = mget 0 (s.core r).mx.acc e) ∧
        ((s.core r).mx.revoking = true → (t.core r).mx.grant = false ∧ (t.core r).mx.awake = false ∧ (t.core r).mx.revoking = false ∧
          ((s.core r).mx.form ≠ none → (t.core r).mx.request = true ∧ (t.core r).mx.reqAt = s.clock.toNat)) ∧
        ∃ o' : MxOp, o'.kdone = g0 + len ∧ { o' with kdone := o.kdone, flags := o.flags } = o ∧
          o'.flags = o.flags ||| (if tag = 0 then flagsAll ((List.range 4096).map fun e => (0, (sum (e / 64) (e % 64)).2)) else 0) ∧
          let Raised := laneFlags (t.ctx r o.ctx) 0 = laneFlags (s.ctx r o.ctx) 0 ||| o'.flags ∧
            (t.core r).raiseDue = (s.core r).raiseDue ||| o'.flags
          (K ≤ g0 + len → (t.core r).mx.op = none ∧ (t.ctx r o.ctx).mxprog = progOf 0 0 0 0 o' (s.core r).mx.g ∧ Raised) ∧
          (g0 + len < K → (∃ x, x < 2 ^ g ∧ Halting s (s.ctx (lead + x) (ops (lead + x)).ctx).lid) →
            (t.core r).mx.op = none ∧ (t.ctx r o.ctx).mxprog = progOf 4 0 0 0 o' (s.core r).mx.g ∧ Raised) ∧
          (g0 + len < K → (∀ x, x < 2 ^ g → ¬Halting s (s.ctx (lead + x) (ops (lead + x)).ctx).lid) →
            (t.core r).mx.op = some o' ∧ (t.ctx r o.ctx).mxprog = progOf 1 0 0 0 o' (s.core r).mx.g ∧
            laneFlags (t.ctx r o.ctx) 0 = laneFlags (s.ctx r o.ctx) 0 ∧ (t.core r).raiseDue = (s.core r).raiseDue)) ∧
      (∀ c m q, (s.groupReads os g0 len).1 = .fail c m q → Ends (.kGroupCommit n) s fun t => ∀ k, k < 2 ^ g →
        let o := ops (lead + k)
        (t.core (lead + k)).mx.op = none ∧ (t.core (lead + k)).mx.acc = (s.core (lead + k)).mx.acc ∧
        (t.ctx (lead + k) o.ctx).mxprog = progOf 3 c m q o (s.core (lead + k)).mx.g ∧
        laneFlags (t.ctx (lead + k) o.ctx) 0 = laneFlags (s.ctx (lead + k) o.ctx) 0 ||| o.flags ∧
        (t.core (lead + k)).raiseDue = (s.core (lead + k)).raiseDue ||| o.flags ∧
        ((s.core (lead + k)).mx.revoking = true → (t.core (lead + k)).mx.grant = false ∧ (t.core (lead + k)).mx.revoking = false)) ∧
      (∀ (offA : Nat → Nat) (offB : Nat → Nat → Nat),
        let wa := fmtWidth l.fa.toNat
        let row := (len * wa + 7) / 8
        let strip := fun k => 64 * fmtWidth (ops (lead + k)).fb.toNat / 8
        (∀ k, mget false s.poison k = false) → (∀ x y q, s.misrouted x y q = false) → (∀ m c, ((s.core m).chan c).bound = none) →
        (∀ i, i < 64 → offA i + 144 ≤ 2 ^ 20 ∧ l.w0 + BitVec.ofNat 64 (i * l.w1.toNat + g0 * wa / 8) = ownVa (offA i)) →
        (∀ k x, k < 2 ^ g → x < len → offB k x + 144 ≤ 2 ^ 20 ∧
          (ops (lead + k)).w2 + BitVec.ofNat 64 ((g0 + x) * ((ops (lead + k)).w3.toNat % 2 ^ 32)) = ownVa (offB k x)) →
        (s.groupReads os g0 len).1 = .ok ((List.range 64).map fun i => valueAt s (scratchAt lead + offA i) row)
          ((List.range (2 ^ g)).map fun k => (List.range len).map fun x => valueAt s (scratchAt (lead + k) + offB k x) (strip k)))) ∧
    (∀ (space : BitVec 12) (va : Word) (len : Nat) (acc : Acc), 0 < len → va.toNat % 64 + len ≤ 64 → (∀ x y q, s.misrouted x y q = false) →
      (∀ m ∈ (s.core n).misses, m.ctx = 80 → m.failed = false) → s.resolve n space va 0 len 1 false = .ok acc →
      isScratch acc.loc = true → acc.loc % 64 + len ≤ 64 → s.belowMark acc.loc len = true → anyPoison s.poison acc.loc len = false →
      (s.pipeRead n space va len 2).1 = .ok (valueAt s acc.loc len))

namespace Sys2Proof.Claims

/-- Only the slice of core n has changed, to `m`, and of the package's registers what `p` says. -/
def OnlySlice (s t : State) (n : Nat) (m : Slice) (p : Pkg) : Prop :=
  OnlyCore s { t with pkg := s.pkg } n ∧ t.core n = { s.core n with mx := m } ∧ t.pkg = p

/-- The cap of a chiplet's grants (28 R362, R372): its byte of the grant caps, halved under throttle, at least 1 then. -/
def capOf (s : State) (c : Nat) : Nat :=
  let v := s.pkg.gcap.toNat / 2 ^ (8 * c) % 2 ^ 8
  if s.pkg.currentThrottle = true ∨ s.pkg.thermalThrottle = true then max 1 (v / 2) else v

/-- The cores of a chiplet that a property counts. -/
def inChiplet (s : State) (c : Nat) (f : Slice → Bool) : Nat :=
  (List.range 512).countP fun n => decide (chipletOf n = c) && f (s.core n).mx

/-- At least eight cycles have passed since a time kept per chiplet. -/
def Free (m : Map Nat) (c now : Nat) : Prop :=
  ∀ t, mfind m c = some t → t + 8 ≤ now

end Sys2Proof.Claims

/-- 22 R303, 28 R372, R373: grants go out one every 8 cycles to the oldest request within the cap; a granted slice wakes after mxwake
cycles; an idle one is gated after mxidle; above the cap the highest core loses its grant, at its group's end where its gang computes; current and heat throttle, and 115 °C trips. The
lifting of the thermal restriction after 64 samples is the model's reading (log 13). -/
def Obligations.PowerEvents : Prop :=
  ∀ (s : State) (n c : Nat),
    let now := s.clock.toNat
    let m := (s.core n).mx
    let holders := inChiplet s c (·.grant)
    let again := m.op.isSome || m.form.isSome
    let Computes := ∀ r, InBlock n m.g.toNat r → (s.core r).mx.grant = true ∧ (s.core r).mx.awake = true
    (n < 512 → chipletOf n = c → m.request = true →
      (∀ r, r < 512 → chipletOf r = c → (s.core r).mx.request = true → m.reqAt < (s.core r).mx.reqAt ∨ (m.reqAt = (s.core r).mx.reqAt ∧ n ≤ r)) →
      (Free s.pkg.lastGrant c now → holders < capOf s c → Ends (.powerGrant c) s fun t => OnlySlice s t n
        { m with grant := true, request := false, grantAt := now, idleAt := now } { s.pkg with lastGrant := mput s.pkg.lastGrant c now }) ∧
      (¬Free s.pkg.lastGrant c now ∨ capOf s c ≤ holders → exec (.powerGrant c) s = .next s)) ∧
    (m.grant = true → m.awake = false → m.grantAt + 180 ≤ now → Ends (.sliceAwake n) s fun t => OnlySlice s t n { m with awake := true } s.pkg) ∧
    (now < m.grantAt + 180 → exec (.sliceAwake n) s = .next s) ∧
    (m.grant = true → m.op = none → m.form = none → (s.core n).mxidle ≠ 0 → m.idleAt + (s.core n).mxidle.toNat ≤ now →
      Ends (.sliceGate n) s fun t => OnlySlice s t n { m with grant := false, awake := false, revoking := false } s.pkg) ∧
    ((s.core n).mxidle = 0 ∨ m.form ≠ none ∨ m.op ≠ none → exec (.sliceGate n) s = .next s) ∧
    (n < 512 → chipletOf n = c → m.grant = true → m.revoking = false → m.g.toNat ≤ 4 →
      (∀ r, r < 512 → chipletOf r = c → n < r → (s.core r).mx.grant = false ∨ (s.core r).mx.revoking = true) →
      Free s.pkg.lastRevoke c now → capOf s c + inChiplet s c (·.revoking) < holders → Ends (.grantRevoke c) s fun t =>
        OnlySlice s t n (t.core n).mx { s.pkg with lastRevoke := mput s.pkg.lastRevoke c now } ∧
        (m.op ≠ none → Computes → (t.core n).mx = { m with revoking := true }) ∧
        (m.op = none ∨ ¬Computes → (t.core n).mx = { m with
          grant := false, awake := false, request := m.request || again, reqAt := if again then now else m.reqAt })) ∧
    (holders ≤ capOf s c → exec (.grantRevoke c) s = .next s) ∧
    (∀ amps : BitVec 16, let overRun := if 3000 < amps.toNat then s.pkg.overRun + 1 else 0
      let underRun := if amps.toNat < 2800 then s.pkg.underRun + 1 else 0
      exec (.currentSample amps) s = .next { s with pkg := { s.pkg with
        amps := amps, overRun := overRun, underRun := underRun
        currentThrottle := decide (16 ≤ overRun) || (s.pkg.currentThrottle && decide (underRun < 64))
        thermalThrottle := s.pkg.thermalThrottle && !(decide (64 ≤ underRun) && decide (s.pkg.temperature.toNat ≤ 105)) } }) ∧
    (∀ h : BitVec 8, 105 < h.toNat → Ends (.thermalThrottle h) s fun t => t.pkg.thermalThrottle = true ∧ t.pkg.temperature = h ∧
      t.cores = s.cores ∧ t.mem = s.mem ∧ (s.pkg.thermalThrottle = false → Logged s.errLog t.errLog ⟨0, s.clock, 0, 0, 0, 6⟩)) ∧
    (∀ h : BitVec 8, h.toNat ≤ 105 → exec (.thermalThrottle h) s = .next { s with pkg := { s.pkg with temperature := h } }) ∧
    (∀ h : BitVec 8, exec (.thermalTrip h) s = .next { s with pkg := if 115 ≤ h.toNat
      then { s.pkg with temperature := h, tripped := true, bootst := 5 } else { s.pkg with temperature := h } })

/-! ### Bank engines (chapters 26 and 27) -/

namespace Sys2Proof.Claims

/-- A command of the executing thread is on its way to its engine, with a place in the thread's bank record queue (26 R329, R335): nothing
else has changed but the context, and, for an address that was looked up, the order of the TLB. -/
def BankPushed (s t : State) (c : BankCmd) : Prop :=
  t.cur = s.cur ∧ t.bankCmds = s.bankCmds ++ [c] ∧ OnlyCore s { t with bankCmds := s.bankCmds } s.cur.core ∧
  { t.core s.cur.core with ctxs := [], tlb := [] } = { s.myCore with ctxs := [], tlb := [] } ∧
  (∀ j, j ≠ s.cur.ctx → t.ctx s.cur.core j = s.ctx s.cur.core j) ∧
  t.me = { issued s.me (s.me.pc + 4) with bankQ := s.me.bankQ ++ [⟨s.me.seq, c.ch, none, [], false⟩], seq := s.me.seq + 1 }

/-- What a command of the executing thread carries before its kind fills in the rest. -/
def fromMe (s : State) : BankCmd :=
  ⟨s.me.seq, s.cur.core, s.cur.ctx, s.me.gen, s.me.lid, s.me.seq, s.myCore.nextStore, s.me.space, 0, false, false, 0, [], 0, 0, 0, 0, [],
    0, 0, 0, 0, false, 0, none, none⟩

/-- The address lies in a page of layout 2, which belongs to one channel (26 R335, 08 R98). -/
def ChannelPage (s : State) (va : Word) : Prop :=
  va.toNat / 2 ^ 56 < 8 ∧ ∃ e, s.tlbOf s.cur.core s.me.space va = some e ∧ e.te1.toNat / 2 ^ 56 % 4 = 2

end Sys2Proof.Claims

/-- 26 R327 to R330, R333 to R336: pushing, loading, popping and reading the state of an engine, with the faults of their operands and the
stall at 16 unpopped commands. What a pop clears where a record says nothing of its range, the whole L1, is the model's choice (log 22). -/
def Obligations.BankInstructions : Prop :=
  ∀ (s : State) (d a b : BitVec 5) (q : BitVec 3) (l : BitVec 4),
    let n := s.cur.core
    let here := scratchAt n
    let p := s.me.pfx
    let w := s.me.rx d
    let len := w.toNat / 2 ^ 32 % 2 ^ 9
    let off := w.toNat % 2 ^ 21
    let Payload := w.toNat / 2 ^ 41 = 0 ∧ w.toNat / 2 ^ 21 % 2 ^ 11 = 0 ∧ len ≤ 256 ∧ off + len ≤ 0x100000
    let Formats := p.fa ∈ [0, 1, 11, 12] ∧ p.fb ∈ [0, 1, 7] ∧ (p.fc ≤ 11 ∨ p.fc = 14) ∧ p.rm.toNat ≤ 5 ∧ p.scm ≤ 4
    let bytes := fun (at0 k : Nat) => (List.range k).map fun i => mget 0 s.mem (here + at0 + i)
    let Free16 := s.me.bankQ.length < 16
    (Formats → Payload → s.me.acquiring = false → n < 2 ^ 20 → (∀ k, k < len → ReadsMine s (here + off + k)) →
      (Free16 → Ends (.bkpush d q) s (BankPushed s · { fromMe s with
        w0 := quadWord s q 0, w1 := quadWord s q 1, w2 := quadWord s q 2, w3 := quadWord s q 3, payload := bytes off len
        fa := if p.fa = 0 then 11 else BitVec.ofNat 4 p.fa, fb := if p.fb = 0 then 1 else BitVec.ofNat 4 p.fb
        fc := if p.fc = 0 then 6 else BitVec.ofNat 4 p.fc, rm := if p.rm = 0 then s.me.rmode + 1 else p.rm
        sat := p.sat, scm := BitVec.ofNat 3 p.scm })) ∧
      (¬Free16 → exec (.bkpush d q) s = .next s.stall)) ∧
    (¬Formats → exec (.bkpush d q) s = .next (s.trapMe 1 0 (s.cur.word.setWidth 64))) ∧
    (Formats → ¬Payload → exec (.bkpush d q) s = .next (s.trapMe 3 0 w)) ∧
    (s.me.latchOn = false → ∀ acc src : Acc, Passes s 1 1 w false acc → ChannelPage s w →
      (s.touchTlb n s.me.space w).resolveScratch n (s.me.rx a) 4 4 = .ok src → s.belowMark src.loc 4 = true →
      let x := s.me.rx b
      let start := x.toNat / 2 ^ 16 % 2 ^ 10
      let count := x.toNat % 2 ^ 11
      let Counts := x.toNat / 2 ^ 26 = 0 ∧ x.toNat / 2 ^ 11 % 2 ^ 5 = 0 ∧ count ≠ 0 ∧ start + count ≤ 1024
      let at0 := scratchOff src.loc
      (scratchCore src.loc ≠ n → exec (.bkload d a b) s = .next ((s.touchTlb n s.me.space w).trapMe 3 1 (s.me.rx a))) ∧
      (scratchCore src.loc = n → ¬Counts → exec (.bkload d a b) s = .next ((s.touchTlb n s.me.space w).trapMe 3 1 x)) ∧
      (scratchCore src.loc = n → n < 2 ^ 20 → Counts → at0 + 4 * count ≤ 2 ^ 20 → (∀ k, k < 4 * count → ReadsMine s (here + at0 + k)) → Free16 →
        Ends (.bkload d a b) s (BankPushed s · { fromMe s with
          ch := acc.loc / chanSize, valid := true, load := true, start := start, w1 := w
          words := (List.range count).map fun i => BitVec.ofNat 32 (valueAt s (here + at0 + 4 * i) 4) }))) ∧
    (s.me.latchOn = false → ∀ acc : Acc,
      (Passes s 0 1 (s.me.rx a) false acc → ChannelPage s (s.me.rx a) → Ends (.bkstat d a b l) s
        (LoadIssued s · (s.me.rx a) (.x d) 0xFFFF l (.bkstat (s.me.rx a) (acc.loc / chanSize) ((s.me.rx b).getLsbD 0)))) ∧
      (Passes s 0 1 (s.me.rx a) false acc → ¬ChannelPage s (s.me.rx a) →
        exec (.bkstat d a b l) s = .next ((s.touchTlb n s.me.space (s.me.rx a)).trapMe 3 0 (s.me.rx a))) ∧
      (Passes s 1 1 w false acc → ¬ChannelPage s w → exec (.bkload d a b) s = .next ((s.touchTlb n s.me.space w).trapMe 3 1 w))) ∧
    (s.me.latchOn = false →
      (s.me.bankQ = [] → Ends (.bkpop d) s (WroteX s · d 0xF000000000000000)) ∧
      ∀ r rest, s.me.bankQ = r :: rest →
        (∀ v, r.record = some v → Ends (.bkpop d) s (Popped s · d r v (v.extractLsb' 55 5) { issued s.me (s.me.pc + 4) with bankQ := rest })) ∧
        (r.record = none → exec (.bkpop d) s = .next s.stall))

namespace Sys2Proof.Claims

/-- Engine ch is now as `u`, up to what `f` clears; every other engine is as before. -/
def EngineIs (s t : State) (ch : Nat) (f : Engine → Engine) (u : Engine) : Prop :=
  (∀ k, k ≠ ch → t.eng k = s.eng k) ∧ f (t.eng ch) = f u

/-- The same, and nothing but engines has changed. -/
def EngineNow (s t : State) (ch : Nat) (f : Engine → Engine) (u : Engine) : Prop :=
  { t with engines := s.engines } = s ∧ EngineIs s t ch f u

/-- Beside engines, only DRAM has changed: its bytes and marks, the keys they were written under and the scrubber's write counts. -/
def ChannelWrote (s t : State) : Prop :=
  { t with
    engines := s.engines, mem := s.mem, poison := s.poison, blk := s.blk, lineMeta := s.lineMeta
    pkg := { t.pkg with scrubHold := s.pkg.scrubHold } } = s

/-- A line of DRAM was last written under the key index and buffer id that it is now accessed under, so that it reads as it is (26 R348 to
R350). -/
def Plain (s : State) (ln key buf : Nat) : Prop :=
  (∀ q, mfind s.lineMeta ln = some q → q = s.metaOf ln key buf) ∧
  (s.pkg.tagsOn = true → ∀ q, mfind s.blk (ln / 4) = some q → q = s.metaOf ln key buf)

/-- A page holds an offset of its channel. -/
def InPage (p : BankPage) (off : Nat) : Prop := p.first ≤ off ∧ off < p.first + p.len

/-- The command may read the byte, and it is good (26 R332, 13 R184). -/
def Readable (s : State) (c : BankCmd) (off : Nat) : Prop :=
  let ps := c.rd.toList ++ c.wr.toList
  (∃ p ∈ ps, InPage p off) ∧ (∀ p ∈ ps, InPage p off → Plain s ((c.ch * chanSize + off) / 64) p.key p.buf) ∧
  mget false s.poison ((c.ch * chanSize + off) / 8) = false

/-- The command may write the byte, in a line that merges. -/
def Writable (s : State) (c : BankCmd) (off : Nat) : Prop :=
  ∃ p, c.wr = some p ∧ InPage p off ∧ Plain s ((c.ch * chanSize + off) / 64) p.key p.buf

/-- Marks after a write of n bytes at loc: a word it covers whole is good, every other is as before (13 R184). -/
def Marked (s t : State) (loc n : Nat) : Prop :=
  ∀ x, mget false t.poison x = if loc ≤ 8 * x ∧ 8 * x + 8 ≤ loc + n then false else mget false s.poison x

/-- An engine register. -/
def ereg (e : Engine) (i : BitVec 4) : Nat := (mget 0 e.e i.toNat).toNat

/-- The running command goes on at a word, or ends. -/
def runsOn (e : Engine) (r : BankRun) (pc : Nat) : Engine := { e with run := some { r with pc := pc } }
def endsBy (e : Engine) (r : BankRun) (status cause : Nat) (code : BitVec 16) : Engine :=
  { e with run := some { r with ended := some ⟨status, cause, code⟩ } }

/-- A transfer that BWAIT waits for is pending. -/
def Awaited (e : Engine) (m : BitVec 8) (c : BitVec 1) : Prop :=
  ∃ x ∈ e.xfers, match x with
    | .lda _ ab _ _ _ _ => m.getLsbD ab = true
    | .copy _ _ _ _ _ => c = 1

end Sys2Proof.Claims

/-- 26 R339, R340, R345: the words of bank code that touch the engine alone, and BSYNC. Each goes on or ends the running command; nothing
else changes but, for BSYNC, its eight bytes of the channel. That BLOOP's target word must be exactly 0x8000_0000 is the model's reading
(log 54). -/
def Sys2Proof.Claims.BankScalarWords : Prop :=
  ∀ (s : State) (r : BankRun), (s.eng s.cur.ch).run = some r → r.ended = none →
    ∀ (d a b : BitVec 4) (z i : BitVec 20) (ab : BitVec 3) (l : BitVec 12) (o m : BitVec 8) (k : BitVec 10) (c sat nosc : BitVec 1)
      (rm scm : BitVec 3) (sh : BitVec 4) (code : BitVec 16),
    let ch := s.cur.ch
    let e := s.eng ch
    let To := fun (x : Instr) (u : Engine) => Ends x s fun t => EngineNow s t ch id u
    let Sets := fun (x : Instr) (v : BitVec 32) => Ends x s fun t => EngineNow s t ch (fun e => { e with e := [] }) (runsOn e r (r.pc + 1)) ∧
      ∀ j : BitVec 4, mget 0 (t.eng ch).e j.toNat = if j = d then v else mget 0 e.e j.toNat
    let start := fun (x : Xfer) => { runsOn e r (r.pc + 1) with xfers := e.xfers ++ [x], nextXfer := e.nextXfer + 1 }
    let jump := r.pc + k.toNat
    let Loop := jump ≤ 1023 ∧ e.word jump = 0x80000000
    To .bnop (runsOn e r (r.pc + 1)) ∧
    Sets (.bset d sh z) (BitVec.ofNat 32 (z.toNat * 2 ^ sh.toNat)) ∧
    Sets (.badd d a i) (mget 0 e.e a.toNat + i.signExtend 32) ∧
    (ereg e a % 64 = 0 → To (.blda ab a l o) (start (.lda e.nextXfer ab.toNat o.toNat l.toNat (some (ereg e a)) []))) ∧
    (ereg e a % 64 ≠ 0 → To (.blda ab a l o) (endsBy e r 1 2 0)) ∧
    To (.bldaP ab l o) (start (.lda e.nextXfer ab.toNat o.toNat l.toNat none [])) ∧
    (¬Loop → To (.bloop a k) (endsBy e r 4 0 0)) ∧
    (Loop → ereg e a = 0 → To (.bloop a k) (runsOn e r (jump + 1))) ∧
    (Loop → ereg e a ≠ 0 → 4 ≤ e.loops.length → To (.bloop a k) (endsBy e r 4 0 0)) ∧
    (Loop → ereg e a ≠ 0 → e.loops.length < 4 →
      To (.bloop a k) { runsOn e r (r.pc + 1) with loops := (r.pc + 1, mget 0 e.e a.toNat) :: e.loops }) ∧
    (e.loops = [] → To .bend (endsBy e r 4 0 0)) ∧
    (∀ p n rest, e.loops = (p, n) :: rest → To .bend
      (if n = 1 then { runsOn e r (r.pc + 1) with loops := rest } else { runsOn e r p with loops := (p, n - 1) :: rest })) ∧
    (Awaited e m c → exec (.bwait m c) s = .next s) ∧ (¬Awaited e m c → To (.bwait m c) (runsOn e r (r.pc + 1))) ∧
    To (.bfmt d a b rm sat scm nosc) { runsOn e r (r.pc + 1) with
      fa := if d = 0 then e.fa else d, fb := if a = 0 then e.fb else a, fc := if b = 0 then e.fc else b, rm := if rm = 0 then e.rm else rm
      sat := sat = 1, scm := if nosc = 1 then 0 else if scm = 0 then e.scm else scm } ∧
    (ereg e b = 0 → To (.bzero a b) (runsOn e r (r.pc + 1))) ∧
    (ereg e b ≠ 0 → 1024 < ereg e a + ereg e b → To (.bzero a b) (endsBy e r 1 3 0)) ∧
    (ereg e b ≠ 0 → ereg e a + ereg e b ≤ 1024 → Ends (.bzero a b) s fun t =>
      EngineNow s t ch (fun e => { e with result := [] }) (runsOn e r (r.pc + 1)) ∧ ∀ q, mget 0 (t.eng ch).result q =
        if ereg e a ≤ q / 8 ∧ q / 8 < ereg e a + ereg e b then 0 else mget 0 e.result q) ∧
    (ereg e a % 64 = 0 → ereg e d % 64 = 0 → ereg e b % 64 = 0 →
      To (.bcopy d a b) (start (.copy e.nextXfer (ereg e a) (ereg e d) (ereg e b) []))) ∧
    (ereg e a % 64 ≠ 0 ∨ ereg e d % 64 ≠ 0 ∨ ereg e b % 64 ≠ 0 → To (.bcopy d a b) (endsBy e r 1 2 0)) ∧
    To .bhalt (endsBy e r 0 0 0) ∧ To (.btrap code) (endsBy e r 3 0 code) ∧
    (e.xfers ≠ [] → exec (.bsync a b) s = .next s) ∧
    (e.xfers = [] → ereg e a % 8 ≠ 0 → To (.bsync a b) (endsBy e r 1 2 0)) ∧
    (e.xfers = [] → ereg e a % 8 = 0 → (∀ p, r.cmd.wr = some p → ¬InPage p (ereg e a)) → To (.bsync a b) (endsBy e r 1 3 0)) ∧
    (e.xfers = [] → ereg e a % 8 = 0 → Writable s r.cmd (ereg e a) → Ends (.bsync a b) s fun t =>
      ChannelWrote s t ∧ EngineIs s t ch id (runsOn e r (r.pc + 1)) ∧
      Wrote s t (r.cmd.ch * chanSize + ereg e a) 8 (ereg e b) ∧ Marked s t (r.cmd.ch * chanSize + ereg e a) 8)

namespace Sys2Proof.Claims

/-- The kinds of BROW (26 R342). -/
def rowKinds : List (Nat × Nat) := [(11, 1), (12, 1), (1, 1), (11, 7)]

/-- What BROW makes of an entry (26 R342, 06 R82, R83): `wt` and `act` are the patterns of the weights and activations. -/
def rowSum (fa fb : Nat) (rm : BitVec 3) (K : Nat) (wt act : Nat → Nat) (old : Nat) : Nat × BitVec 5 :=
  if fb = 7 then (List.range ((K + 31) / 32)).foldl (fun acc g =>
    let q := kGroup (modeRM rm 0) acc.1 ((List.range (min 32 (K - 32 * g))).map fun x =>
      ((srcVal (numFmt fa) (wt (32 * g + x))).1, (srcVal (numFmt fb) (act (32 * g + x))).1))
    (q.1, acc.2 ||| q.2)) (old, 0)
  else (wrap 32 (sgn 32 old + ((List.range K).map fun x => intProd (numFmt fa) (wt x) (sgn 8 (act x))).sum), 0)

/-- The pattern of activation x of buffer v. -/
def actAt (e : Engine) (v x : Nat) : Nat :=
  if e.fb = 7 then (mget 0 e.ab (16384 * v + 2 * x)).toNat + (mget 0 e.ab (16384 * v + 2 * x + 1)).toNat * 256
  else (mget 0 e.ab (16384 * v + x)).toNat

/-- The scales of entry (R + r, v) (26 R343). -/
def bankScales (scm : Nat) (x : Nat → Nat) (n r v : Nat) : List Nat :=
  if scm = 1 then [x r] else if scm = 2 then [x v] else if scm = 3 then [x r, x (n + v)] else if scm = 4 then [x 0] else []

/-- The rank of a masked column: how many masked columns lie below it. -/
def rankOf (m : BitVec 8) (v : Nat) : Nat := (List.range v).countP fun j => m.getLsbD j

end Sys2Proof.Claims

/-- 26 R341 to R344, R332: the row words, their checks in order and what each does to the masked entries or to memory. Readings of the
model: the order of the checks, and FC = INT64 in BSCL and BWR (log 54); BSCL's drain of an integer (log 39); a word written in part keeps
its mark (log 42). -/
def Sys2Proof.Claims.BankRowWords : Prop :=
  ∀ (s : State) (r : BankRun), (s.eng s.cur.ch).run = some r → r.ended = none → ∀ (m : BitVec 8) (a n k z : BitVec 4),
    let ch := s.cur.ch
    let e := s.eng ch
    let base := r.cmd.ch * chanSize
    let A := ereg e a
    let N := ereg e n
    let K := ereg e k
    let R := ereg e z
    let fa := e.fa.toNat
    let fb := e.fb.toNat
    let W := fmtWidth e.fc.toNat / 8
    let To := fun (x : Instr) (u : Engine) => Ends x s fun t => EngineNow s t ch id u
    let Checks := fun (x : Instr) (Aligned : Prop) =>
      (N = 0 → To x (runsOn e r (r.pc + 1))) ∧ (N ≠ 0 → 1024 < R + N → To x (endsBy e r 1 3 0)) ∧
      (N ≠ 0 → R + N ≤ 1024 → ¬Aligned → To x (endsBy e r 1 2 0))
    let Entries := fun (x : Instr) (f : Nat → Nat → Nat × BitVec 5) => Ends x s fun t =>
      EngineNow s t ch (fun e => { e with result := [], run := none }) e ∧
      (t.eng ch).run = some { r with pc := r.pc + 1, flags := r.flags ||| flagsAll ((List.range (8 * N)).map fun q =>
        (0, if m.getLsbD (q % 8) = true then (f (q / 8) (q % 8)).2 else 0)) } ∧
      ∀ q, mget 0 (t.eng ch).result q = if R ≤ q / 8 ∧ q / 8 < R + N ∧ m.getLsbD (q % 8) = true
        then BitVec.ofNat 32 (f (q / 8 - R) (q % 8)).1 else mget 0 e.result q
    let old := fun (i v : Nat) => (mget 0 e.result (8 * (R + i) + v)).toNat
    let row := K * fmtWidth fa / 8
    let Rows := A % 8 = 0 ∧ K % 16 = 0 ∧ K * fmtWidth fb / 8 ≤ 16384
    let Scaled := e.scm = 0 ∨ A % 4 = 0
    let scm := e.scm.toNat
    let count := if scm = 1 then N else if scm = 2 then 8 else if scm = 3 then N + 8 else if scm = 4 then 1 else 0
    let bytes := (List.range 8).countP (fun v => m.getLsbD v) * N * W
    let NoPage := ∀ p ∈ r.cmd.rd.toList ++ r.cmd.wr.toList, ¬InPage p A
    ((fa, fb) ∉ rowKinds → To (.brow m a n k z) (endsBy e r 4 0 0)) ∧
    ((fa, fb) ∈ rowKinds → Checks (.brow m a n k z) Rows ∧ (N ≠ 0 → R + N ≤ 1024 → Rows →
      (row ≠ 0 → NoPage → To (.brow m a n k z) (endsBy e r 1 3 0)) ∧
      ((∀ x, A ≤ x → x < A + N * row → Readable s r.cmd x) → Entries (.brow m a n k z) fun i v =>
        rowSum fa fb e.rm K (fun x => valueAt s (base + A + i * row) row / 2 ^ (fmtWidth fa * x) % 2 ^ fmtWidth fa) (actAt e v) (old i v)))) ∧
    Checks (.bscl m a n z) Scaled ∧ (N ≠ 0 → R + N ≤ 1024 → Scaled →
      (count ≠ 0 → NoPage → To (.bscl m a n z) (endsBy e r 1 3 0)) ∧
      ((∀ x, A ≤ x → x < A + 4 * count → Readable s r.cmd x) → Entries (.bscl m a n z) fun i v =>
        drain (decide (fb = 1)) (if fb = 1 ∧ (fa = 11 ∨ fa = 12) then 6 else 0) (old i v)
          (bankScales scm (fun j => valueAt s (base + A + 4 * j) 4) N i v) (numFmt e.fc.toNat) (modeRM e.rm 0) e.sat)) ∧
    Checks (.bwr m a n z) (A % W = 0) ∧ (N ≠ 0 → R + N ≤ 1024 → A % W = 0 →
      (bytes ≠ 0 → (∀ p, r.cmd.wr = some p → ¬InPage p A) → To (.bwr m a n z) (endsBy e r 1 3 0)) ∧
      ((∀ x, A ≤ x → x < A + bytes → Writable s r.cmd x) → Ends (.bwr m a n z) s fun t =>
        ChannelWrote s t ∧ EngineIs s t ch id (runsOn e r (r.pc + 1)) ∧ Marked s t (base + A) bytes ∧
        (∀ i v, i < N → v < 8 → m.getLsbD v = true →
          valueAt t (base + A + (rankOf m v * N + i) * W) W = old i v % 2 ^ (8 * W)) ∧
        ∀ x, x < base + A ∨ base + A + bytes ≤ x → mget 0 t.mem x = mget 0 s.mem x))

namespace Sys2Proof.Claims

/-- A record has been posted into the command's place, with the locations it wrote; a retired thread's is discarded (26 R345, R347). -/
def Posted (s t : State) (c : BankCmd) (w : Word) : Prop :=
  (∀ m j, (m, j) ≠ (c.core, c.ctx) → t.ctx m j = s.ctx m j) ∧ (∀ m, { t.core m with ctxs := [] } = { s.core m with ctxs := [] }) ∧
  t.ctx c.core c.ctx = if (s.ctx c.core c.ctx).gen = c.gen then { s.ctx c.core c.ctx with
    bankQ := (s.ctx c.core c.ctx).bankQ.map fun r => if r.cmd = c.id ∧ r.record = none then
      { r with record := some w, ranges := c.wr.toList.map fun p => (p.ch * chanSize + p.off, p.rlen) } else r }
  else s.ctx c.core c.ctx

/-- A page of a command's range (26 R328, R329): its entry, address, length and access. -/
def rangePage (e : TlbEntry) (va : Word) (len : Nat) (acc : Acc) : BankPage :=
  let off := acc.loc % chanSize
  let size := 2 ^ pageShift e.te0
  ⟨acc.loc / chanSize, off - va.toNat % size, size, off, len, acc.key, acc.buf⟩

/-- x is the one pending transfer of its number. -/
def OneXfer (e : Engine) (id : Nat) (x : Xfer) : Prop :=
  x ∈ e.xfers ∧ x.id = id ∧ ∀ y ∈ e.xfers, y.id = id → y = x

/-- The transfers without one, and with one replaced. -/
def without (e : Engine) (id : Nat) : List Xfer := e.xfers.filter fun x => decide (x.id ≠ id)
def marked (e : Engine) (id : Nat) (x : Xfer) : List Xfer := e.xfers.map fun y => if y.id = id then x else y

/-- The line meets the range of a page. -/
def LineIn (p : Option BankPage) (ln : Nat) : Prop :=
  ∃ q, p = some q ∧ meets (ln * 64) 64 (q.ch * chanSize + q.off) q.rlen = true

/-- No earlier command of the thread must go first. -/
def Clear (s : State) (c : BankCmd) : Prop :=
  ∀ b ∈ s.bankCmds, ¬(b.core = c.core ∧ b.ctx = c.ctx ∧ b.gen = c.gen ∧ b.seq < c.seq ∧ (b.valid = false ∨ (c.valid = true ∧ b.ch = c.ch)))

/-- Only cores, engines and the commands on their way have changed. -/
def BankMoved (s t : State) : Prop :=
  { t with cores := s.cores, engines := s.engines, bankCmds := s.bankCmds } = s

end Sys2Proof.Claims

/-- 26 R329, R331, R333, R335, R336, R340, R345, 04 R52, R54: a command on its way is validated or refused and enters its FIFO; it starts once
the pusher's release holds, after the slice work; loads, samples, transfers, each line of a BLDA in any order and each 8-byte word of a
BCOPY, whose lines ascend (log 52), the watchdog, which counts core cycles (log 29); its record is posted when it has ended and no
transfer is pending. -/
def Obligations.BankCommands : Prop :=
  ∀ (s : State) (ch k : Nat),
    let e := s.eng ch
    (∀ c, nth s.bankCmds k = some c → Clear s c → (∀ m ∈ (s.core c.core).misses, m.ctx = 81 → m.failed = false) →
      let rlen := c.w0.toNat / 2 ^ 32
      let wlen := c.w0.toNat % 2 ^ 32
      let s1 := s.touchTlb c.core c.space c.w1
      let s2 := s1.touchTlb c.core c.space c.w2
      let record := fun (st cause : Nat) => BitVec.ofNat 64 (st * 2 ^ 60 + cause * 2 ^ 47 + c.tag * 2 ^ 16)
      let Taken := fun (t : State) => t.bankCmds = dropNth s.bankCmds k
      (c.valid = true → (s.eng c.ch).fifo.length < 16 → Ends (.bankCommandPush k) s fun t => BankMoved s t ∧ Taken t ∧ t.cores = s.cores ∧
        EngineIs s t c.ch id { s.eng c.ch with fifo := (s.eng c.ch).fifo ++ [c] }) ∧
      (c.valid = false → c.w3.toNat / 2 ^ 58 ≠ 0 ∨ (rlen = 0 ∧ wlen = 0) → Ends (.bankCommandPush k) s fun t =>
        BankMoved s t ∧ Taken t ∧ t.engines = s.engines ∧ Posted s t c (record 2 0)) ∧
      (c.valid = false → c.w3.toNat / 2 ^ 58 = 0 → rlen ≠ 0 → ∀ f, s.resolve c.core c.space c.w1 0 1 1 false = .fault f →
        Ends (.bankCommandPush k) s fun t => BankMoved s t ∧ Taken t ∧ t.engines = s.engines ∧ Posted s t c (record 1 f)) ∧
      (c.valid = false → c.w3.toNat / 2 ^ 58 = 0 → rlen ≠ 0 → wlen ≠ 0 → ∀ (ra wa : Acc) (re we : TlbEntry),
        s.resolve c.core c.space c.w1 0 1 1 false = .ok ra → s1.resolve c.core c.space c.w2 2 1 1 false = .ok wa →
        c.w1.toNat / 2 ^ 56 < 8 → c.w2.toNat / 2 ^ 56 < 8 → s1.tlbOf c.core c.space c.w1 = some re → s2.tlbOf c.core c.space c.w2 = some we →
        re.te1.toNat / 2 ^ 56 % 4 = 2 → we.te1.toNat / 2 ^ 56 % 4 = 2 →
        let rp := rangePage re c.w1 rlen ra
        let wp := rangePage we c.w2 wlen wa
        let Fits := rp.off + rlen ≤ rp.first + rp.len ∧ wp.off + wlen ≤ wp.first + wp.len ∧ rp.ch = wp.ch
        let v := { c with ch := rp.ch, valid := true, rd := some rp, wr := some wp }
        (¬Fits → Ends (.bankCommandPush k) s fun t => BankMoved s t ∧ Taken t ∧ t.engines = s.engines ∧ Posted s2 t c (record 2 0)) ∧
        (Fits → Clear s v → (s.eng v.ch).fifo.length < 16 → Ends (.bankCommandPush k) s fun t => BankMoved s t ∧ Taken t ∧
          t.cores = s2.cores ∧ EngineIs s t v.ch id { s.eng v.ch with fifo := (s.eng v.ch).fifo ++ [v] }))) ∧
    (∀ c q, e.run = none → e.fifo = c :: q →
      (s.gate c.core c.ctx c.seq c.qpos 5 = false → exec (.bankCommandStart ch) s = .next s) ∧
      (s.gate c.core c.ctx c.seq c.qpos 5 = true → Ends (.bankCommandStart ch) s fun t =>
        ChannelWrote s { t with lines := s.lines } ∧
        EngineIs s t ch (fun e => { e with e := [] }) { e with
          fifo := q, loops := [], payload := c.payload ++ List.replicate (256 - c.payload.length) 0, fa := c.fa, fb := c.fb, fc := c.fc
          rm := c.rm, sat := c.sat, scm := c.scm
          run := some ⟨c, if c.load then c.start else c.w3.toNat / 2 ^ 48 % 2 ^ 10, s.clock.toNat, 0, none, none⟩ } ∧
        (∀ j : BitVec 4, mget 0 (t.eng ch).e j.toNat = if j = 0 then BitVec.ofNat 32 ((c.rd.map BankPage.off).getD 0)
          else if j = 1 then BitVec.ofNat 32 ((c.wr.map BankPage.off).getD 0) else if j = 2 then c.w3.setWidth 32 else 0) ∧
        (∀ ln, mfind t.lines ln = (mfind s.lines ln).bind fun l => open Classical in
          if LineIn c.wr ln then none else if LineIn c.rd ln then some { l with dirty := false } else some l) ∧
        ∀ ln b, b < 64 → mget 0 t.mem (64 * ln + b) = match mfind s.lines ln with
          | some l => open Classical in
            if l.dirty = true ∧ (LineIn c.rd ln ∨ LineIn c.wr ln) then byteAt l.data.toNat b else mget 0 s.mem (64 * ln + b)
          | none => mget 0 s.mem (64 * ln + b))) ∧
    (∀ n i q w va c sel, s.winOf n i q = some w → w.pend = .bkstat va c sel → Ends (.bkstatSample n i q) s fun t =>
      let u := s.eng c
      let v : Word := BitVec.ofNat 64 (if sel then s.usableOf c / 2 ^ 16 * 2 ^ 16 + c
        else (match u.run with
          | some r => r.pc % 2 ^ 10 * 2 ^ 54 + 2 ^ 53 + r.cmd.tag * 2 ^ 32
          | none => 0) + min 16 u.fifo.length * 2 ^ 48 + u.done.toNat)
      OnlyCtx s t n i ∧ t.ctx n i = landedIn (s.ctx n i) q (.val (v.setWidth 512))) ∧
    (∀ r, e.run = some r →
      let base := r.cmd.ch * chanSize
      (r.cmd.load = true → r.ended = none → Ends (.bkloadRun ch) s fun t =>
        EngineNow s t ch (fun e => { e with istore := [] }) (endsBy e r 0 0 0) ∧ ∀ j, (t.eng ch).word j =
          if r.cmd.start ≤ j ∧ j < r.cmd.start + r.cmd.words.length then r.cmd.words.getD (j - r.cmd.start) 0 else e.word j) ∧
      (r.ended = none → r.startAt + 2 ^ 24 * 7 / 5 ≤ s.clock.toNat → Ends (.engineWatchdog ch) s fun t => EngineNow s t ch id (endsBy e r 5 0 0)) ∧
      (s.clock.toNat < r.startAt + 2 ^ 24 * 7 / 5 → exec (.engineWatchdog ch) s = .next s) ∧
      (∀ id ab doff len src done, OneXfer e id (.lda id ab doff len src done) →
        let Line := fun (k x : Nat) => 16384 * ab + 64 * (doff + k) ≤ x ∧ x < 16384 * ab + 64 * (doff + k) + 64
        let byte := fun (x : Nat) => match src with
          | some a => mget 0 s.mem (base + a + (x - (16384 * ab + 64 * doff)))
          | none => e.payload.getD (x - (16384 * ab + 64 * doff)) 0
        let Source := fun (k : Nat) => match src with
          | some a => ∀ x, x < 64 → Readable s r.cmd (a + 64 * k + x)
          | none => 64 * len ≤ e.payload.length
        let Moved := fun (ks : Nat → Prop) (ab' : Map Byte) => ∀ x,
          ((∃ k, ks k ∧ Line k x) → mget 0 ab' x = byte x) ∧ ((∀ k, ks k → ¬Line k x) → mget 0 ab' x = mget 0 e.ab x)
        ((∀ k, k < len → k ∉ done → Source k) → Ends (.bldaComplete ch id) s fun t =>
          EngineNow s t ch (fun e => { e with ab := [] }) { e with xfers := without e id } ∧
          Moved (fun k => k < len ∧ k ∉ done) (t.eng ch).ab) ∧
        (∀ k, k < len → k ∉ done → Source k → let t := s.xferTurn ch id k
          EngineNow s t ch (fun e => { e with ab := [] }) { e with xfers := marked e id (.lda id ab doff len src (k :: done)) } ∧
          Moved (fun j => j = k) (t.eng ch).ab) ∧
        (∀ a, src = some a → done = [] → 0 < len → (∀ p ∈ r.cmd.rd.toList ++ r.cmd.wr.toList, ¬InPage p a) → r.xferFault = none →
          Ends (.bldaComplete ch id) s fun t => EngineNow s t ch (fun e => e) { e with
            xfers := without e id, run := some { r with xferFault := some (id, 3), ended := some (r.ended.getD ⟨1, 0, 0⟩) } })) ∧
      (∀ id a d n done, OneXfer e id (.copy id a d n done) → a % 64 = 0 → d % 64 = 0 → n % 64 = 0 →
        (∀ p ∈ r.cmd.rd.toList ++ r.cmd.wr.toList, ∀ q ∈ r.cmd.rd.toList ++ r.cmd.wr.toList, p.key = q.key ∧ p.buf = q.buf) →
        (∀ x, x < n → Readable s r.cmd (a + x) ∧ Writable s r.cmd (d + x)) →
        (done = [] → d ≤ a ∨ a + n ≤ d →
          Ends (.bcopyComplete ch id) s fun t => ChannelWrote s t ∧ EngineIs s t ch (fun e => e) { e with xfers := without e id } ∧
            Wrote s t (base + d) n (valueAt s (base + a) n) ∧ Marked s t (base + d) n) ∧
        (∀ k j, j < k / 8 * 8 → j ∉ done → s.xferTurn ch id k = s) ∧
        (∀ k, k < n / 8 → k ∉ done → (∀ j, j < k / 8 * 8 → j ∈ done) → let t := s.xferTurn ch id k
          ChannelWrote s t ∧ EngineIs s t ch (fun e => e) { e with xfers := marked e id (.copy id a d n (k :: done)) } ∧
          Wrote s t (base + d + 8 * k) 8 (valueAt s (base + a + 8 * k) 8) ∧ Marked s t (base + d + 8 * k) 8)) ∧
      (∀ d0, r.ended = some d0 → e.xfers = [] →
        let d : BankEnd := match r.xferFault with
          | some f => if d0.status = 1 ∧ d0.cause ≠ 0 then d0 else ⟨1, f.2, d0.code⟩
          | none => d0
        Ends (.bankRecordPost ch) s fun t => BankMoved s t ∧ t.bankCmds = s.bankCmds ∧
          EngineIs s t ch (fun e => e) { e with run := none, done := e.done + 1 } ∧ Posted s t r.cmd (BitVec.ofNat 64 (d.status * 2 ^ 60 +
            r.flags.toNat * 2 ^ 55 + d.cause * 2 ^ 47 + min r.pc 1023 * 2 ^ 37 + r.cmd.tag * 2 ^ 16 + d.code.toNat))) ∧
      (r.ended = none ∨ e.xfers ≠ [] → exec (.bankRecordPost ch) s = .next s))

/-! ### Launches (chapter 02; 28 R359, R363, R364) -/

namespace Sys2Proof.Claims

/-- The little-endian value of bytes. -/
def valueOf (bs : List Byte) : Nat := bs.foldr (fun b v => b.toNat + 256 * v) 0

/-- A record breaks a rule of 02 R18: no thread, a reserved bit, too many co-resident threads, or an address field that is misaligned or
names a form above bit 59. -/
def BadRecord (w : BitVec 512) : Prop :=
  let field := fun (lo : Nat) => (w.extractLsb' lo 64).toNat
  let N := (w.extractLsb' 128 32).toNat
  N = 0 ∨ w.extractLsb' 189 3 ≠ 0 ∨ (w.getLsbD 167 = true ∧ 32768 < N) ∨
  field 0 / 2 ^ 60 ≠ 0 ∨ field 0 % 4 ≠ 0 ∨ field 64 / 2 ^ 60 ≠ 0 ∨ field 64 % 4 ≠ 0 ∨ field 192 / 2 ^ 60 ≠ 0 ∨ field 192 % 8 ≠ 0

/-- The status that refuses a record, if one does: 3 a full host queue, 2 a malformed record, 1 a co-resident launch that no assignment to
empty cores could hold (02 R18, R19, R22, R27). -/
noncomputable def refusedBy (s : State) (b q : Nat) (w : BitVec 512) : Option Nat :=
  open Classical in
  if q < 8 ∧ 64 ≤ (s.queueOf b q).recs.length then some 3 else if BadRecord w then some 2
  else if w.getLsbD 167 = true ∧ s.corAssign w (fun _ => 64) [] 0 (w.extractLsb' 128 32).toNat = none then some 1 else none

/-- The lid of the counter's value. -/
def nextLid (s : State) (b : Nat) : BitVec 32 := BitVec.ofNat 1 b ++ (s.ctlOf b).counter

/-- The controller has accepted a record: the launch has a lid, the counter has moved on, and the record waits in its queue or the launch
ends with its status (02 R18, R22, R23). -/
def LaunchAccepted (s t : State) (b q : Nat) (lid : BitVec 32) (w : BitVec 512) (space : BitVec 12) (st : Option Nat) : Prop :=
  let u := s.queueOf b q
  t.arrivals = s.arrivals + 1 ∧
  t.launches = s.launches ++ [⟨lid, b, q, w, space, s.arrivals, 0, 0, match st with
    | some x => .ending x
    | none => .queued, false, false, 0, [], [], [], []⟩] ∧
  (∀ c, c ≠ b → t.ctlOf c = s.ctlOf c) ∧ (∀ p, p ≠ q → t.queueOf b p = s.queueOf b p) ∧
  { t.ctlOf b with queues := [] } = { s.ctlOf b with
    queues := [], counter := if (s.ctlOf b).counter = 0x7FFFFFFF then 1 else (s.ctlOf b).counter + 1 } ∧
  t.queueOf b q = match st with
    | none => { u with recs := u.recs ++ [⟨lid, w, space, s.arrivals⟩] }
    | some 3 => { u with overflow := u.overflow + 1 }
    | some _ => u

/-- A status has reached the thread that sent a message, if it is still there; no instruction of the thread has issued past a due result
(02 R28, 14 R193, R194). -/
def Answered (s t : State) (o : OutMsg) (r : Res) : Prop :=
  (s.ctx o.core o.ctx).past = [] →
    t.ctx o.core o.ctx = if (s.ctx o.core o.ctx).gen = o.gen then landedIn (s.ctx o.core o.ctx) o.seq r else s.ctx o.core o.ctx

end Sys2Proof.Claims

/-- 02 R18 to R20, R22, R23, 14 R194: a port write of one aligned record, and a record that a thread launches, are accepted under the lid
of the controller's counter where that is not live, or refused with a status; any other port write is counted. A malformed record that a
thread launches is accepted with status 0, and a refused record becomes a launch that is ending: the model's readings (log 55). -/
def Sys2Proof.Claims.LaunchRecords : Prop :=
  ∀ (s : State) (b q : Nat), s.lidLive (nextLid s b) = false →
    let u := s.queueOf b q
    (∀ data : List Byte, b < 2 → q < 8 → data.length = 64 → s.pkg.bootst = 4 →
      let w := BitVec.ofNat 512 (valueOf data)
      Ends (.launchPortWrite b q 0 data 1) s fun t => { t with ctl := s.ctl, launches := s.launches, arrivals := s.arrivals } = s ∧
        LaunchAccepted s t b q (nextLid s b) w u.space (refusedBy s b q w)) ∧
    (∀ (data : List Byte) (off k : Nat), b < 2 → q < 8 → off < 64 → data ≠ [] → s.pkg.bootst ≠ 4 ∨ off ≠ 0 ∨ data.length ≠ 64 ∨ k ≠ 1 →
      Ends (.launchPortWrite b q off data k) s fun t => { t with ctl := s.ctl } = s ∧ t.queueOf b q = { u with portErr := u.portErr + 1 } ∧
        (∀ p, p ≠ q → t.queueOf b p = s.queueOf b p) ∧ { t.ctlOf b with queues := [] } = { s.ctlOf b with queues := [] } ∧
        ∀ c, c ≠ b → t.ctlOf c = s.ctlOf c) ∧
    (∀ k o d loc, nth s.outs k = some o → o.launch = some (d, loc) → o.dest = b → q = 8 + d →
      let Gate := s.gate o.core o.ctx o.seq o.qpos o.scope = true
      let Bad := anyPoison s.poison loc 64 = true
      let Full := 16 ≤ u.recs.length
      let w := BitVec.ofNat 512 (valueAt s loc 64)
      let Kept := fun (t : State) => t.outs = dropNth s.outs k ∧ t.mem = s.mem ∧ (∀ m j, (m, j) ≠ (o.core, o.ctx) → t.ctx m j = s.ctx m j) ∧
        ∀ m, { t.core m with ctxs := [] } = { s.core m with ctxs := [] }
      (¬Gate → exec (.launchRecord k) s = .next s) ∧
      (Gate → Bad → Ends (.launchRecord k) s fun t => Kept t ∧ t.launches = s.launches ∧ t.ctl = s.ctl ∧ Answered s t o (.fault 5 0 o.msg.pc)) ∧
      (Gate → ¬Bad → Full → Ends (.launchRecord k) s fun t => Kept t ∧ t.launches = s.launches ∧ t.ctl = s.ctl ∧ Answered s t o (.val 1)) ∧
      (Gate → ¬Bad → ¬Full → Ends (.launchRecord k) s fun t => Kept t ∧
        LaunchAccepted s t b q (nextLid s b) w o.msg.space (refusedBy s b q w) ∧ Answered s t o (.val 0)))

namespace Sys2Proof.Claims

/-- The head record of a queue: the launch put in front at a resume, or the oldest record. -/
def headOf (s : State) (b q : Nat) : Option QRec :=
  ((s.queueOf b q).front ++ (s.queueOf b q).recs).head?

/-- The class a record has now: its queue's override where enabled, else its own; an override written in this cycle counts from the next
(02 R29, 03 R38). -/
def classNow (s : State) (b q : Nat) (w : BitVec 512) : BitVec 2 :=
  let u := s.queueOf b q
  let o := if u.ovAt = some s.clock.toNat then u.ovOld else (u.ovclass, u.oven)
  if o.2 = true ∧ q < 8 then o.1 else w.extractLsb' 160 2

/-- The cores that the threads of a co-resident record would go to over the contexts that are idle now, if the assignment succeeds
(02 R27). -/
def coresNow (s : State) (b q : Nat) (r : QRec) : Option (List Nat) :=
  s.corAssign r.words (fun n => (List.range 64).countP fun i => decide ((s.ctx n i).run = .idle ∧ (s.ctx n i).idleAt ≠ some s.clock.toNat) &&
    !s.heldFrom n i r.lid (classNow s b q r.words)) [] 0 (r.words.extractLsb' 128 32).toNat

/-- A head that the controller may serve: a co-resident one only while its assignment succeeds (02 R21, R27). -/
def Serves (s : State) (b q : Nat) (r : QRec) : Prop :=
  q < 12 ∧ headOf s b q = some r ∧ (r.words.getLsbD 167 = true → coresNow s b q r ≠ none)

/-- The head that comes first: the highest class, then the earliest arrival (02 R21). -/
def First (s : State) (b q : Nat) (r : QRec) : Prop :=
  Serves s b q r ∧ ∀ p r', p ≠ q → Serves s b p r' → classNow s b q r.words < classNow s b p r'.words ∨
    (classNow s b q r.words = classNow s b p r'.words ∧ r.arrival < r'.arrival)

/-- A launch has left its queue, and the contexts that were held for it are free for others (02 R27). -/
def LeftQueue (s t : State) (b q : Nat) (lid : BitVec 32) : Prop :=
  let u := s.queueOf b q
  t.queueOf b q = { u with recs := u.recs.filter (fun r => decide (r.lid ≠ lid)), front := u.front.filter fun r => decide (r.lid ≠ lid) } ∧
  (∀ p, p ≠ q → t.queueOf b p = s.queueOf b p) ∧ { t.ctlOf b with queues := [] } = { s.ctlOf b with queues := [] } ∧
  (∀ c, c ≠ b → t.ctlOf c = s.ctlOf c) ∧
  (∀ m, { t.core m with held := [] } = { s.core m with held := [] }) ∧
  ∀ m, (t.core m).held = (s.core m).held.filter fun h => decide (h.2 ≠ lid)

/-- No controller work of the base comes first: it distributes nothing and no resumed launch waits (02 R21, 13 R380). -/
def Unoccupied (s : State) (b : Nat) : Prop :=
  (∀ l ∈ s.launches, ¬(l.base = b ∧ l.phase = .distributing)) ∧ (s.ctlOf b).resumed = []

/-- Thread i's hint: its code's core, or the next in code order that is active and unparked (02 R24). -/
def HintIs (s : State) (w : BitVec 512) (i : Nat) (h : Option Nat) : Prop :=
  let code := (w.extractLsb' 168 9).toNat + i * (w.extractLsb' 177 9).toNat
  let at' := fun (k : Nat) => coreOfCode ((code + k) % 512)
  let Takes := fun (n : Nat) => n ∉ s.pkg.retired ∧ (s.core n).parked = false
  match h with
  | some n => ∃ k, k < 512 ∧ n = at' k ∧ Takes n ∧ ∀ j, j < k → ¬Takes (at' j)
  | none => ∀ k, k < 512 → ¬Takes (at' k)

/-- The state of a thread that has just started (02 R16): pc, x1 to x5 and what the message carries; every other register and CSR zero; the
generation and the order of accesses go on. A word that was poisoned in the message is poisoned in its register (13 R184, log 83), and the
thread reads none of the `stale` lines of its core's L1 (02 R28, 08 R94, log 31). -/
def StartedWith (u t : Ctx) (i : Nat) (m : InMsg) (stale : List Nat) : Prop :=
  t = { Ctx.reset with
    run := .ready, pc := m.pc, tid := m.tid, lid := m.lid, spawnno := m.spawnno, rmode := m.rmode, ehandler := m.ehandler &&& ~~~3
    cls := m.cls, space := m.space, gen := u.gen, seq := u.seq, regErr := m.bad, stale := stale, x := t.x } ∧
  ∀ r : BitVec 5, t.rx r = if r = 1 then m.x1 else if r = 2 then m.x2 else if r = 3 then m.x3 else if r = 4 then m.x4
    else if r = 5 ∧ m.kind = 2 then BitVec.ofNat 64 (14 * 2 ^ 56 + (0xFC000 + 256 * i)) else 0

/-- The lines that a thread which a device thread made does not read from its core's L1, so that it sees its parent's stores; the L1 itself
is as before (02 R28, 08 R94, log 31). -/
def staleLines (s : State) (n : Nat) (fresh : Bool) : List Nat :=
  if fresh then (s.core n).l1.map (·.1) else []

/-- The thread has started in context i of core n, and no other context has changed; a core that held no thread of its launch has an empty
instruction cache (08 R97). `fresh`: a device thread made it. The core remembers the cycle and the kind of request it gave a context to
(21 R282). -/
def StartsAt (s t : State) (n i : Nat) (m : InMsg) (fresh : Bool) (kind : Nat) : Prop :=
  let rest := fun (c : Core) => { c with
    ctxs := [], icache := [], held := [], inbox := [], handAt := none, arrs := [], bankAt := 0, bankOps := [] }
  StartedWith (s.ctx n i) (t.ctx n i) i m (staleLines s n fresh) ∧ (∀ p j, (p, j) ≠ (n, i) → t.ctx p j = s.ctx p j) ∧
  (∀ p, p ≠ n → { t.core p with ctxs := [] } = { s.core p with ctxs := [] }) ∧
  rest (t.core n) = rest (s.core n) ∧ (t.core n).handAt = some (s.clock.toNat, kind) ∧
  ((∀ e ∈ (s.core n).ctxs, ¬(e.2.lid = m.lid ∧ e.2.run ≠ .idle)) → (t.core n).icache = []) ∧
  (m.kind ≠ 2 → ∀ x, mget 0 t.mem x = mget 0 s.mem x)

/-- A send's landing buffer can be written with no thread watching it. -/
def CanLand (s : State) (n i : Nat) (m : InMsg) : Prop :=
  m.kind = 2 → 0 < m.payload.length ∧ Unwatched s (scratchAt n + (0xFC000 + 256 * i)) m.payload.length

/-- A context is idle, and was so before this cycle (21 R282). -/
def IdleNow (s : State) (n i : Nat) : Prop :=
  (s.ctx n i).run = .idle ∧ (s.ctx n i).idleAt ≠ some s.clock.toNat

/-- The lowest idle context of core n that a launch of the class may take. -/
def LowestIdle (s : State) (n i : Nat) (lid : BitVec 32) (cls : BitVec 2) : Prop :=
  let Open := fun (j : Nat) => IdleNow s n j ∧ s.heldFrom n j lid cls = false
  i < 64 ∧ Open i ∧ ∀ j, j < i → ¬Open j

/-- No idle context is open to a launch of the class. -/
def NoneIdle (s : State) (n : Nat) (lid : BitVec 32) (cls : BitVec 2) : Prop :=
  ∀ j, j < 64 → IdleNow s n j → s.heldFrom n j lid cls = true

/-- The message of thread i of a launch (02 R16, R17). -/
def threadMessage (l : Launch) (i : Nat) : InMsg :=
  let arg := fun (k : Nat) => l.words.extractLsb' (256 + 64 * k) 64
  ⟨0, l.lid, l.words.extractLsb' 0 64, arg 0, arg 1, arg 2, arg 3, BitVec.ofNat 64 (i + 1), BitVec.ofNat 32 i, l.cls, l.space, 0,
    l.words.extractLsb' 64 64, [], [], []⟩

/-- The threads of a launch's record. -/
def threadsIn (l : Launch) : Nat := (l.words.extractLsb' 128 32).toNat

/-- A queued message may start: its launch is not halted and a context that it may take is idle (02 R26). -/
def MayStart (s : State) (n : Nat) (m : InMsg) : Prop :=
  s.stopped m.lid = false ∧ ∃ i, LowestIdle s n i m.lid m.cls

/-- Only start messages have changed: the one at k is now `m`. -/
def StartNow (s t : State) (k : Nat) (m : StartMsg) : Prop :=
  { t with starts := s.starts } = s ∧ t.starts = setNth s.starts k m

end Sys2Proof.Claims

/-- 02 R21, R24 to R27, R29, R38, R16: selecting the first head record, a co-resident one among them while its assignment succeeds, sending a
launch's thread-start messages, at most one a cycle, what a message does at each core of its route and when it comes back, and the start of
a co-resident launch. Choices of the model: a co-resident launch's distances are measured from R24's substitute hint (log 51), and a message
that arrives waits while a queued one may start (log 60). -/
def Sys2Proof.Claims.LaunchDistribution : Prop :=
  ∀ (s : State) (b : Nat),
    (∀ q r, Unoccupied s b → First s b q r → r.words.getLsbD 167 = true → exec (.launchSelect b) s = .next s) ∧
    (∀ q r, Unoccupied s b → First s b q r → r.words.getLsbD 167 = false →
      (∀ p, exec (.coresidentStart b p) s = .next s) ∧
      Ends (.launchSelect b) s fun t => { t with ctl := s.ctl, cores := s.cores, launches := s.launches } = s ∧ LeftQueue s t b q r.lid ∧
        t.launches = s.launches.map fun l => if l.lid = r.lid then { l with phase := .distributing, cls := classNow s b q r.words } else l) ∧
    (¬Unoccupied s b → exec (.launchSelect b) s = .next s) ∧
    (∀ l, l ∈ s.launches → l.base = b → l.phase = .distributing → l.next < threadsIn l →
      (∀ l' ∈ s.launches, l'.base = b → l'.phase = .distributing → l' = l) → ∀ h, HintIs s l.words l.next h →
      (s.ctlOf b).emitAt ≠ some s.clock.toNat →
      Ends (.threadStartEmit b) s fun t => { t with launches := s.launches, starts := s.starts, ctl := s.ctl } = s ∧
        t.ctlOf b = { s.ctlOf b with emitAt := some s.clock.toNat } ∧ (∀ c, c ≠ b → t.ctlOf c = s.ctlOf c) ∧
        t.launches = s.launches.map (fun l' => if l'.lid = l.lid then { l' with
          next := l'.next + 1, phase := if threadsIn l ≤ l.next + 1 then .distributed else .distributing } else l') ∧
        t.starts = s.starts ++ [⟨b, l.lid, l.next, h.getD 0, if h = none then .held s.clock.toNat else .route 0⟩]) ∧
    ((s.ctlOf b).emitAt = some s.clock.toNat → exec (.threadStartEmit b) s = .next s) ∧
    (∀ k m l p n, nth s.starts k = some m → s.launchOf m.lid = some l → m.place = .route p → routeCore m.base m.hint p = some n →
      s.inboxReady n = false →
      let Near := n ∉ s.pkg.retired ∧ (s.core n).parked = false ∧ hops m.hint n ≤ (l.words.extractLsb' 162 5).toNat
      let Waiting := (s.core n).inbox.countP (fun e => decide (e.kind = 0))
      (∀ i, Near → LowestIdle s n i l.lid l.cls → Ends (.threadStartMessage k) s fun t =>
        StartsAt s t n i (threadMessage l m.idx) (decide (8 ≤ l.queue)) 3 ∧ t.starts = dropNth s.starts k ∧ (t.core n).inbox = (s.core n).inbox) ∧
      (¬Near ∨ NoneIdle s n l.lid l.cls → n ≠ m.hint → Ends (.threadStartMessage k) s (StartNow s · k { m with place := .route (p + 1) })) ∧
      (NoneIdle s n l.lid l.cls → n = m.hint → n ∉ s.pkg.retired → (s.core n).parked = false → Waiting < 16 →
        Ends (.threadStartMessage k) s fun t => t.starts = dropNth s.starts k ∧ (∀ c, c ≠ n → t.core c = s.core c) ∧
          t.core n = { s.core n with inbox := (s.core n).inbox ++ [threadMessage l m.idx] }) ∧
      (NoneIdle s n l.lid l.cls → n = m.hint → n ∈ s.pkg.retired ∨ (s.core n).parked = true ∨ 16 ≤ Waiting →
        Ends (.threadStartMessage k) s (StartNow s · k { m with place := .returned }))) ∧
    (∀ base hint k, routeCore base hint k =
      let x0 := 16 * base + 8
      let dx := (hint % 32 - x0) + (x0 - hint % 32)
      if k ≤ dx then some (if x0 ≤ hint % 32 then x0 + k else x0 - k)
      else if k ≤ dx + hint / 32 then some ((k - dx) * 32 + hint % 32) else none) ∧
    (∀ k m, nth s.starts k = some m → m.place = .returned →
      Ends (.returnedThreadStart k) s (StartNow s · k { m with place := .timed s.clock.toNat })) ∧
    (∀ k m l since h, nth s.starts k = some m → s.launchOf m.lid = some l → s.stopped m.lid = false → HintIs s l.words m.idx h →
      let again : StartMsg := ⟨l.base, l.lid, m.idx, h.getD 0, if h = none then .held s.clock.toNat else .route 0⟩
      let Late := since + 256 ≤ s.clock.toNat
      (m.place = .timed since → (Late → Ends (.reemitTimeout k) s (StartNow s · k again)) ∧ (¬Late → exec (.reemitTimeout k) s = .next s)) ∧
      (m.place = .held since → (Late → Ends (.heldMessageRetry k) s (StartNow s · k again)) ∧
        (¬Late → exec (.heldMessageRetry k) s = .next s))) ∧
    (∀ k m l p n, nth s.starts k = some m → s.launchOf m.lid = some l → m.place = .route p → routeCore m.base m.hint p = some n →
      s.inboxReady n = true → exec (.threadStartMessage k) s = .next s) ∧
    (∀ q r l ns, First s b q r → s.launchOf r.lid = some l → r.words.getLsbD 167 = true → Unoccupied s b →
      l.words = r.words → l.base = b → l.queue = q → coresNow s b q r = some ns →
      Ends (.coresidentStart b q) s fun t => LeftQueue s { t with cores := s.cores.map fun c =>
          (c.1, { c.2 with held := c.2.held.filter fun h => decide (h.2 ≠ r.lid) }) } b q r.lid ∧
        (∀ n i, (s.ctx n i).run ≠ .idle → t.ctx n i = s.ctx n i) ∧
        ∀ k n, nth ns k = some n → ∃ i, i < 64 ∧ IdleNow s n i ∧
          StartedWith (s.ctx n i) (t.ctx n i) i (threadMessage { l with cls := classNow s b q r.words } k) (staleLines s n (decide (8 ≤ q))))

/-- 02 R26, R28, 15 R219, 21 R282: a spawn or send message reaches its core once its release holds, and starts its thread (status 0), waits
there (1) or is refused (2); the oldest queued message that may start does when a context is idle, before any that arrives, and in the next
cycle where the core has given a context to an arriving one in this. That a queued message which may start passes one that may not, and that
the arriving one waits for it, is the model's choice (log 60). -/
def Sys2Proof.Claims.SpawnMessages : Prop :=
  ∀ (s : State) (k : Nat) (o : OutMsg), nth s.outs k = some o → o.launch = none →
    let n := o.dest
    let m := o.msg
    let Gate := s.gate o.core o.ctx o.seq o.qpos o.scope = true
    let Parked := (s.core n).parked = true
    let Waiting := (s.core n).inbox.countP fun e => decide (e.kind ≠ 0)
    let Gone := fun (t : State) => t.outs = dropNth s.outs k
    let Cores := fun (t : State) (f : Core → Core) => ∀ c, { t.core c with ctxs := [] } = { (if c = n then f (s.core n) else s.core c) with ctxs := [] }
    let Others := fun (t : State) => ∀ c j, (c, j) ≠ (o.core, o.ctx) → t.ctx c j = s.ctx c j
    (¬Gate → exec (.spawnMessage k) s = .next s) ∧
    (Gate → Parked → Ends (.spawnMessage k) s fun t => Gone t ∧ Cores t id ∧ Others t ∧ Answered s t o (.val 2)) ∧
    (Gate → ¬Parked → s.inboxReady n = false →
      (∀ i, LowestIdle s n i m.lid m.cls → CanLand s n i m → (n, i) ≠ (o.core, o.ctx) → Ends (.spawnMessage k) s fun t => Gone t ∧ Answered s t o (.val 0) ∧
        StartedWith (s.ctx n i) (t.ctx n i) i m (staleLines s n true) ∧ (t.core n).l1 = (s.core n).l1 ∧
        (∀ c j, (c, j) ≠ (o.core, o.ctx) → (c, j) ≠ (n, i) → t.ctx c j = s.ctx c j) ∧
        (m.kind = 2 → n < 2 ^ 20 → i < 64 → 0 < m.payload.length → m.payload.length ≤ 256 →
          Wrote s t (scratchAt n + (0xFC000 + 256 * i)) m.payload.length (valueOf m.payload))) ∧
      (NoneIdle s n m.lid m.cls → Waiting < 16 → Ends (.spawnMessage k) s fun t => Gone t ∧
        Cores t (fun c => { c with inbox := c.inbox ++ [m] }) ∧ Others t ∧ Answered s t o (.val 1)) ∧
      (NoneIdle s n m.lid m.cls → 16 ≤ Waiting → Ends (.spawnMessage k) s fun t => Gone t ∧ Cores t id ∧ Others t ∧
        Answered s t o (.val 2))) ∧
    (Gate → ¬Parked → s.inboxReady n = true → exec (.spawnMessage k) s = .next s) ∧
    (∀ c pre e post i, (s.core c).inbox = pre ++ e :: post → (∀ p ∈ pre, ¬MayStart s c p) → s.stopped e.lid = false →
      LowestIdle s c i e.lid e.cls → CanLand s c i e → s.handedPast c 2 = false →
      Ends (.inboundMessageStart c) s fun t => (t.core c).inbox = pre ++ post ∧
        StartsAt s t c i e (decide (e.kind ≠ 0) || (s.launchOf e.lid).any fun l => decide (8 ≤ l.queue)) 2) ∧
    (∀ c, (∀ p ∈ (s.core c).inbox, ¬MayStart s c p) ∨ s.handedPast c 2 = true → exec (.inboundMessageStart c) s = .next s) ∧
    (∀ c, s.inboxReady c = true ↔ ∃ p ∈ (s.core c).inbox, MayStart s c p) ∧
    ∀ c kind, s.handedPast c kind = true ↔ ∃ k, (s.core c).handAt = some (s.clock.toNat, k) ∧ kind < k

namespace Sys2Proof.Claims

/-- Nothing of a launch is left: no thread, no message on its way or queued, no command (02 R36). -/
def NothingLeft (s : State) (lid : BitVec 32) : Prop :=
  (∀ e ∈ s.cores, (∀ c ∈ e.2.ctxs, ¬(c.2.lid = lid ∧ c.2.run ≠ .idle)) ∧ (∀ m ∈ e.2.inbox, m.lid ≠ lid)) ∧
  (∀ m ∈ s.starts, m.lid ≠ lid) ∧ ∀ m ∈ s.outs, m.msg.lid ≠ lid

/-- No command of a launch waits or runs in a copy or bank engine. -/
def NoCommands (s : State) (lid : BitVec 32) : Prop :=
  (∀ e ∈ s.cores, ∀ r ∈ e.2.copyFifo, r.lid ≠ lid) ∧ (∀ c ∈ s.bankCmds, c.lid ≠ lid) ∧
  ∀ e ∈ s.engines, (∀ c ∈ e.2.fifo, c.lid ≠ lid) ∧ ∀ r, e.2.run = some r → r.cmd.lid ≠ lid

/-- A vector has been sent: a masked one is pending, and a down host link loses it (28 R356, R357; the table's layout: log 84). -/
def Vectored (p : Pkg) (v : BitVec 11) : Pkg :=
  if (p.msixWord (2 * v.toNat + 1)).getLsbD 32 = true then { p with msixPend := mset false p.msixPend v.toNat true }
  else if p.linkUp = true then { p with msix := p.msix ++ [v] } else p

/-- A thread of an ending launch can be idled: its results have landed, all but those of its messages, its stores are acknowledged, and an
instruction of it that has stores left to queue has completed (02 R36, 21 R322). -/
def Landed (s : State) (n i : Nat) : Prop :=
  (s.ctx n i).todo = none ∧
  (∀ w ∈ (s.ctx n i).windows, w.res.isSome = true ∨ ∃ r, w.pend = .message r) ∧ ∀ e ∈ (s.core n).storeQ, e.ctx ≠ i

/-- The launch has ended with a status: it is live no more, its queue's registers say so, its vector is sent where enabled, and a command on
it ends (02 R22, 28 R359, R360, R364). `unwritten`: the record's address took no record, which is counted and logged with KIND 7. -/
def StatusEntered (s t : State) (l : Launch) (st : Nat) (unwritten : Bool) : Prop :=
  let u := s.queueOf l.base l.queue
  let c := s.ctlOf l.base
  t.launches = s.launches.filter (fun k => decide (k.lid ≠ l.lid)) ∧
  t.queueOf l.base l.queue = { u with
    lastStatus := BitVec.ofNat 3 st, lastV := true, lastLid := l.lid, ended := u.ended + 1
    noRecord := if unwritten then u.noRecord + 1 else u.noRecord } ∧
  (∀ p, p ≠ l.queue → t.queueOf l.base p = s.queueOf l.base p) ∧
  { t.ctlOf l.base with queues := [] } = { c with queues := [], busy := c.busy && decide (c.cmdLid ≠ l.lid) } ∧
  t.pkg = (if u.msien = true ∧ l.queue < 8 then Vectored s.pkg u.msivec else s.pkg) ∧
  (if unwritten then Logged s.errLog t.errLog
    ⟨l.words.extractLsb' 192 64, s.clock, l.lid, (s.coordOf (16 * l.base + 8) 0).setWidth 17, 0, 7⟩ else t.errLog = s.errLog) ∧ ∀ n i, t.ctx n i = s.ctx n i

end Sys2Proof.Claims

/-- 02 R22, R36, 28 R359, R363, R364: a distributed launch of which nothing is left ends with status 0; until then it does not end. Its record
goes to CADDR, CLOCK before the word with the valid bit, where that is not 0 and takes a record. A launch that ends with another
status waits until its threads' results and stores are done; its threads are then idled, its channels unbound and its messages
withdrawn. -/
def Sys2Proof.Claims.LaunchCompletion : Prop :=
  ∀ (s : State) (l : Launch), s.launchOf l.lid = some l →
    let Done := l.phase = .distributed ∧ threadsIn l ≤ l.next ∧ NothingLeft s l.lid ∧ NoCommands s l.lid
    let ca := l.words.extractLsb' 192 64
    (Done → ca = 0 → Ends (.launchCompletion l.lid) s fun t => StatusEntered s t l 0 false ∧ t.mem = s.mem) ∧
    (Done → ca ≠ 0 → ca.toNat / 2 ^ 60 ≠ 0 ∨ ca.toNat % 8 ≠ 0 → Ends (.launchCompletion l.lid) s fun t => StatusEntered s t l 0 true ∧ t.mem = s.mem) ∧
    (Done → ca ≠ 0 → ca.toNat / 2 ^ 60 = 0 → ca.toNat % 8 = 0 → ca.toNat / 2 ^ 56 ≠ 13 → ca.toNat / 2 ^ 56 ≠ 14 → s.pkg.linkUp = true →
      (∀ x y q, s.misrouted x y q = false) → (∀ m ∈ (s.core (1024 + l.base)).misses, m.ctx = 82 → m.failed = false) → ∀ a0 a1, s.resolve (1024 + l.base) l.space ca 1 8 1 false = .ok a0 → isHost a0.loc = true → a0.loc % 8 = 0 →
      (s.touchTlb (1024 + l.base) l.space ca).resolve (1024 + l.base) l.space (ca + 8) 1 8 1 false = .ok a1 → isHost a1.loc = true →
      a1.loc % 8 = 0 → a0.loc ≠ a1.loc → Ends (.launchCompletion l.lid) s fun t => StatusEntered s t l 0 false ∧
        ∀ x, mget 0 t.mem x = if a0.loc ≤ x ∧ x < a0.loc + 8 then byteAt (2 ^ 63 + l.lid.toNat * 2 ^ 8) (x - a0.loc)
          else if a1.loc ≤ x ∧ x < a1.loc + 8 then byteAt s.clock.toNat (x - a1.loc) else mget 0 s.mem x) ∧
    (l.phase = .distributed → ¬Done → exec (.launchCompletion l.lid) s = .next s) ∧
    (l.phase = .queued ∨ l.phase = .distributing → exec (.launchCompletion l.lid) s = .next s) ∧
    (∀ st, l.phase = .ending st → NothingLeft s l.lid → NoCommands s l.lid → ca = 0 → Ends (.launchCompletion l.lid) s fun t =>
      t.launches = s.launches.filter (fun k => decide (k.lid ≠ l.lid)) ∧ (t.queueOf l.base l.queue).lastStatus = BitVec.ofNat 3 st ∧
      (t.queueOf l.base l.queue).lastLid = l.lid ∧ (∀ r ∈ (t.queueOf l.base l.queue).recs, r.lid ≠ l.lid) ∧ t.mem = s.mem ∧
      ∀ n i, t.ctx n i = s.ctx n i) ∧
    (∀ st, l.phase = .ending st → Tables s → NoCommands s l.lid → ca = 0 →
      let Mine := fun n i => (s.ctx n i).lid = l.lid ∧ (s.ctx n i).run ≠ .idle
      ((∀ n i, Mine n i → Landed s n i ∧ ∀ o, (s.core n).mx.op = some o → o.ctx ≠ i) → Ends (.launchCompletion l.lid) s fun t =>
        (∀ n i, Mine n i → t.ctx n i = Sys2Proof.Claims.retired (s.ctx n i) s.clock.toNat) ∧
        (∀ n i, (s.ctx n i).lid ≠ l.lid → ((t.ctx n i).run = .idle ↔ (s.ctx n i).run = .idle) ∧ (t.ctx n i).gen = (s.ctx n i).gen) ∧
        t.starts = s.starts.filter (fun m => decide (m.lid ≠ l.lid)) ∧ t.outs = s.outs.filter (fun o => decide (o.msg.lid ≠ l.lid)) ∧
        (∀ n, (t.core n).inbox = (s.core n).inbox.filter fun m => decide (m.lid ≠ l.lid)) ∧
        (∀ n c b, ((t.core n).chan c).bound = some b → b.lid ≠ l.lid) ∧
        t.launches = s.launches.filter (fun k => decide (k.lid ≠ l.lid)) ∧ (t.queueOf l.base l.queue).lastStatus = BitVec.ofNat 3 st ∧
        (t.queueOf l.base l.queue).lastLid = l.lid ∧ (∀ r ∈ (t.queueOf l.base l.queue).recs, r.lid ≠ l.lid) ∧ t.mem = s.mem) ∧
      ((∃ n i, Mine n i ∧ ¬Landed s n i) → Ends (.launchCompletion l.lid) s fun t => t.launches = s.launches ∧ t.starts = s.starts ∧
        t.outs = s.outs ∧ t.mem = s.mem ∧ ∀ n i, Mine n i → (t.ctx n i).run ≠ .idle))

/-! ### Pre-emption and the controllers' commands (chapter 13; 28 R360) -/

namespace Sys2Proof.Claims

/-- Only the controllers' registers have changed, and of those only controller b's, which are now `c` beside its queues. -/
def CtlNow (s t : State) (b : Nat) (c : Ctl) : Prop :=
  (∀ d, d ≠ b → t.ctlOf d = s.ctlOf d) ∧ { t.ctlOf b with queues := [] } = { c with queues := [] }

/-- The command has ended with a RESULT and done nothing else (28 R360). -/
def Ended (s t : State) (b : Nat) (r : BitVec 4) : Prop :=
  { t with ctl := s.ctl } = s ∧ CtlNow s t b { s.ctlOf b with busy := false, result := r } ∧ ∀ q, t.queueOf b q = s.queueOf b q

/-- The controller's registers while a command on a launch goes on; a launch that is pre-empted or ends no longer waits to be distributed
further (13 R380). -/
def busyOn (s : State) (b : Nat) (lid : BitVec 32) : Ctl :=
  { s.ctlOf b with busy := true, result := 0, cmdLid := lid }
def busyOff (s : State) (b : Nat) (lid : BitVec 32) : Ctl :=
  { busyOn s b lid with resumed := (s.ctlOf b).resumed.filter fun r => decide (r ≠ lid) }

/-- The 64 KiB region that LSAVE names. -/
def savePlace (s : State) (b : Nat) : Nat := (s.ctlOf b).lsave.toNat / 2 ^ 16 * 2 ^ 16

/-- A launch record in the controller's table is changed by `f`. -/
def LaunchNow (s t : State) (lid : BitVec 32) (f : Launch → Launch) : Prop :=
  t.launches = s.launches.map fun l => if l.lid = lid then f l else l

/-- The window list that LWIN names, read from the global region: none for 0 (28 R360). -/
def windowsOf (s : State) (b : Nat) : Option (List (Nat × Nat × Nat)) := s.readWindows (s.ctlOf b).lwin.toNat

/-- The launch is the record at its queue's head. -/
def AtHead (s : State) (l : Launch) : Prop :=
  l.phase = .queued ∧ ∃ r, headOf s l.base l.queue = some r ∧ r.lid = l.lid

end Sys2Proof.Claims

/-- 28 R360, 13 R185, R380, 02 R36: LCMD_PREEMPT, LCMD_RESUME and LCMD_TERMINATE: the RESULT that turns each away, with nothing else
changed, and what each starts. A command while one is going on does nothing, but for the termination of a launch whose pre-emption is in
progress (log 82). The size a save needs is stated as the model computes it (log 23). RESULT 6 for a window of an inactive core, RESULT 2
for a header that does not match and for the termination of a launch that ends, and the class that a pre-empted record keeps, are the
model's readings (log 58); RESULT 2 for a region with a poisoned head is its choice (log 83). -/
def Sys2Proof.Claims.LaunchCommands : Prop :=
  ∀ (s : State) (b : Nat) (lid : BitVec 32),
    let c := s.ctlOf b
    let Cmds : List Instr := [.lcmdPreempt b lid, .lcmdResume b lid, .lcmdTerminate b lid]
    let Preempting := c.busy = true ∧ c.cmdLid = lid ∧ ∃ l, s.launchOf lid = some l ∧ (l.phase = .halting ∨ l.phase = .halted)
    (c.busy = true → exec (.lcmdPreempt b lid) s = .next s ∧ exec (.lcmdResume b lid) s = .next s) ∧
    (c.busy = true → ¬Preempting → exec (.lcmdTerminate b lid) s = .next s) ∧
    (∀ l, s.launchOf lid = some l → l.base = b → (∃ st, l.phase = .ending st) → c.busy = false → Ends (.lcmdTerminate b lid) s (Ended s · b 2)) ∧
    (∀ l, s.launchOf lid = some l → l.base = b → c.busy = false ∨ Preempting → (∀ st, l.phase ≠ .ending st) →
      Ends (.lcmdTerminate b lid) s fun t => CtlNow s t b (busyOff s b lid) ∧
        (∀ r ∈ (t.queueOf b l.queue).recs ++ (t.queueOf b l.queue).front, r.lid ≠ lid) ∧ (∀ q, q ≠ l.queue → t.queueOf b q = s.queueOf b q) ∧
        (∀ l' ∈ t.launches, l'.lid = lid → ∃ st, l'.phase = .ending st) ∧
        (t.launchOf lid).map (·.phase) = some (.ending 5) ∧ t.mem = s.mem ∧ ∀ n i, t.ctx n i = s.ctx n i) ∧
    (c.busy = false → (∀ l, s.launchOf lid = some l → l.base ≠ b) → ∀ i ∈ Cmds, Ends i s (Ended s · b 1)) ∧
    (c.busy = false → ∀ l, s.launchOf lid = some l → l.base = b →
      let Runs := l.phase = .distributing ∨ l.phase = .distributed
      let at0 := savePlace s b
      (¬Runs → ¬AtHead s l → Ends (.lcmdPreempt b lid) s (Ended s · b 2)) ∧
      (Runs ∨ AtHead s l →
        (windowsOf s b = none → Ends (.lcmdPreempt b lid) s (Ended s · b 7)) ∧
        ∀ ws, windowsOf s b = some ws →
          let Windows := ∀ w ∈ ws, w.2.1 % 64 = 0 ∧ w.2.2 % 64 = 0 ∧ w.2.1 + w.2.2 ≤ 2 ^ 20 ∧ w.1 ∉ s.pkg.retired
          let need := s.saveNeed lid ws
          let Room := need ≤ c.lsize.toNat ∧ (s.globalLoc at0).isSome = true ∧ (s.globalLoc (at0 + need - 1)).isSome = true
          (¬Windows → Ends (.lcmdPreempt b lid) s (Ended s · b 6)) ∧
          (Windows → ¬Room → Ends (.lcmdPreempt b lid) s fun t => { t with ctl := s.ctl } = s ∧ (∀ q, t.queueOf b q = s.queueOf b q) ∧
            CtlNow s t b { c with busy := false, result := 3, need := BitVec.ofNat 32 ((need + 0xFFFF) / 2 ^ 16) }) ∧
          (Windows → Room → Runs → Ends (.lcmdPreempt b lid) s fun t => { t with ctl := s.ctl, launches := s.launches } = s ∧
            CtlNow s t b (busyOff s b lid) ∧ (∀ q, t.queueOf b q = s.queueOf b q) ∧
            LaunchNow s t lid fun l => { l with phase := .halting, lsave := at0, lwin := ws, saved := [] }) ∧
          (Windows → Room → AtHead s l → Ends (.lcmdPreempt b lid) s fun t =>
            LeftQueue { s with ctl := mput s.ctl b { busyOff s b lid with queues := c.queues } } t b l.queue lid ∧
            LaunchNow s t lid fun l => { l with
              phase := .halted, waitq := true, cls := classNow s b l.queue l.words, lsave := at0, lwin := ws, saved := [] })) ∧
      let Header := s.regionVal at0 = 2 ^ 63 + lid.toNat
      let Clean := ∀ k, s.regionBad (at0 + 8 * k) = false
      let map := s.readMap c.lmap.toNat
      (l.phase ≠ .saved ∨ ¬Header ∨ s.regionBad at0 = true → Ends (.lcmdResume b lid) s (Ended s · b 2)) ∧
      (l.phase = .saved → Header → Clean →
        (map = none → Ends (.lcmdResume b lid) s (Ended s · b 7)) ∧
        ∀ m, map = some m →
          let mats := s.savedMats at0
          let cores := (s.savedCtxs at0).map (·.1) ++ mats.map (·.1) ++ (s.savedMsgs at0).map (·.1) ++
            (s.savedWins at0 (s.saved at0 7) (s.saved at0 6)).map (·.1)
          let Active := ∀ n ∈ cores, imageOf m n ∉ s.pkg.retired
          let Gangs := ∀ q ∈ mats, gangMaps m mats q.1 (s.saved at0 (q.2 / 8 + 8194) % 8) = true
          (¬Active → Ends (.lcmdResume b lid) s (Ended s · b 5)) ∧ (Active → ¬Gangs → Ends (.lcmdResume b lid) s (Ended s · b 4)) ∧
          (Active → Gangs → Ends (.lcmdResume b lid) s fun t => { t with ctl := s.ctl, launches := s.launches } = s ∧
            CtlNow s t b (busyOn s b lid) ∧ (∀ q, t.queueOf b q = s.queueOf b q) ∧
            LaunchNow s t lid fun l => { l with phase := .resuming, restored := false, lsave := at0, lmap := m })))

namespace Sys2Proof.Claims

/-- A context holds a thread of the launch. -/
def HoldsThread (s : State) (n i : Nat) (lid : BitVec 32) : Prop :=
  (s.ctx n i).lid = lid ∧ (s.ctx n i).run ≠ .idle

/-- A thread that can be halted as it stands: every result landed, so that no instruction has issued past a due one, no instruction with
stores left to queue, every store acknowledged, no trap on its way, no lock, miss, rendezvous entry, operation or formation. A trap that is
due waits for the resume (13 R185). -/
def Haltable (s : State) (n i : Nat) : Prop :=
  let u := s.ctx n i
  u.landed = true ∧ (∀ e ∈ (s.core n).storeQ, e.ctx ≠ i) ∧ u.trapPend = none ∧ u.lock = none ∧
  u.past = [] ∧ u.todo = none ∧ (∀ q ∈ (s.core n).misses, q.ctx ≠ i) ∧
  (∀ e ∈ (s.core n).rvt, e.holder ≠ i) ∧ (s.core n).mx.op = none ∧ (s.core n).mx.form = none ∧
  ∀ a l p d dl q, u.run ≠ .waiting (.bar a l p d (some dl) q)

/-- What a halted context keeps waiting for: an HBAR issues again (13 R186). -/
def waitKept (r : Run) : Option Wait :=
  match r with
  | .waiting (.hbar _ _ _ _) => none
  | .waiting w => some w
  | _ => none

/-- The context halted: its generation has risen, its registers and windows are as they were. -/
def haltedFrom (u : Ctx) : Ctx :=
  { u with run := .halted (waitKept u.run), gen := u.gen + 1, stallAt := none, stallCnt := 0, trapPend := none, yieldFor := none, barHeld := none
           fences := [] }

/-- No message of a launch is on its way between cores. -/
def NoneMoving (s : State) (lid : BitVec 32) : Prop :=
  (∀ m ∈ s.starts, m.lid = lid → ∀ p, m.place ≠ .route p) ∧ ∀ o ∈ s.outs, o.msg.lid ≠ lid

/-- A launch of its controller goes on: it runs again, and what is left of it is distributed later (13 R380). -/
def Resumed (s t : State) (l : Launch) (next : Nat) : Prop :=
  (t.ctlOf l.base).busy = false ∧ (t.ctlOf l.base).result = 0 ∧
  (t.ctlOf l.base).resumed = (s.ctlOf l.base).resumed ++ (if next < threadsIn l then [l.lid] else []) ∧
  (t.launchOf l.lid).map (fun k => (k.phase, k.next, k.msgs, k.saved)) = some (.distributed, next, [], [])

/-- What a restored context holds of the words of its record (13 R187), each CSR under its own rule (14 R206), where no word is poisoned. -/
def RestoredFrom (u t : Ctx) (g : Nat → Nat) (cls : BitVec 2) : Prop :=
  let w := fun (k : Nat) => BitVec.ofNat 64 (g k)
  let st := w 317
  t.run = .ready ∧ (∀ r : BitVec 5, t.rx r = if r = 0 then 0 else w r.toNat) ∧
  (∀ (r : BitVec 5) k, k < 8 → (t.rv r).extractLsb' (64 * k) 64 = w (32 + 8 * r.toNat + k)) ∧
  (∀ r : BitVec 3, t.rk r = if r = 0 then 0xFFFF else BitVec.ofNat 16 (g (288 + r.toNat / 4) / 2 ^ (16 * (r.toNat % 4)))) ∧
  (∀ k, k < 4 → t.qm.extractLsb' (64 * k) 64 = w (290 + k) ∧ t.qd.extractLsb' (64 * k) 64 = w (294 + k)) ∧
  t.pc = w 298 &&& ~~~3 ∧ t.tid = (w 299).setWidth 32 ∧ t.lid = (w 300).setWidth 32 ∧ t.spawnno = w 301 ∧ ((w 302).toNat % 8 < 5 → t.rmode = (w 302).setWidth 3) ∧
  t.vflg0 = w 303 &&& 0x1F1F1F1F1F1F1F1F ∧ t.vflg1 = w 304 &&& 0x1F1F1F1F1F1F1F1F ∧ t.fmtp = (w 305).setWidth 19 ∧ t.pp = (w 306).getLsbD 14 ∧ t.scnt = (w 306).extractLsb' 8 6 ∧
  (cvdOk ((w 307).setWidth 11) = true → t.cvd = (w 307).setWidth 11) ∧ t.cvf = (w 308).setWidth 8 ∧ t.qtb = (w 309).extractLsb' 8 13 ∧ ((w 310).toNat % 8 < 5 → t.qstr = (w 310).setWidth 3) ∧
  t.qbat = (w 311).setWidth 16 ∧ t.mxprog = mxprogPut 0 (w 312) ∧ t.epc = w 313 &&& ~~~3 ∧ t.ecause = w 314 &&& 0xECFF ∧ t.etval = w 315 ∧
  t.ehandler = w 316 &&& ~~~3 ∧
  t.space = st.extractLsb' 0 12 ∧ t.cls = cls ∧ t.latch = st.extractLsb' 18 19 ∧ t.latchOn = st.getLsbD 37 ∧ t.inh = st.getLsbD 38 ∧
  (let W := min 16 (g 317 % 2 ^ 48 / 2 ^ 43)
   t.windows.length = W ∧ ∀ j, j < W → ∃ q, t.windows[j]? = some q ∧
     let m := g (328 + 9 * j)
     q.mask.toNat = m / 2 ^ 24 % 2 ^ 16 ∧ q.left = m / 2 ^ 12 % 2 ^ 4 ∧ q.held = m.testBit 11 ∧
     q.dest = (if m.testBit 10 then .v (BitVec.ofNat 5 (m / 2 ^ 5)) else .x (BitVec.ofNat 5 (m / 2 ^ 5))) ∧
     (m / 2 ^ 16 % 2 ^ 8 ≠ 0 → ∃ k, q.res = some (.fault (m / 2 ^ 16 % 2 ^ 8) k (w (320 + 9 * j)))) ∧
     (m / 2 ^ 16 % 2 ^ 8 = 0 → ∃ v : Vec, q.res = some (.val v) ∧ ∀ k, k < 8 → v.extractLsb' (64 * k) 64 = w (320 + 9 * j + k))) ∧
  t.gen = u.gen ∧ t.lock = none ∧ t.fences = []

/-- A core and its coordinate in the coord layout (12 R174). -/
def coordWord (n : Nat) : Nat := n / 32 * 2 ^ 7 + n % 32 * 4

/-- n words of the global region from an offset on exist, each in DRAM at a place of its own. -/
def RegionFits (s : State) (b n : Nat) : Prop :=
  b % 8 = 0 ∧ ∃ f : Nat → Nat, ∀ k, k < n → s.globalLoc (b + 8 * k) = some (f k) ∧ f k % 8 = 0 ∧ isDram (f k) = true ∧
    ∀ j, j < n → f j = f k → j = k

/-- A window's record at word k (13 R187): its result or the faulting address, then MASK, FAULT, LEFT, HELD, VEC and REG. -/
def WindowSaved (q : Window) (g : Nat → Nat) (k : Nat) : Prop :=
  let rest := fun (cause : Nat) => q.mask.toNat * 2 ^ 24 + cause * 2 ^ 16 + q.left * 2 ^ 12 + (if q.held then 2 ^ 11 else 0) +
    match q.dest with
    | .x r => r.toNat * 2 ^ 5
    | .v r => 2 ^ 10 + r.toNat * 2 ^ 5
  (∀ c kind a, q.res = some (.fault c kind a) → g k = a.toNat ∧ g (k + 8) = rest c) ∧
  (∀ v : Vec, q.res = some (.val v) → g k = (v.extractLsb' 0 64).toNat ∧ g (k + 8) = rest 0 ∧
    ∀ r, q.dest = .v r → ∀ j, j < 8 → g (k + j) = (v.extractLsb' (64 * j) 64).toNat)

/-- The record of a halted context, word by word (13 R187). -/
def SavedAs (u : Ctx) (coord : Word) (g : Nat → Nat) : Prop :=
  let W := min 16 u.windows.length
  let bit := fun (b : Bool) (k : Nat) => if b then 2 ^ k else 0
  let st := fun (ws : Nat) (ph : Bool) => W * 2 ^ 43 + ws * 2 ^ 40 + bit ph 39 + bit u.inh 38 + bit u.latchOn 37 + u.latch.toNat * 2 ^ 18 +
    u.cls.toNat * 2 ^ 16 + u.space.toNat
  (∀ r : BitVec 5, g r.toNat = (u.rx r).toNat) ∧
  (∀ (r : BitVec 5) k, k < 8 → g (32 + 8 * r.toNat + k) = ((u.rv r).extractLsb' (64 * k) 64).toNat) ∧
  (∀ r : BitVec 3, g (288 + r.toNat / 4) / 2 ^ (16 * (r.toNat % 4)) % 2 ^ 16 = (u.rk r).toNat) ∧
  (∀ k, k < 4 → g (290 + k) = (u.qm.extractLsb' (64 * k) 64).toNat ∧ g (294 + k) = (u.qd.extractLsb' (64 * k) 64).toNat) ∧
  ([u.pc.toNat, u.tid.toNat, u.lid.toNat, u.spawnno.toNat, u.rmode.toNat, u.vflg0.toNat, u.vflg1.toNat, u.fmtp.toNat,
    u.space.toNat * 2 ^ 16 + bit u.inh 15 + bit u.pp 14 + u.scnt.toNat * 2 ^ 8 + u.cls.toNat, u.cvd.toNat, u.cvf.toNat, u.qtb.toNat * 256,
    u.qstr.toNat, u.qbat.toNat, u.mxprog.toNat, u.epc.toNat, u.ecause.toNat, u.etval.toNat, u.ehandler.toNat].mapIdx
      fun j v => (g (298 + j), v)).all (fun p => decide (p.1 = p.2)) = true ∧
  (∀ a l p d dl q, u.run = .halted (some (.bar a l p d dl q)) → g 317 = st 1 p ∧ g 318 = a.toNat) ∧
  (∀ a l p d, u.run = .halted (some (.word a l p d)) → g 317 = st 2 false ∧ g 318 = 0) ∧
  (u.run = .halted (some .gang) → g 317 = st 3 false ∧ g 318 = 0) ∧ (u.run = .halted none → g 317 = st 0 false ∧ g 318 = 0) ∧
  g 319 = coord.toNat ∧ ∀ j q, j < W → u.windows[j]? = some q → WindowSaved q g (320 + 9 * j)

/-- The records that a queue holds, saved as a count and the records. -/
def QueueSaved (q : List RecSlot) (g : Nat → Nat) (k : Nat) : Prop :=
  let rs := q.filterMap fun r => r.record
  g k = rs.length ∧ ∀ j v, rs[j]? = some v → g (k + 1 + j) = v.toNat

/-- Rounded up to 64 bytes; the bytes of a context's record. -/
def to64 (n : Nat) : Nat := (n + 63) / 64 * 64
def recordBytes (u : Ctx) : Nat := to64 (2560 + 72 * min 16 u.windows.length)

end Sys2Proof.Claims

/-- 13 R187, R188, 18 R252, 22 R301, 26 R347: what SAVE_REGION_WRITE leaves in the region: the header, the context index, each context's record
and record queues, the scratch windows, the matrix records and the withdrawn messages, each section at its place. `es` lists the halted
contexts and `ms` the cores whose slices they own, in the order of the rule. -/
def Sys2Proof.Claims.SaveContents : Prop :=
  ∀ (s : State) (l : Launch) (es : List (Nat × Nat)) (ms : List Nat), Tables s → s.launchOf l.lid = some l →
    (∀ l' ∈ s.launches, l'.lid = l.lid → l' = l) → l.phase = .halted → NoCommands s l.lid →
    es.Pairwise (fun p q => p.1 < q.1 ∨ (p.1 = q.1 ∧ p.2 < q.2)) → (∀ n i, (n, i) ∈ es ↔ HoldsThread s n i l.lid) →
    ms.Pairwise (· < ·) → (∀ n, n ∈ ms ↔ ∃ i, (s.core n).mx.owner = some i ∧ HoldsThread s n i l.lid) →
    (∀ e ∈ es, (s.ctx e.1 e.2).copyQ.length ≤ 16 ∧ (s.ctx e.1 e.2).bankQ.length ≤ 16) → (∀ w ∈ l.lwin, w.2.2 % 64 = 0) →
    (∀ e ∈ es, (s.ctx e.1 e.2).windows.Pairwise fun p q => p.seq < q.seq) → (∀ n ∈ ms, (s.core n).mx.stopped.length = 4) →
    (∀ m ∈ l.msgs, m.1 < 512 ∧ m.2.kind < 4 ∧ m.2.payload.length ≤ 256) → (∀ w ∈ l.lwin, w.1 < 512 ∧ w.2.1 < 2 ^ 32 ∧ w.2.2 < 2 ^ 32) →
    (∀ e ∈ es, e.1 < 512 ∧ e.2 < 64 ∧ ∀ q ∈ (s.ctx e.1 e.2).windows, q.left < 16 ∧ ∀ c k a, q.res = some (.fault c k a) → c < 256) →
    l.queue < 12 → l.next < 2 ^ 32 →
    let us := es.map fun e => s.ctx e.1 e.2
    let record := fun (j : Nat) => 4096 + to64 (16 * es.length) + ((us.take j).map recordBytes).sum
    let eng := record es.length
    let win := eng + to64 (272 * es.length)
    let window := fun (j : Nat) => win + ((l.lwin.take j).map fun w => 16 + w.2.2).sum
    let mat := win + to64 (window l.lwin.length - win)
    let msg := mat + 0x100C0 * ms.length
    let total := msg + 320 * l.msgs.length
    total < 2 ^ 32 → RegionFits s l.lsave (total / 8) → Ends (.saveRegionWrite l.lid) s fun t =>
      let g := fun (k : Nat) => t.regionVal (l.lsave + 8 * k)
      g 0 = 2 ^ 63 + l.lid.toNat ∧
      g 1 = l.space.toNat + l.cls.toNat * 2 ^ 16 + (if l.waitq then 2 ^ 18 else 0) + l.queue * 2 ^ 20 + threadsIn l * 2 ^ 32 ∧
      g 2 = (if l.waitq then 0 else l.next) ∧ g 3 = es.length ∧ g 4 = 4096 ∧ g 5 = eng ∧ g 6 = l.lwin.length ∧ g 7 = win ∧ g 8 = ms.length ∧
      g 9 = mat ∧ g 10 = l.msgs.length ∧ g 11 = msg ∧ g 12 = total ∧ (∀ k, 13 ≤ k → k < 512 → g k = 0) ∧
      (∀ j n i, es[j]? = some (n, i) → let u := s.ctx n i
        g (512 + 2 * j) = record j ∧ g (513 + 2 * j) = coordWord n + i * 2 ^ 16 + u.tid.toNat * 2 ^ 32 ∧
        SavedAs u (s.coordOf n (i / 16)) (fun k => g (record j / 8 + k)) ∧
        QueueSaved u.copyQ g (eng / 8 + 34 * j) ∧ QueueSaved u.bankQ g (eng / 8 + 34 * j + 17)) ∧
      (∀ j n base size, l.lwin[j]? = some (n, base, size) → let k := window j / 8
        g k = coordWord n ∧ g (k + 1) = base + size * 2 ^ 32 ∧
        ∀ x, x < size / 8 → g (k + 2 + x) = valueAt s (scratchAt n + base + 8 * x) 8) ∧
      (∀ j n, ms[j]? = some n → let m := (s.core n).mx
        let k := (mat + 0x100C0 * j) / 8
        g k = coordWord n ∧ (∀ x, x < 8192 → g (k + 1 + x) = (mget 0 m.acc (2 * x)).toNat + (mget 0 m.acc (2 * x + 1)).toNat * 2 ^ 32) ∧
        (∀ i, m.owner = some i → g (k + 8193) = (s.ctx n i).mxprog.toNat) ∧ g (k + 8194) = m.g.toNat + 8 + m.tags.toNat * 2 ^ 8 ∧
        ∀ x, x < 4 → g (k + 8195 + x) = (m.stopped.getD x 0).toNat) ∧
      ∀ j n m, l.msgs[j]? = some (n, m) → let k := (msg + 320 * j) / 8
        g k = m.kind + m.payload.length * 2 ^ 8 + coordWord n * 2 ^ 32 ∧ g (k + 1) = m.pc.toNat ∧ g (k + 2) = m.x1.toNat ∧
        g (k + 3) = m.x2.toNat ∧ g (k + 4) = m.x3.toNat ∧ g (k + 5) = m.x4.toNat ∧ g (k + 6) = m.spawnno.toNat ∧
        g (k + 7) = m.tid.toNat + m.cls.toNat * 2 ^ 32 ∧
        ∀ x, x < m.payload.length → g (k + 8 + x / 8) / 2 ^ (8 * (x % 8)) % 2 ^ 8 = (m.payload.getD x 0).toNat

/-- 13 R185, R186, R189, R380, 18 R250, 26 R333, 22 R302: the halt of a launch whose threads can halt as they stand, the end of its save, its
restoration (at a queue's head, with one scratch window or none, or with one context, its CSRs and records under their layouts), the gangs
that stopped with it, and the rest of its distribution. Choices of the model: a context takes the lowest idle one of its image core
(log 35), what is kept beside the region (log 22), and the windows of a launch saved while it waited (log 72). -/
def Sys2Proof.Claims.PreemptionEvents : Prop :=
  ∀ (s : State) (l : Launch), Tables s → s.launchOf l.lid = some l →
    (∀ l' ∈ s.launches, l'.lid = l.lid → l' = l) →
    let lid := l.lid
    (l.phase = .halting → NoneMoving s lid → (∀ n i, HoldsThread s n i lid → Haltable s n i) →
      Ends (.preemptHaltComplete lid) s fun t =>
        (∀ n i, HoldsThread s n i lid → t.ctx n i = haltedFrom (s.ctx n i)) ∧ (∀ n i, ¬HoldsThread s n i lid → t.ctx n i = s.ctx n i) ∧
        (∀ n, (t.core n).inbox = (s.core n).inbox.filter fun m => decide (m.lid ≠ lid)) ∧ t.mem = s.mem ∧
        (t.launchOf lid).map (·.phase) = some .halted ∧
        ∀ k, (t.launchOf lid) = some k → k.msgs = s.cores.flatMap fun c => (c.2.inbox.filter fun m => decide (m.lid = lid)).map fun m => (c.1, m)) ∧
    (l.phase = .halting → ¬NoneMoving s lid → Ends (.preemptHaltComplete lid) s fun t => (t.launchOf lid).map (·.phase) = some .halting) ∧
    (l.phase ≠ .halting → exec (.preemptHaltComplete lid) s = .next s) ∧
    (l.phase = .halted → NoCommands s lid → (s.globalLoc l.lsave).isSome = true → l.lsave % 8 = 0 → Ends (.saveRegionWrite lid) s fun t =>
      t.regionVal l.lsave = 2 ^ 63 + lid.toNat ∧ (t.launchOf lid).map (·.phase) = some .saved ∧ (t.ctlOf l.base).busy = false ∧
      (t.ctlOf l.base).result = 0 ∧ (∀ n i, ¬HoldsThread s n i lid → t.ctx n i = s.ctx n i) ∧
      ∀ n i, HoldsThread s n i lid → t.ctx n i = { Ctx.reset with
        gen := (s.ctx n i).gen, seq := (s.ctx n i).seq, idleAt := some s.clock.toNat }) ∧
    (l.phase = .halted → ¬NoCommands s lid → exec (.saveRegionWrite lid) s = .next s) ∧
    (l.phase = .resuming → l.restored = false → l.waitq = true → s.regionVal (l.lsave + 48) = 0 → Ends (.resumeRestore lid) s fun t =>
      { t with ctl := s.ctl, launches := s.launches } = s ∧
      (t.queueOf l.base l.queue).front = ⟨lid, l.words, l.space, l.arrival⟩ :: (s.queueOf l.base l.queue).front ∧
      (t.queueOf l.base l.queue).recs = (s.queueOf l.base l.queue).recs ∧ (t.ctlOf l.base).busy = false ∧ (t.ctlOf l.base).result = 0 ∧
      LaunchNow s t lid fun l => { l with phase := .queued, waitq := false, saved := [] }) ∧
    (l.phase = .resuming → l.restored = false → l.waitq = true → s.regionVal (l.lsave + 48) = 1 →
      let word := fun (k : Nat) => s.regionVal (l.lsave + 8 * k)
      let win := word 7
      let place := word (win / 8 + 1)
      let n := imageOf l.lmap (coreNamed (BitVec.ofNat 64 (word (win / 8))))
      let loc := scratchAt n + place % 2 ^ 32
      let size := place / 2 ^ 32
      win % 8 = 0 → n < 512 → place % 8 = 0 → size % 8 = 0 → place % 2 ^ 32 + size ≤ 2 ^ 20 →
      (∀ k a, s.globalLoc (l.lsave + 8 * k) = some a → isDram a = true ∧ a % 8 = 0) → Ends (.resumeRestore lid) s fun t =>
        (∀ k, k < size / 8 → valueAt t (loc + 8 * k) 8 = word (win / 8 + 2 + k)) ∧
        (∀ a, a < loc ∨ loc + size ≤ a → mget 0 t.mem a = mget 0 s.mem a) ∧
        (t.queueOf l.base l.queue).front = ⟨lid, l.words, l.space, l.arrival⟩ :: (s.queueOf l.base l.queue).front ∧
        (t.ctlOf l.base).busy = false ∧ (t.ctlOf l.base).result = 0 ∧
        LaunchNow s t lid fun l => { l with phase := .queued, waitq := false, saved := [] }) ∧
    (l.phase = .resuming → l.restored = false → l.waitq = false → s.ownedBy lid = [] →
      let b := l.lsave
      let word := fun (k : Nat) => s.regionVal (b + 8 * k)
      let cls := classNow s l.base l.queue l.words
      let at0 := word (word 4 / 8)
      let n := imageOf l.lmap (coordCore (BitVec.ofNat 64 (word (word 4 / 8 + 1))))
      ∀ i, word 3 = 1 → word 6 = 0 → word 8 = 0 → word 10 = 0 → (∀ x, l.saved[0]? = some x → x.wait = none ∧ x.owner = false) →
        (∀ k, s.regionBad (b + 8 * k) = false) →
        LowestIdle s n i lid cls → (s.core n).mx.owner ≠ some i →
        Ends (.resumeRestore lid) s fun t => RestoredFrom (s.ctx n i) (t.ctx n i) (fun k => word (at0 / 8 + k)) cls ∧
          (t.core n).l1 = (s.core n).l1 ∧ (t.ctx n i).stale = (s.core n).l1.map (·.1) ∧ (t.ctx n i).regErr = [] ∧
          (let e := word 5 / 8
           let kept := fun (at1 : Nat) (mask : Word) => (List.range (min 16 (word at1))).map fun k => some (BitVec.ofNat 64 (word (at1 + 1 + k)) &&& mask)
           (t.ctx n i).copyQ.map (·.record) = kept e 0xFFFF1F01FFFFFFFF ∧
           (t.ctx n i).bankQ.map (·.record) = kept (e + 17) 0xFFFFFFE0FFFFFFFF) ∧
          (∀ k, k < 5 → (t.core n).raiseDue.getLsbD k = ((s.core n).raiseDue.getLsbD k || (List.range 8).any fun j =>
            (t.ctx n i).vflg0.getLsbD (8 * j + k) || (t.ctx n i).vflg1.getLsbD (8 * j + k))) ∧
          (∀ m j, (m, j) ≠ (n, i) → t.ctx m j = s.ctx m j) ∧ t.mem = s.mem ∧ Resumed s t l (word 2)) ∧
    (l.phase = .resuming → l.restored = true →
      (s.stoppedGangs lid = [] → Ends (.gangResume lid) s fun t => Resumed s t l l.next ∧ t.mem = s.mem ∧ t.cores = s.cores) ∧
      ∀ n i, s.stoppedGangs lid = [(n, i)] → (s.core n).mx.form = none → Ends (.gangResume lid) s fun t =>
        let w := (s.ctx n i).mxprog
        let d := fun (k : Nat) => (s.core n).mx.stopped.getD k 0
        let field := fun (lo bits : Nat) => BitVec.ofNat 4 (w.toNat / 2 ^ lo % 2 ^ bits)
        let o : MxOp := ⟨i, true, w.extractLsb' 44 2, d 0, d 1, d 2, d 3, field 24 4, field 20 4, field 16 4, w.extractLsb' 13 3,
          w.toNat / 2 ^ 28 % 2 ^ 16, 0, false, (s.core n).nextStore, (s.ctx n i).seq⟩
        OnlyCore s t n ∧ t.core n = { s.core n with mx := asked { (s.core n).mx with form := some o } s.clock.toNat }) ∧
    (∀ rest, (s.ctlOf l.base).resumed = lid :: rest → l.phase = .distributed → (∀ k ∈ s.launches, ¬(k.base = l.base ∧ k.phase = .distributing)) →
      Ends (.resumedDistribution lid) s fun t => { t with ctl := s.ctl, launches := s.launches } = s ∧
        CtlNow s t l.base { s.ctlOf l.base with resumed := rest } ∧ (∀ q, t.queueOf l.base q = s.queueOf l.base q) ∧
        LaunchNow s t lid fun l => { l with phase := .distributing })

/-! ### The mesh, the links and the pod agent (chapter 15; 28 R356, R368 to R371; 08 R88) -/

namespace Sys2Proof.Claims

/-- A packet's way from its node, with the entry that its head follows now: itself at its source or in a run, else the next entry. -/
def entryNow (p : Packet) : Packet :=
  if p.fresh then p else { p with turns := p.turns >>> 7, left := p.left - 1 }

/-- The heading after a turn: 1 left, 2 right (15 R213). -/
def turned (d : BitVec 2) (t : Nat) : BitVec 2 := if t = 1 then d - 1 else if t = 2 then d + 1 else d

/-- What a step of a packet may touch beside the packets: the idle counts of the routers it passes (15 R220) and the arbiter of the output it
uses, which remembers the channel and the input served (15 R216). -/
def OnlyRouters (s t : State) (p : Packet) : Prop :=
  { t with cores := s.cores, packets := s.packets, arbs := s.arbs, payloads := s.payloads, errLog := s.errLog } = s ∧
  (∀ o, p.output ≠ some o → t.arb o = s.arb o) ∧
  ∀ o, p.output = some o → t.arb o = ⟨p.reply, if p.reply then (s.arb o).reqIn else p.input, if p.reply then p.input else (s.arb o).repIn⟩

/-- The idle counts alone have changed in the cores. -/
def CoresKept (s t : State) : Prop := ∀ n, { t.core n with routerIdle := 0 } = { s.core n with routerIdle := 0 }

/-- The head of packet k has entered a place one link on, by an input of it; its flits follow it, none is lost, and each buffer has room
for those it takes (15 R213, R216). -/
def Entered (s t : State) (k : Nat) (p u : Packet) (x r : Nat) : Prop :=
  ∃ (chain : List (Nat × Nat)) (rest : Nat), (chain.map (·.2)).sum + rest = p.flits ∧
    (∀ e ∈ chain, 0 < e.2 ∧ s.fill p e.1 + e.2 ≤ 4 ∧
      (e.1 = bufKey x r (u.dir.toNat + (if u.skip then 4 else 0)) p.reply ∨ e.1 ∈ p.chain.map (·.1))) ∧
    t.packets = setNth s.packets k { u with node := nodeAt (nodePort p.dst) x r, chain := chain, rest := rest, ord := s.nextOrd }

/-- What the log says of a route error: the address, and the thread whose access it was. -/
def LossLogged (s t : State) (p : Packet) : Prop :=
  Logged s.errLog t.errLog (match p.owner with
    | some (n, i) => ⟨p.addr, s.clock, (s.ctx n i).lid, (s.coordOf n (i / 16)).setWidth 17, BitVec.ofNat 7 i, 2⟩
    | none => ⟨p.addr, s.clock, 0, 0, 0, 2⟩)

/-- A window of context i of core n has landed with a result, and no other context has changed. -/
def LandsAlone (s t : State) (n i sq : Nat) (r : Res) : Prop :=
  (s.ctx n i).past = [] → t.ctx n i = landedIn (s.ctx n i) sq r ∧ ∀ m j, (m, j) ≠ (n, i) → t.ctx m j = s.ctx m j

/-- What a lost request leaves of its access (15 R214): a fetch, load, atomic or group instruction takes the access fault of CAUSE 3, and a
store counts as acknowledged. A group instruction or WAIT that is still to act has its request marked as lost (log 90). -/
def RequestLost (s t : State) (p : Packet) : Prop :=
  (∀ n i, p.own = some (.fetch n i) → let u := s.ctx n i
    u.pc = p.addr → u.run = .ready ∨ u.run = .stalled → NoneDue u → CanEnter u ⟨3, 3, p.addr, u.pc, false, false, 0⟩ →
    t.ctx n i = entered u ⟨3, 3, p.addr, u.pc, false, false, 0⟩ ∧ ∀ m j, (m, j) ≠ (n, i) → t.ctx m j = s.ctx m j) ∧
  (∀ n i w sq, p.own = some (.window n i sq) → s.winOf n i sq = some w →
    (∀ a sg acq l, w.pend = .load a sg acq l → LandsAlone s t n i sq (.fault 3 0 a.va)) ∧
    (∀ a op b c ar o, w.pend = .atomic a op b c ar o → LandsAlone s t n i sq (.fault 3 2 a.va)) ∧
    (∀ a j, w.pend = .group a j → LandsAlone s t n i sq (.fault 3 2 a.va))) ∧
  (∀ n i id en, p.own = some (.store n i id) → s.entryOf n id = some en → en.unlock = false →
    (t.core n).storeQ = (s.core n).storeQ.filter (fun o => decide (o.id ≠ id)) ∧
    ∀ m j, { t.ctx m j with fences := [] } = { s.ctx m j with fences := [] }) ∧
  ∀ n i sq, p.own = some (.group n i sq) → let u := s.ctx n i
    t.ctx n i = (if u.seq = sq ∧ (u.run = .ready ∨ u.run = .stalled) then { u with reqLost := some sq } else u) ∧
    ∀ m j, (m, j) ≠ (n, i) → t.ctx m j = s.ctx m j

/-- What a reply leaves of the access it answers: a load's or a group instruction's result lands, the value it carries or the fault of its
CAUSE (15 R212). -/
def ReplyCame (s t : State) (p : Packet) : Prop :=
  let v := match p.data with
    | [] => 0
    | d :: _ => d.1.toNat % 2 ^ 64
  let cause := p.addr.toNat % 2 ^ 8
  (∀ n i w sq, p.own = some (.window n i sq) → s.winOf n i sq = some w →
    (∀ a sg l, w.pend = .load a sg none l → a.size ≤ 8 → 0 < a.size → LandsAlone s t n i sq (if p.kind = 8 then .fault cause 0 a.va else
      .val ((if sg then (BitVec.ofNat (8 * a.size) v).signExtend 64 else BitVec.ofNat 64 (v % 2 ^ (8 * a.size))).setWidth 512))) ∧
    (∀ a j, w.pend = .group a j → LandsAlone s t n i sq (if p.kind = 8 then .fault cause 2 a.va else .val (BitVec.ofNat 512 v)))) ∧
  ((∀ n i sq, p.own ≠ some (.window n i sq)) → ∀ m j, t.ctx m j = s.ctx m j)

end Sys2Proof.Claims

/-- 15 R209, R211 to R214, R216, R217, R220, 26 R351: a packet whose turn it is follows its turn list, is delivered where an entry ejects it to a
unit that serves its kind, or is lost, logged with KIND 2 and, a request, answered to its source on the reply channel by the node that finds
the error; the load it carried then faults and the store counts as acknowledged. A payload is held until its message comes. Routers gate when
idle and wake when a flit is offered. A retried flit changes nothing; the third failure at an HBM die poisons what it carried. Choices of the model: a unit that sends requests takes the replies to them (log 8); a request
ejected astray has the outcome of a lost one, and an access whose reply is lost has its answer (log 90). -/
def Sys2Proof.Claims.MeshRouting : Prop :=
  ∀ (s : State) (k : Nat) (p : Packet), nth s.packets k = some p →
    let q := entryNow p
    let e := q.turns.toNat % 2 ^ 7
    let d := turned q.dir (e / 2 ^ 5)
    let skip : Bool := decide (e / 2 ^ 4 % 2 = 1)
    let x := nodeX p.node
    let r := nodeRow p.node
    let InRun := p.fresh = false ∧ p.rem ≠ 0
    let Follows := p.fresh = true ∨ p.rem = 0
    let Turn := s.ready p = true ∧ s.chosen p = true
    let NoWay := (InRun ∧ linkFrom x r p.dir p.skip = none) ∨ (Follows ∧ (q.left = 0 ∨ (e / 2 ^ 5 ≠ 3 ∧ linkFrom x r d skip = none)))
    let Ejects := Follows ∧ q.left ≠ 0 ∧ e / 2 ^ 5 = 3
    let here := nodeAt (nodePort p.dst) x r
    let Serves := nodeServes here p.kind.toNat = true
    let finder := if 1 ≤ r ∧ r ≤ 16 then nodeAt 0 x r else if nodeExists here then here else nodeAt 1 x r
    let Payload := p.kind = 10 ∨ p.kind = 11 ∨ p.kind = 17
    (¬Turn → exec (.routeStep k) s = .next s) ∧
    (Turn →
      (∀ x' r', InRun → linkFrom x r p.dir p.skip = some (x', r') → Ends (.routeStep k) s fun t =>
        OnlyRouters s t p ∧ CoresKept s t ∧ t.errLog = s.errLog ∧ t.payloads = s.payloads ∧ Entered s t k p { p with rem := p.rem - 1 } x' r') ∧
      (∀ x' r', Follows → q.left ≠ 0 → e / 2 ^ 5 ≠ 3 → linkFrom x r d skip = some (x', r') → Ends (.routeStep k) s fun t =>
        OnlyRouters s t p ∧ CoresKept s t ∧ t.errLog = s.errLog ∧ t.payloads = s.payloads ∧
        Entered s t k p { q with dir := d, skip := skip, rem := BitVec.ofNat 4 e, fresh := false } x' r') ∧
      (Ejects → Serves → Ends (.routeStep k) s fun t => t.packets = dropNth s.packets k ∧
        (Payload ∨ p.own = none ∨ (p.reply = false ∧ here = p.dst) → OnlyRouters s t p ∧ CoresKept s t ∧ t.errLog = s.errLog) ∧
        (p.kind = 11 → t.payloads = s.payloads ++ [⟨here, p.src, p.txn, p.data⟩]) ∧
        (p.kind = 10 ∨ p.kind = 17 → t.payloads = s.payloads.filter fun h => !decide (h.dst = here ∧ h.src = p.src ∧ h.txn = p.txn)) ∧
        (¬Payload → t.payloads = s.payloads) ∧
        (p.kind = 7 ∨ (¬Payload ∧ p.reply = false ∧ here ≠ p.dst) → RequestLost s t p) ∧
        (p.reply = true → p.kind ≠ 7 → ReplyCame s t p)) ∧
      (NoWay ∨ (Ejects ∧ ¬Serves) → r ≤ 17 → Ends (.routeStep k) s fun t =>
        (p.reply = false ∨ p.own = none → OnlyRouters s t p ∧ CoresKept s t) ∧ t.payloads = s.payloads ∧
        (p.reply = false ∨ p.own = none → LossLogged s t p) ∧
        (p.reply = true → t.packets = dropNth s.packets k ∧ (p.kind = 7 → RequestLost s t p) ∧ (p.kind ≠ 7 → ReplyCame s t p)) ∧
        (p.reply = false → ∃ a : Packet, t.packets = dropNth s.packets k ++ [a] ∧ a.kind = 7 ∧ a.src = finder ∧ a.dst = p.src ∧ a.txn = p.txn ∧
          a.own = p.own ∧ a.addr = p.addr ∧ a.fresh = true ∧ a.reply = true))) ∧
    (s.ready p = true ↔ s.atFront p = true ∧ (∀ n ∈ p.routers, (s.core n).routerGated = false) ∧
      ∀ x' r' u, p.hop = .go x' r' u → s.credit p (bufKey x' r' (u.dir.toNat + (if u.skip then 4 else 0)) p.reply) = true) ∧
    (∀ b, s.credit p b = true ↔ s.fill p b < 4 ∧ ∀ o ∈ s.packets, o.ord ≠ p.ord → o.inBuf b = 0 ∨ o.behindBuf b = false) ∧
    (∀ o, p.output = some o →
      let a := s.arb o
      let Rival := fun (u : Packet) => u ∈ s.packets ∧ u.output = some o ∧ s.ready u = true
      let last := if p.reply then a.repIn else a.reqIn
      let turn := fun (u : Packet) => (u.input + 16 - (last + 1) % 16) % 16
      (s.chosen p = true ↔ (p.reply ≠ a.reply ∨ ∀ u, Rival u → u.reply = p.reply) ∧ ∀ u, Rival u → u.reply = p.reply → turn p ≤ turn u)) ∧
    (∀ (n : Nat) (c : Core), s.core n = c →
      let Offered := ∃ o ∈ s.packets, n ∈ o.routers
      let Busy := Offered ∨ ∃ o ∈ s.packets, routerOf (nodeX o.node) (nodeRow o.node) = some n ∨
        ∃ b ∈ o.chain, routerOf (b.1 / 1024) (b.1 / 32 % 32) = some n
      let Idle := c.routerIdle + (s.ctlOf (baseOf n)).ridle.toNat ≤ s.clock.toNat
      (c.routerGated = false → ¬Busy → Idle → Ends (.routerPowerDown n) s fun t => OnlyCore s t n ∧ t.core n = { c with routerGated := true }) ∧
      (Busy ∨ ¬Idle → exec (.routerPowerDown n) s = .next s) ∧
      (c.routerGated = true → Offered → Ends (.routerWake n) s fun t => OnlyCore s t n ∧
        t.core n = { c with routerGated := false, routerIdle := s.clock.toNat })) ∧
    (∀ w : Nat, exec (.linkFlitRetry w false) s = .next s ∧ (8 * w < 2 ^ 40 → isDram (w / 4 * 32) = true → Ends (.linkFlitRetry w true) s fun t =>
      { t with poison := s.poison, errLog := s.errLog } = s ∧
      (∀ j, mget false t.poison j = if j / 4 = w / 4 then true else mget false s.poison j) ∧
      Logged s.errLog t.errLog ⟨BitVec.ofNat 64 (w / 4 * 32), s.clock, 0, 0, 0, 3⟩)) ∧
    (∀ x r, r ≤ 17 → x < 32 →
      linkFrom x r 0 false = (if 1 ≤ r ∧ r ≤ 16 ∧ x < 31 then some (x + 1, r) else none) ∧
      linkFrom x r 2 false = (if 1 ≤ r ∧ r ≤ 16 ∧ 0 < x then some (x - 1, r) else none) ∧
      linkFrom x r 1 false = (if r < 17 then some (x, r + 1) else none) ∧ linkFrom x r 3 false = (if 0 < r then some (x, r - 1) else none) ∧
      linkFrom x r 0 true = (if 1 ≤ r ∧ r ≤ 16 ∧ x % 16 ∈ [0, 4, 8] then some (x + 4, r) else none) ∧
      linkFrom x r 2 true = (if 1 ≤ r ∧ r ≤ 16 ∧ x % 16 ∈ [4, 8, 12] then some (x - 4, r) else none) ∧
      linkFrom x r 1 true = none ∧ linkFrom x r 3 true = none) ∧
    (∀ n, n < 512 → nodePort (coreNode n) = 0 ∧ nodeX (coreNode n) = n % 32 ∧ nodeRow (coreNode n) = n / 32 + 1) ∧
    (∀ b c, b < 2 → c < 32 → nodePort (sliceNode b c) = 1 ∧ nodeX (sliceNode b c) = 16 * b + c % 16 ∧
      nodeRow (sliceNode b c) = if c < 16 then 0 else 17)

/-- 15 R211 to R213: an access's request enters the mesh at its core as one packet whose first flits are fresh, for the home of its
location, with its source's table entry, one written through BAR0 before firmware's. A missing or invalid entry is an empty list (log 8);
firmware's skip links are the model's choice (log 85). -/
def Sys2Proof.Claims.MeshRequests : Prop :=
  ∀ (s : State) (n : Nat), n < 512 →
    let Enters := fun (own : Own) (kind : Nat) (dst : BitVec 12) (addr : Word) (txn : BitVec 16) (flits : Nat) (t : State) =>
      { t with packets := s.packets } = s ∧ ∃ p : Packet, t.packets = s.packets ++ [p] ∧ p.fresh = true ∧ p.own = some own ∧
        p.kind = BitVec.ofNat 5 kind ∧ p.src = coreNode n ∧ p.node = coreNode n ∧ p.dst = dst ∧ p.addr = addr ∧ p.txn = txn ∧
        p.data.length = flits ∧ p.rest = flits + 1 ∧
        (∀ e, s.turnEntry (coreNode n) dst = some e → e.valid = true → p.dir = e.dir ∧ p.turns = e.turns ∧ p.left = 16) ∧
        ((∀ e, s.turnEntry (coreNode n) dst = some e → e.valid = false) → p.left = 0)
    (∀ i q w a sg txn, s.inMesh (.window n i q) = false → s.winOf n i q = some w → w.pend = .load a sg none false →
      Enters (.window n i q) 0 (homeNode a.loc) a.va txn 0 (s.inject (.window n i q) 0 txn)) ∧
    (∀ i q w a op b e ar txn, s.inMesh (.window n i q) = false → s.winOf n i q = some w → w.pend = .atomic a op b e ar none →
      Enters (.window n i q) 2 (homeNode a.loc) a.va txn 1 (s.inject (.window n i q) 0 txn)) ∧
    (∀ i id e txn, s.inMesh (.store n i id) = false → s.entryOf n id = some e → e.ctx = i → e.written = false → e.unlock = false →
      Enters (.store n i id) 1 (homeNode e.acc.loc) e.acc.va txn 1 (s.inject (.store n i id) 0 txn)) ∧
    (∀ own k txn, s.inMesh own = true → s.inject own k txn = s) ∧
    ∀ src dst, s.turnEntry src dst = match mfind s.pkg.tt (src.toNat * 2 ^ 16 + dst.toNat) with
      | some e => some e
      | none => if s.pkg.ttBoot then some (dimEntry src dst) else none

namespace Sys2Proof.Claims

/-- Only Etgus port k has changed, to `e`. -/
def PortNow (s t : State) (k : Nat) (e : Etgus) : Prop :=
  { t with etgus := s.etgus } = s ∧ t.port k = e ∧ ∀ j, j ≠ k → t.port j = s.port j

/-- What a valid flit's ACK takes from the replay buffer: the flits up to it, where it lies in the buffer (28 R370). -/
def ackedBy (e : Etgus) (ack : BitVec 12) : Etgus :=
  let n := (ack - e.acked).toNat
  if n = 0 ∨ e.replay.length < n then e
  else { e with acked := ack, replay := e.replay.drop n, sendPtr := e.sendPtr - n, resends := 0 }

/-- A valid flit's acknowledgement and credits taken. -/
def headerOf (e : Etgus) (f : EtgusFlit) (now : Nat) : Etgus :=
  let a := ackedBy e f.ack
  { a with credReq := a.credReq + f.creq.toNat, credRep := a.credRep + f.crep.toNat, lastValid := now }

/-- A data flit is discarded: the first time a flit of TYPE 2 goes out whose ACK names the last accepted one. -/
def discarded (e : Etgus) : Etgus :=
  if e.retrySent then e else { e with
    retrySent := true, owedReq := 0, owedRep := 0
    wire := e.wire ++ [⟨2, e.next, e.expect - 1, BitVec.ofNat 8 e.owedReq, BitVec.ofNat 8 e.owedRep, [], true, true⟩] }

/-- The sender's side of a retry request: it resends from the flit after the one named. -/
def retried (e : Etgus) : Etgus :=
  { e with sendPtr := 0, resends := if e.replay = [] then 0 else e.resends + 1 }

/-- An access still on its way over a lost link: a load, atomic or group instruction whose result has not come. -/
def lostRes (w : Window) (lost : Acc → Bool) : Option Res :=
  match w.pend with
  | .load a _ _ _ => if lost a then some (.fault 3 0 a.va) else none
  | .atomic a _ _ _ _ _ | .group a _ => if lost a then some (.fault 3 2 a.va) else none
  | _ => none

/-- A context waits on a word of scratch beyond the lost link. -/
def WaitLost (r : Run) (lost : Acc → Bool) : Prop :=
  match r with
  | .waiting (.word a loc _ _) | .waiting (.bar a loc _ _ _ _) => lost ⟨a, loc, 8, false, 0, 0⟩ = true
  | _ => False

/-- Accesses over a lost link have failed (28 R356, R371): loads and atomics with an access fault, stores counted as acknowledged, and a
thread that waits on a word beyond the link takes the access fault. -/
def LinkFailed (s t : State) (lost : Acc → Bool) : Prop :=
  ((∀ n i, (s.ctx n i).past = []) → (∀ n i, ¬WaitLost (s.ctx n i).run lost) → t.mem = s.mem ∧
    (∀ n, (t.core n).storeQ = (s.core n).storeQ.map fun e => if e.written = false ∧ lost e.acc = true then { e with written := true } else e) ∧
    ∀ n i, { t.ctx n i with windows := [] } = { s.ctx n i with windows := [] } ∧
      (t.ctx n i).windows.length = (s.ctx n i).windows.length ∧
      ∀ k w, nth (s.ctx n i).windows k = some w → ∃ w', nth (t.ctx n i).windows k = some w' ∧ w'.seq = w.seq ∧ w'.dest = w.dest ∧
        w'.res = if w.res = none then lostRes w lost else w.res) ∧
  ∀ n i a loc x d, let u := s.ctx n i
    u.run = .waiting (.word a loc x d) → lost ⟨a, loc, 8, false, 0, 0⟩ = true → u.windows = [] → u.past = [] →
    CanEnter u ⟨3, 0, a, u.pc, false, false, 0⟩ → (∀ m j, WaitLost (s.ctx m j).run lost → (m, j) = (n, i)) →
    t.ctx n i = entered u ⟨3, 0, a, u.pc, false, false, 0⟩

end Sys2Proof.Claims

/-- 28 R370, R371, R356: an Etgus port takes a data flit that is good and in order, discards any other and asks once for a resend, resends on
request, retrains and goes down, its traffic going by another port where there is one; a lost link fails the accesses on it. A bad flit
of another type and the other port taken are the model's reading (log 14). R356's error-log entries of lost stores are left out. -/
def Sys2Proof.Claims.LinkEvents : Prop :=
  ∀ (s : State) (k : Nat), k < 12 → let e := s.port k
    let now := s.clock.toNat
    (e.down = false → e.training = false →
      (∀ f : EtgusFlit, f.typ = 1 → f.fecOk = true → f.crcOk = true → f.seq = e.expect → Ends (.etgusFlitReceive k f) s (PortNow s · k
        { headerOf e f now with expect := e.expect + 1, retrySent := false, received := e.received ++ f.slots })) ∧
      (∀ f : EtgusFlit, f.typ = 1 → f.fecOk = true → f.crcOk = true → f.seq ≠ e.expect →
        Ends (.etgusFlitReceive k f) s (PortNow s · k (discarded (headerOf e f now)))) ∧
      (∀ f : EtgusFlit, f.typ = 1 → f.fecOk = false ∨ f.crcOk = false → Ends (.etgusFlitReceive k f) s (PortNow s · k (discarded e))) ∧
      (∀ f : EtgusFlit, f.typ = 0 ∨ f.typ = 3 → f.fecOk = true → f.crcOk = true →
        Ends (.etgusFlitReceive k f) s (PortNow s · k (headerOf e f now))) ∧
      (∀ f : EtgusFlit, f.typ = 2 → f.fecOk = true → f.crcOk = true →
        Ends (.etgusFlitReceive k f) s (PortNow s · k (retried (ackedBy (headerOf e f now) f.ack)))) ∧
      (∀ ack, Ends (.etgusRetryRequest k ack) s (PortNow s · k (retried (ackedBy e ack)))) ∧
      (16 ≤ e.resends ∨ e.lastValid + 14000 ≤ now → Ends (.etgusRetrain k) s (PortNow s · k { e with training := true })) ∧
      (e.resends < 16 → now < e.lastValid + 14000 → exec (.etgusRetrain k) s = .next s)) ∧
    (e.training = true →
      Ends (.etgusRetrainDone k true) s (PortNow s · k { e with training := false, trainFails := 0, resends := 0, sendPtr := 0, lastValid := now }) ∧
      (e.trainFails < 2 → Ends (.etgusRetrainDone k false) s (PortNow s · k { e with trainFails := e.trainFails + 1 })) ∧
      (2 ≤ e.trainFails → Tables s → Ends (.etgusRetrainDone k false) s fun t =>
        let byte := fun (u : State) (p : Nat) => u.pkg.route.toNat / 2 ^ (8 * p) % 2 ^ 8
        let To := fun (p : Nat) => byte s p = k
        t.port k = { e with trainFails := 3, training := false, down := true } ∧ (∀ j, j ≠ k → t.port j = s.port j) ∧
        (∀ p, p < 64 →
          (To p → s.otherPort k p = none → t.pkg.podmap.getLsbD p = false ∧ byte t p = 255) ∧
          (∀ o, To p → s.otherPort k p = some o → t.pkg.podmap.getLsbD p = s.pkg.podmap.getLsbD p ∧ byte t p = o) ∧
          (¬To p → t.pkg.podmap.getLsbD p = s.pkg.podmap.getLsbD p ∧ byte t p = byte s p)) ∧
        LinkFailed s t fun a => isRemote a.loc && decide (byte s (a.va.toNat / 2 ^ 50 % 2 ^ 6) = k ∧
          s.otherPort k (a.va.toNat / 2 ^ 50 % 2 ^ 6) = none))) ∧
    (∀ p o, s.otherPort k p = some o → (p, o) ∈ s.pkg.podPorts ∧ o < 12 ∧ o ≠ k ∧ (s.port o).down = false) ∧
    (∀ p, s.otherPort k p = none → ∀ o, (p, o) ∈ s.pkg.podPorts → o < 12 → o ≠ k → (s.port o).down = true) ∧
    (Tables s → Ends .hostLinkDown s fun t => t.pkg = { s.pkg with linkUp := false } ∧ LinkFailed s t fun a => isHost a.loc)

/-- 08 R88, R116, 05 R60, 18 R251, 28 R368: another package's access to this package's scratch or pod window is translated and performed by the
agent, held where a watermark, a lock bit or the order of a bank's cycle makes it wait, a copy engine's by no watermark, or answered with a
fault; one for a third package is forwarded by that package's port, and its answer passed on. The answer's form is the model's (log 9). -/
def Sys2Proof.Claims.PodWindowRequests : Prop :=
  ∀ (s : State) (va : Word) (size : Nat) (op : BitVec 3) (data cmp : BitVec 512), size = 1 ∨ size = 2 ∨ size = 4 ∨ size = 8 →
    let form := va.toNat / 2 ^ 56 % 2 ^ 4
    let p := va.toNat / 2 ^ 50 % 2 ^ 6
    let Form := form = 8 ∨ form = 12
    let Mine := Form ∧ p = s.pkg.pkgnum.toNat
    let ho := fun (k : PodKind) => decide (k = .atomic ∧ (op = 0 ∨ op = 6 ∨ op = 7))
    let Locks := fun (k : PodKind) => k = .atomic ∨ k = .accumulate
    let answers := fun (r : Reply) => (Host.Outcome.next { s with pkg := { s.pkg with podAnswer := r } } : Out)
    let Says := fun (t : State) (v : Nat) (bad : Bool) (off : Nat) => ∃ d : BitVec 512, ∃ m : BitVec 8, t.pkg.podAnswer = .data [(d, m)] ∧
      d.toNat / 2 ^ (8 * off) % 2 ^ (8 * size) = v ∧ m = if bad then BitVec.ofNat 8 (2 ^ (off / 8)) else 0
    let Only := fun (t : State) =>
      { t with mem := s.mem, poison := s.poison, cores := s.cores, pkg := { t.pkg with podAnswer := s.pkg.podAnswer } } = s ∧
      ∀ n i, t.ctx n i = s.ctx n i
    let request := fun (k : PodKind) => (⟨s.pkg.podNext, k, va, size, op, data, cmp, none, s.routePort p⟩ : PodReq)
    let Sized := fun (k : PodKind) => (k = .atomic → size = 4 ∨ size = 8) ∧ (k = .accumulate → size = 8)
    (¬Form → ∀ k, exec (.podWindowRequest k va size op data cmp) s = answers .fault) ∧
    (Form → p ≠ s.pkg.pkgnum.toNat → ∀ k, Sized k →
      (s.pkg.podmap.getLsbD p = true → s.routePort p < 12 → exec (.podWindowRequest k va size op data cmp) s = .next { s with pkg := { s.pkg with
        podAnswer := .none, podNext := s.pkg.podNext + 1, podOut := s.pkg.podOut ++ [request k] } }) ∧
      (s.pkg.podmap.getLsbD p = false ∨ 12 ≤ s.routePort p → exec (.podWindowRequest k va size op data cmp) s = answers .fault)) ∧
    (∀ id r, (∃ h ∈ s.pkg.podOut, h.id = id) → s.podRelay id r = { s with pkg := { s.pkg with
      podAnswer := r, podOut := s.pkg.podOut.filter fun h => decide (h.id ≠ id) } }) ∧
    (Mine → ∀ k kind, ((k = PodKind.load ∨ k = .engineLoad) ∧ kind = 0) ∨ ((k = .store ∨ k = .engineStore) ∧ kind = 1) ∨ (Locks k ∧ kind = 2) →
      Sized k →
      (∀ c, s.resolve 4096 0 va kind size size (ho k) = .fault c → exec (.podWindowRequest k va size op data cmp) s = answers .fault) ∧
      ∀ acc : Acc, s.resolve 4096 0 va kind size size (ho k) = .ok acc → s.podWaits (request k) acc = true →
        Ends (.podWindowRequest k va size op data cmp) s fun t => t.mem = s.mem ∧ t.pkg.podAnswer = .none ∧
          ((∀ h ∈ s.pkg.podHeld, h.id ≠ s.pkg.podNext) → t.pkg.podHeld = s.pkg.podHeld ++ [{ request k with acc := some acc }])) ∧
    (∀ (k : PodKind) (a : Acc), s.podWaits (request k) a = true ↔
      (k ≠ .engineLoad ∧ k ≠ .engineStore ∧ k ≠ .accumulate ∧ s.belowMark a.loc a.size = false) ∨
      (Locks k ∧ ∃ j, j < (a.size + 7) / 8 ∧ let w := a.loc + 8 * j
        (isScratch a.loc = true ∧ s.lockFree w 4096 0 s.pkg.podNext = false) ∨ s.bankHas w 2 = true)) ∧
    (Mine → ∀ acc : Acc, isScratch acc.loc = true → acc.size = size → acc.loc % size = 0 → Unwatched s acc.loc size →
      (∀ x y c, s.misrouted x y c = false) →
      let old := valueAt s acc.loc size
      let bad := anyPoison s.poison acc.loc size
      (∀ k, k = PodKind.load ∨ k = .engineLoad → s.resolve 4096 0 va 0 size size false = .ok acc → s.podWaits (request k) acc = false →
        Ends (.podWindowRequest k va size op data cmp) s fun t =>
          Only t ∧ t.mem = s.mem ∧ t.poison = s.poison ∧ Says t old bad (acc.loc % 64)) ∧
      (∀ k, k = PodKind.store ∨ k = .engineStore → s.resolve 4096 0 va 1 size size false = .ok acc → s.podWaits (request k) acc = false →
        Ends (.podWindowRequest k va size op data cmp) s fun t =>
          Only t ∧ Wrote s t acc.loc size data.toNat ∧ t.pkg.podAnswer = .data (if bad = true ∧ size < 8 then [(0, 1)] else [])) ∧
      (s.resolve 4096 0 va 2 size size false = .ok acc → size = 8 → s.podWaits (request .accumulate) acc = false →
        Ends (.podWindowRequest .accumulate va size op data cmp) s fun t => Only t ∧
          (bad = true → t.pkg.podAnswer = .data [(0, 1)] ∧ ∀ x, mget 0 t.mem x = mget 0 s.mem x) ∧
          (bad = false → t.pkg.podAnswer = .data [] ∧ Wrote s t acc.loc 8 (old + data.toNat))) ∧
      (s.resolve 4096 0 va 2 size size (ho .atomic) = .ok acc → size = 4 ∨ size = 8 → s.podWaits (request .atomic) acc = false → bad = false →
        Ends (.podWindowRequest .atomic va size op data cmp) s fun t => Only t ∧ Says t old false (acc.loc % 64) ∧
          let w := 8 * size
          if op = 7 ∧ BitVec.ofNat w old ≠ cmp.setWidth w then ∀ x, mget 0 t.mem x = mget 0 s.mem x
          else Wrote s t acc.loc size (atomicValue w op (BitVec.ofNat w old) (data.setWidth w)).toNat))

/-! ### The host's registers, BAR4, keys, firmware and reset (08 R114; 15 R219; 26 R348 to R352; 28 R358 to R362, R374 to R376) -/

namespace Sys2Proof.Claims

/-- Only the registers of base b's controller have changed, to `c`. -/
def BlockNow (s t : State) (b : Nat) (c : Ctl) : Prop :=
  { t with ctl := s.ctl } = s ∧ t.ctlOf b = c ∧ ∀ d, d ≠ b → t.ctlOf d = s.ctlOf d

/-- Only the registers of queue q of base b have changed, to `u`. -/
def QueueNow (s t : State) (b q : Nat) (u : Queue) : Prop :=
  { t with ctl := s.ctl } = s ∧ CtlNow s t b (s.ctlOf b) ∧ t.queueOf b q = u ∧ ∀ j, j ≠ q → t.queueOf b j = s.queueOf b j

/-- The core that index i of base b's block names: (16b + i mod 16, i div 16) (28 R361). -/
def blockCore (b i : Nat) : Nat := i / 16 * 32 + (16 * b + i % 16)

/-- A core with no thread and no message in its inbound queue (15 R219). -/
def HoldsNothing (s : State) (n : Nat) : Prop :=
  (s.core n).inbox = [] ∧ ∀ j, (s.ctx n j).run = .idle

end Sys2Proof.Claims

/-- 28 R359, R361: QCTL, QCNT, PARKREF and DBGIGN; fields that a device queue lacks stay 0. QCTL's override governs from the next selection
on, so the one that stood at the cycle's start is kept (03 R38). -/
def Sys2Proof.Claims.QueueRegisters : Prop :=
  ∀ (s : State) (b : Nat), b < 2 →
    (∀ q (v : Word), q < 12 → let u := s.queueOf b q
      let h : Bool := decide (q < 8)
      Ends (.qctlWrite b q v) s (QueueNow s · b q { u with
        ovAt := some s.clock.toNat, ovOld := if u.ovAt = some s.clock.toNat then u.ovOld else (u.ovclass, u.oven),
        ovclass := BitVec.ofNat 2 v.toNat, oven := h && v.getLsbD 2, space := if h then BitVec.ofNat 12 (v.toNat / 2 ^ 16) else 0,
        msivec := BitVec.ofNat 11 (v.toNat / 2 ^ 32), msien := h && v.getLsbD 43 }) ∧
      Ends (.qcntClear b q 0) s (QueueNow s · b q { u with portErr := 0, overflow := 0, noRecord := 0, ended := 0 }) ∧
      (v ≠ 0 → exec (.qcntClear b q v) s = .next s)) ∧
    Ends (.parkrefClear b 0) s (BlockNow s · b { s.ctlOf b with parkRef := 0 }) ∧
    Ends (.dbgignClear b 0) s (BlockNow s · b { s.ctlOf b with dbgIgn := 0 }) ∧
    ∀ v : Word, v ≠ 0 → exec (.parkrefClear b v) s = .next s ∧ exec (.dbgignClear b v) s = .next s

/-- 15 R219, 28 R361: a core is parked only while it holds nothing; a refused request is counted. An excuse bit takes effect in the next
cycle, where it may complete a wire. A continue makes a stopped context ready behind its HALT; any other is counted: one for a context of
another base (log 62), or of a launch that is being halted or ends (log 89), is the model's choice. -/
def Sys2Proof.Claims.ParkingAndDebug : Prop :=
  ∀ (s : State) (b i : Nat), Tables s → b < 2 → i < 256 →
    let n := Sys2Proof.Claims.blockCore b i
    let Now := fun (t : State) (c : Core) => OnlyCore s { t with pkg := s.pkg } n ∧ t.core n = c
    (HoldsNothing s n → Ends (.corePark b i) s fun t => Now t { s.core n with parked := true } ∧ WiresFollow s t) ∧
    (¬HoldsNothing s n → Ends (.corePark b i) s (BlockNow s · b
      { s.ctlOf b with parkRef := (s.ctlOf b).parkRef + 1, parkLast := BitVec.ofNat 8 i })) ∧
    Ends (.coreUnpark b i) s (fun t => Now t { s.core n with parked := false } ∧ WiresFollow s t) ∧
    (∀ on, Ends (.excuseWrite b i on) s fun t => OnlyCore s t n ∧ t.core n = { s.core n with excuseDue := some on }) ∧
    ((∃ c, (s.core c).excuseDue ≠ none) → WiresFollow { s.cycles 1 with pkg := s.pkg } (s.cycles 1)) ∧
    ∀ v : Word, v.toNat / 2 ^ 60 = 1 → let m := coreNamed v
      let j := v.toNat / 2 ^ 16 % 2 ^ 6
      let Stopped := m % 32 / 16 = b ∧ (s.ctx m j).run = .stopped ∧ s.stopped (s.ctx m j).lid = false
      (Stopped → Ends (.debugContinue b v) s fun t => OnlyCtx s t m j ∧ t.ctx m j = issued (s.ctx m j) ((s.ctx m j).pc + 4)) ∧
      (¬Stopped → Ends (.debugContinue b v) s (BlockNow s · b { s.ctlOf b with dbgIgn := (s.ctlOf b).dbgIgn + 1 }))

/-- 28 R358, R362: LAYCTL sets both counts and LOCK where they fit and LOCK is 0; GCAP's bytes take values of 1 to 64; TTDATA writes all
bits of the selected turn-table entry, VALID among them, while no launch is live. -/
def Sys2Proof.Claims.LayoutAndCaps : Prop :=
  ∀ s : State,
    (∀ (v : Word) (m : Nat), (∃ c ∈ s.pkg.order, s.usableOf c / 2 ^ 16 = m) → (∀ c ∈ s.pkg.order, m ≤ s.usableOf c / 2 ^ 16) →
      let ig := v.toNat % 2 ^ 32
      let is := v.toNat / 2 ^ 32 % 2 ^ 31
      if s.pkg.layLock = false ∧ (ig + is) * 4096 ≤ m * 65536 then exec (.layctlWrite v) s = .next { s with pkg := { s.pkg with
        iglim := BitVec.ofNat 32 ig, islim := BitVec.ofNat 31 is, layLock := true } }
      else exec (.layctlWrite v) s = .next s) ∧
    (∀ v : Word, Ends (.gcapWrite v) s fun t => { t with pkg := { t.pkg with gcap := s.pkg.gcap } } = s ∧
      ∀ k, k < 8 → let x := v.toNat / 2 ^ (8 * k) % 2 ^ 8
        t.pkg.gcap.toNat / 2 ^ (8 * k) % 2 ^ 8 = if 1 ≤ x ∧ x ≤ 64 then x else s.pkg.gcap.toNat / 2 ^ (8 * k) % 2 ^ 8) ∧
    (∀ v : BitVec 128, let src : BitVec 12 := BitVec.ofNat 12 (s.pkg.ttsel.toNat / 2 ^ 16)
      let dst : BitVec 12 := BitVec.ofNat 12 s.pkg.ttsel.toNat
      let Open := s.launches = [] ∧ nodeExists src = true ∧ nodeExists dst = true
      (Open → Ends (.ttdataWrite v) s fun t => { t with pkg := { t.pkg with tt := s.pkg.tt } } = s ∧
        ∀ k, mfind t.pkg.tt k = if k = src.toNat * 2 ^ 16 + dst.toNat
          then some ⟨v.getLsbD 127, BitVec.ofNat 2 (v.toNat / 2 ^ 112), BitVec.ofNat 112 v.toNat⟩
          else mfind s.pkg.tt k) ∧
      (¬Open → exec (.ttdataWrite v) s = .next s))

/-- 28 R357, R360 to R362, R365, R367, R371; 08 R114: the registers that a plain BAR0 write sets, and a write that sets none. That a write of
PRCONS fixes how much of the ring is in use is the model's reading (log 32). A write of PODMAP
that marks a package absent fails the accesses in flight to it. A write of the MSI-X table sets its word, and one that unmasks a pending
vector sends it, whose layout is the model's (log 84). IDENT and BOOTST read as 28 R358 lays them out, a launch port as 02 R19 says. -/
def Sys2Proof.Claims.HostRegisterWrites : Prop :=
  ∀ (s : State) (v : Word),
    let At := fun (off : Nat) (P : State → Prop) => Ends (.bar0RegisterWrite (BitVec.ofNat 26 off) v) s P
    let Sets := fun (off : Nat) (p : Pkg) => exec (.bar0RegisterWrite (BitVec.ofNat 26 off) v) s = .next { s with pkg := p }
    let p := s.pkg
    (∀ b, b < 2 → let B := 0x1000 + 0x800 * b
      let c := s.ctlOf b
      At (B + 0x308) (BlockNow s · b { c with lsave := v }) ∧ At (B + 0x310) (BlockNow s · b { c with lsize := v }) ∧
      At (B + 0x318) (BlockNow s · b { c with lwin := v }) ∧ At (B + 0x320) (BlockNow s · b { c with lmap := v }) ∧
      (64 ≤ v.toNat % 2 ^ 16 → At (B + 0x380) (BlockNow s · b { c with ridle := BitVec.ofNat 16 v.toNat })) ∧
      (v.toNat % 2 ^ 16 < 64 → At (B + 0x380) (BlockNow s · b c)) ∧
      At (B + 0x388) (BlockNow s · b { c with wdlim := BitVec.ofNat 32 v.toNat })) ∧
    Sets 0x2000 { p with prbase := BitVec.ofNat 64 (v.toNat / 2 ^ 12 * 2 ^ 12 + v.toNat % 2 ^ 4) } ∧
    Sets 0x2010 { p with
      prcons := BitVec.ofNat 16 v.toNat
      prUsed := (p.prprod.toNat + 2 ^ 16 - v.toNat % 2 ^ 16) % 2 ^ (p.prbase.toNat % 2 ^ 4) } ∧
    Sets 0x2018 { p with prmsi := BitVec.ofNat 12 v.toNat } ∧ Sets 0x4000 { p with keyIdx := BitVec.ofNat 6 v.toNat } ∧
    Sets 0x4060 { p with scrub := BitVec.ofNat 32 v.toNat } ∧ Sets 0x6000 { p with pkgnum := BitVec.ofNat 6 v.toNat } ∧
    (let Gone := fun (q : Nat) => p.podmap.getLsbD q = true ∧ v.getLsbD q = false
     ((∀ q, q < 64 → ¬Gone q) → Sets 0x6008 { p with podmap := v }) ∧
     (Tables s → At 0x6008 fun t => t.pkg = { p with podmap := v } ∧ LinkFailed s t fun a => isRemote a.loc &&
        decide (Gone (a.va.toNat / 2 ^ 50 % 2 ^ 6)))) ∧
    Sets 0x6010 { p with podspace := BitVec.ofNat 12 v.toNat } ∧
    (∀ off, off < 2 ^ 26 → off % 8 ≠ 0 → exec (.bar0RegisterWrite (BitVec.ofNat 26 off) v) s = .next s) ∧
    At 0x3008 (fun t => t = { s with errLog := { s.errLog with tail := BitVec.ofNat 9 v.toNat } }) ∧
    At 0x3028 (fun t => t = { s with dbgLog := { s.dbgLog with tail := BitVec.ofNat 9 v.toNat } }) ∧
    (∀ k, k < 6 → At (0x4010 + 8 * k) fun t => { t with pkg := { t.pkg with keyDat := p.keyDat } } = s ∧
      ∀ j, j < 6 → t.pkg.keyDat.toNat / 2 ^ (64 * j) % 2 ^ 64 = if j = k then v.toNat else p.keyDat.toNat / 2 ^ (64 * j) % 2 ^ 64) ∧
    (∀ k, k < 8 → At (0x6100 + 8 * k) fun t => { t with pkg := { t.pkg with route := p.route } } = s ∧
      ∀ j, j < 8 → t.pkg.route.toNat / 2 ^ (64 * j) % 2 ^ 64 = if j = k then v.toNat else p.route.toNat / 2 ^ (64 * j) % 2 ^ 64) ∧
    At 0x6800 (fun t => { t with pkg := { t.pkg with ttsel := p.ttsel } } = s ∧ t.pkg.ttsel.toNat % 2 ^ 12 = v.toNat % 2 ^ 12 ∧
      t.pkg.ttsel.toNat / 2 ^ 16 = v.toNat / 2 ^ 16 % 2 ^ 12) ∧
    (∀ k, k < 2 ^ 17 → At (0x800000 + 8 * k) fun t => { t with pkg := { t.pkg with wtab := p.wtab } } = s ∧
      ∀ j, mget 0 t.pkg.wtab j = if j = k then BitVec.ofNat 22 v.toNat else mget 0 p.wtab j) ∧
    (∀ k, k < 2 ^ 12 → At (0x200000 + 8 * k) fun t =>
      { t with pkg := { t.pkg with msixTab := p.msixTab, msixPend := p.msixPend, msix := p.msix } } = s ∧
      (∀ j, t.pkg.msixWord j = if j = k then v else p.msixWord j) ∧
      let Send : Bool := !t.pkg.masked (k / 2) && mget false p.msixPend (k / 2)
      (∀ j, mget false t.pkg.msixPend j = if j = k / 2 ∧ Send then false else mget false p.msixPend j) ∧
      t.pkg.msix = if Send && p.linkUp then p.msix ++ [BitVec.ofNat 11 (k / 2)] else p.msix) ∧
    (p.ident.toNat / 2 ^ 48 = 0x480 ∧ p.ident.toNat / 2 ^ 40 % 2 ^ 8 = p.stepping.toNat ∧ p.ident.toNat % 2 ^ 40 = p.fwVersion.toNat ∧
      p.bootWord.toNat = p.bootst.toNat + 2 ^ 8 * p.bootFail.toNat) ∧
    ∀ b q off, b < 2 → q < 8 → off < 64 → (s.portRead b q off).toNat = if off = 0 then 64 - (s.queueOf b q).recs.length else 0

/-- 26 R348, R350: a key set loads into an index of 1 to 63 and governs accesses once the load completes; a bump raises one buffer id's
version by 1, and buffer id 0 is never bumped. While a bump is in progress each HBM base die holds the old version or the new. That a load or
bump ordered while one is in progress is ignored is the model's choice (log 62). -/
def Sys2Proof.Claims.KeysAndVersions : Prop :=
  ∀ s : State, let p := s.pkg
    (∀ v : Word, if v.getLsbD 0 = true ∧ p.keyIdx ≠ 0 ∧ p.keyBusy = none
      then exec (.keyLoad v) s = .next { s with pkg := { p with keyBusy := some (p.keyIdx.toNat, p.keyDat) } }
      else exec (.keyLoad v) s = .next s) ∧
    (∀ i d, p.keyBusy = some (i, d) → Ends .keyLoadComplete s fun t =>
      { t with pkg := { t.pkg with keys := p.keys, keyBusy := p.keyBusy } } = s ∧ t.pkg.keyBusy = none ∧
      ∀ j, mget 0 t.pkg.keys j = if j = i then 2 * d.toNat + 2 else mget 0 p.keys j) ∧
    (∀ id : BitVec 16, if id ≠ 0 ∧ p.vbBusy = false then exec (.versionBump id) s = .next { s with pkg := { p with vbBusy := true, vbLast := id } }
      else exec (.versionBump id) s = .next s) ∧
    (p.vbBusy = true → Ends .versionBumpComplete s fun t => { t with pkg := { t.pkg with versions := p.versions, vbBusy := true, vbDone := p.vbDone } } = s ∧
      t.pkg.vbBusy = false ∧ t.pkg.vbDone = [] ∧ ∀ j, mget 0 t.pkg.versions j = if j = p.vbLast.toNat then mget 0 p.versions j + 1 else mget 0 p.versions j) ∧
    (∀ die, die < 12 → s.bumpDie die = if p.vbBusy = true ∧ die ∉ p.vbDone then { s with pkg := { p with vbDone := p.vbDone ++ [die] } } else s) ∧
    ∀ die id, s.versionAt die id = mget 0 p.versions id + if die ∈ p.vbDone ∧ id = p.vbLast.toNat then 1 else 0

namespace Sys2Proof.Claims

/-- BAR4 serves the offset: an active channel, an offset below U(c), under a key index that holds a key (08 R114; log 10). -/
def Bar4Serves (s : State) (off : Nat) : Prop :=
  off / 2 ^ 28 < 1920 ∧ off / 2 ^ 28 ∉ s.pkg.retiredCh ∧ off % 2 ^ 28 < s.usableOf (off / 2 ^ 28) ∧
  mget 0 s.pkg.keys ((mget 0 s.pkg.wtab (off / 2 ^ 22)).toNat % 2 ^ 6) ≠ 0

end Sys2Proof.Claims

/-- 08 R114, 15 R213: BAR4 reads and writes the line that the home slice holds; where it serves nothing, a read returns zeros, a write is discarded
and both are counted. The statement takes an access within one line, whose home the turn tables reach. -/
def Sys2Proof.Claims.HostWindowOfDram : Prop :=
  ∀ (s : State) (off : BitVec 39) (n : Nat), 0 < n → off.toNat % 64 + n ≤ 64 → let o := off.toNat
    (¬Bar4Serves s o → exec (.bar4Read off n) s = .next { s with pkg := { s.pkg with
      bar4Miss := s.pkg.bar4Miss + 1, bar4Data := List.replicate n (some 0) } }) ∧
    (∀ d : List Byte, d.length = n → ¬Bar4Serves s o →
      exec (.bar4Write off d) s = .next { s with pkg := { s.pkg with bar4Miss := s.pkg.bar4Miss + 1 } }) ∧
    (∀ l : Line, Bar4Serves s o → (∀ k, s.misrouted hostNode (homeNode o) k = false) → mfind s.lines (o / 64) = some l →
      Ends (.bar4Read off n) s (fun t => { t with pkg := { t.pkg with bar4Data := s.pkg.bar4Data } } = s ∧ t.pkg.bar4Data.length = n ∧
        ∀ i, i < n → nth t.pkg.bar4Data i =
          some (if l.pois.getLsbD ((o % 64 + i) / 8) then none else some (byteAt l.data.toNat (o % 64 + i)))) ∧
      ∀ d : List Byte, d.length = n → Unwatched s o n → Ends (.bar4Write off d) s fun t =>
        { t with lines := s.lines } = s ∧ (∀ k, k ≠ o / 64 → mfind t.lines k = mfind s.lines k) ∧
        ∃ m, mfind t.lines (o / 64) = some m ∧ m.dirty = true ∧ ∀ k, k < 64 → byteAt m.data.toNat k =
          if o % 64 ≤ k ∧ k < o % 64 + n then d.getD (k - o % 64) 0 else byteAt l.data.toNat k)

namespace Sys2Proof.Claims

/-- The image verifies: its signature holds and its security version is not below the fused minimum (28 R374, step 2). -/
def Verifies (s : State) (f : FwImage) : Prop := f.signed = true ∧ s.pkg.fusedMin ≤ f.secVersion

/-- The part is ready with an image (28 R374, steps 4 and 5; log 12): firmware's tables, counts and measurements are in place. -/
def Booted (s t : State) (f : FwImage) : Prop :=
  { t with pkg := s.pkg } = s ∧ t.pkg.bootst = 4 ∧ t.pkg.fwVersion = f.version ∧ t.pkg.scopeBoot = true ∧ t.pkg.ttBoot = true ∧
  t.pkg.islim = 0 ∧ t.pkg.bootFail = s.pkg.bootFail ∧
  (∀ c, c ∈ t.pkg.order ↔ c < 1920 ∧ c ∉ s.pkg.retiredCh) ∧
  t.pkg.measured = [Config.romDigest, f.digest, Config.configDigest s.pkg.resets]

end Sys2Proof.Claims

/-- 28 R374 to R376: an image that verifies brings the part up, one that does not leaves it awaiting another; an update is for the next
reset, and an interrupted one fails verification; a nonce yields one quote, which a second nonce replaces. -/
def Sys2Proof.Claims.FirmwareAndAttestation : Prop :=
  ∀ s : State,
    (∀ f : FwImage, s.pkg.bootst = 2 → Verifies s f → Ends (.firmwareImageWrite f) s fun t => Booted s t f) ∧
    (∀ f : FwImage, s.pkg.bootst = 2 → ¬Verifies s f →
      exec (.firmwareImageWrite f) s = .next { s with pkg := { s.pkg with bootst := 2, bootFail := 2 } }) ∧
    (∀ f : FwImage, s.pkg.bootst ≠ 2 → exec (.firmwareImageWrite f) s = .next s) ∧
    (∀ f : FwImage, exec (.firmwareUpdate f false) s = .next { s with pkg := { s.pkg with flash := f } } ∧
      Ends (.firmwareUpdate f true) s fun t => { t with pkg := { t.pkg with flash := s.pkg.flash } } = s ∧ ¬Verifies t t.pkg.flash) ∧
    ∀ q : BitVec 256, exec (.attestationQuote q) s = .next { s with pkg := { s.pkg with
      quote := some (s.pkg.measured, q, Config.signature (Config.digest s.pkg.measured q)) } }

/-- 28 R374, 26 R348, R351: a reset idles every context and drops every launch, message, packet, queued store, command and page request, and
the keys that were loaded; the controllers' registers and queues are as after power-on. DRAM and host memory, and their poison, stay
(log 12); then the ROM reads the flash. -/
def Sys2Proof.Claims.ResetEvent : Prop :=
  ∀ (s : State) (f : BootFacts), Ends (.reset f) s fun t =>
    (∀ n i, (t.ctx n i).run = .idle) ∧ t.launches = [] ∧ t.packets = [] ∧ t.lines = [] ∧ t.engines = [] ∧ t.starts = [] ∧ t.outs = [] ∧
    t.payloads = [] ∧ t.reqs = [] ∧ t.heldReqs = [] ∧ t.bankCmds = [] ∧ t.pkg.podHeld = [] ∧ t.pkg.podOut = [] ∧
    (∀ n, t.core n = Core.reset) ∧ (∀ b, t.ctlOf b = Ctl.reset) ∧ (∀ b q, t.queueOf b q = Queue.reset) ∧
    (∀ a, mget 0 t.mem a = if isScratch a then 0 else mget 0 s.mem a) ∧
    (∀ w, isScratch (8 * w) = false → (∀ x ∈ f.hbmAuthFails, x / 4 ≠ w / 4) → mget false t.poison w = mget false s.poison w) ∧
    (∀ x ∈ f.hbmAuthFails, x < 2 ^ 37 → mget false t.poison x = true) ∧
    (∀ i, i ≠ 0 → mget 0 t.pkg.keys i = 0) ∧ mget 0 t.pkg.keys 0 ≠ 0 ∧
    t.pkg.retired = f.retiredCores ∧ t.pkg.retiredCh = f.retiredChannels ∧ t.pkg.flash = s.pkg.flash ∧
    t.pkg.gcap = 0x4040404040404040 ∧ t.pkg.scrub = 86400 ∧ t.pkg.layLock = false ∧
    (∀ c, t.usableOf c ≤ if f.tagsOn then 248 * 2 ^ 20 else 256 * 2 ^ 20) ∧
    t.pkg.bootst = if s.pkg.flash.signed = true ∧ f.fusedMin ≤ s.pkg.flash.secVersion then 4 else 2

/-- 26 R352: the scrubber holds a block from its read to its write; what it cannot correct it poisons and logs; neither its read nor its
write changes data, so that it never undoes a demand write. -/
def Sys2Proof.Claims.ScrubbingKeepsData : Prop :=
  ∀ (s : State) (ch blk : Nat), s.pkg.scrub ≠ 0 → ch < 1920 → blk < 2 ^ 20 → ch ∉ s.pkg.retiredCh →
    let B := ch * 2 ^ 20 + blk
    let Only := fun (t : State) => { t with poison := s.poison, errLog := s.errLog, pkg := { t.pkg with scrubHold := s.pkg.scrubHold } } = s
    (∀ bad : List Nat, Ends (.scrubBlock ch blk (.read bad)) s fun t => Only t ∧ mfind t.pkg.scrubHold ch = some (B, 0) ∧
      (∀ c, c ≠ ch → mfind t.pkg.scrubHold c = mfind s.pkg.scrubHold c) ∧
      (∀ w, mget false t.poison w = true ↔ mget false s.poison w = true ∨ (w / 32 = B ∧ w % 32 ∈ bad)) ∧
      (bad = [] → t.errLog = s.errLog) ∧
      ∀ x, bad = [x] → x < 32 → Logged s.errLog t.errLog ⟨BitVec.ofNat 64 (B * 256 + x * 8), s.clock, 0, 0, 0, 4⟩) ∧
    (∀ k, mfind s.pkg.scrubHold ch = some (B, k) → Ends (.scrubBlock ch blk .write) s fun t => Only t ∧ t.poison = s.poison ∧
      t.errLog = s.errLog ∧ ∀ c, mfind t.pkg.scrubHold c = if c = ch then none else mfind s.pkg.scrubHold c)

/-! ### The statements that join several of the above -/

/-- 08 R91, R97, 11 R131: a fetch gives the word at the resolved place; a word the spec calls illegal takes the trap of CAUSE 1. -/
def Obligations.FetchAndIllegalWords : Prop :=
  Sys2Proof.Claims.FetchReadsMemory ∧ Sys2Proof.Claims.IllegalWordsTrap

/-- Every instruction answers a next state; the step stops only once the package has tripped on heat (28 R372). -/
def Obligations.AnswersAState : Prop :=
  Sys2Proof.Claims.EveryInstructionAnswersAState ∧ Sys2Proof.Claims.StopsOnlyAfterThermalTrip

/-- 12 R156: register arithmetic and the bit counts write their results and nothing else; the divisions issue and wait for theirs. -/
def Obligations.ScalarArithmetic : Prop :=
  Sys2Proof.Claims.RegisterArithmetic ∧ Sys2Proof.Claims.BitCounts ∧ Sys2Proof.Claims.Division

/-- 12: branches and jumps go where their operands say and change nothing else but a link register. -/
def Obligations.BranchesAndJumps : Prop :=
  Sys2Proof.Claims.ConditionalBranches ∧ Sys2Proof.Claims.JumpsAndLinks

/-- 12: loads, stores, their acquire and release forms, and the prefetches. -/
def Obligations.ScalarAccesses : Prop :=
  Sys2Proof.Claims.ScalarLoads ∧ Sys2Proof.Claims.ScalarStores ∧ Sys2Proof.Claims.AcquireLoadsReleaseStores ∧ Sys2Proof.Claims.PrefetchIsAHint

/-- 04: what a fence waits for, and the scope of two places. -/
def Obligations.FencesAndScopes : Prop :=
  Sys2Proof.Claims.Fences ∧ Sys2Proof.Claims.ScopeOfTwoPlaces

/-- 17: accesses of whole vectors and of elements. -/
def Obligations.VectorAccesses : Prop :=
  Sys2Proof.Claims.WholeVectorAccess ∧ Sys2Proof.Claims.ElementAccess

/-- 04, 08: a queued store reaches its home and leaves its queue. -/
def Obligations.StoresReachHomes : Prop :=
  Sys2Proof.Claims.StoreReachesScratch ∧ Sys2Proof.Claims.StoreReachesSlice ∧ Sys2Proof.Claims.StoreIsAcknowledged

/-- 08, 11, 12: loads and atomics at their homes, and lines written back. -/
def Obligations.AccessesAtHomes : Prop :=
  Sys2Proof.Claims.LoadResultLands ∧ Sys2Proof.Claims.AtomicAtScratch ∧ Sys2Proof.Claims.DirtyLineIsWrittenBack

/-- 08: the table walk, the page-request ring and the host's answers. -/
def Obligations.TranslationEvents : Prop :=
  Sys2Proof.Claims.TranslationWalk ∧ Sys2Proof.Claims.HeldRequestReachesRing ∧ Sys2Proof.Claims.PageRequestAnswers

/-- 08 R90, R101 to R103: where global and scratch addresses lie. -/
def Obligations.Placement : Prop :=
  Sys2Proof.Claims.InterleaveSharesNoByte ∧ Sys2Proof.Claims.OwnScratchAddresses

/-- 17: the integer operations and compares of vectors. -/
def Obligations.VectorIntegerOperations : Prop :=
  Sys2Proof.Claims.VectorIntegers ∧ Sys2Proof.Claims.VectorCompares

/-- 17: the float operations and compares of vectors. -/
def Obligations.VectorFloatOperations : Prop :=
  Sys2Proof.Claims.VectorFloats ∧ Sys2Proof.Claims.VectorFloatCompares

/-- 17: moves, permutations, sorting and compression of elements. -/
def Obligations.ElementMovesAndSort : Prop :=
  Sys2Proof.Claims.ElementMoves ∧ Sys2Proof.Claims.SortAndCompress

/-- 17: conversions, packing and dot products. -/
def Obligations.ConversionsAndDotProducts : Prop :=
  Sys2Proof.Claims.Conversions ∧ Sys2Proof.Claims.DotProducts

/-- 11, 17: a prefix governs the next instruction, and each vector row checks the fields it may have. -/
def Obligations.PrefixRules : Prop :=
  Sys2Proof.Claims.PrefixGovernsTheNext ∧ Sys2Proof.Claims.PrefixRowsAreChecked

/-- 17: integer reductions and scans. -/
def Obligations.IntegerReductionsAndScans : Prop :=
  Sys2Proof.Claims.IntegerReductions ∧ Sys2Proof.Claims.IntegerScans

/-- 17: float reductions and the float scan. -/
def Obligations.FloatReductionsAndScan : Prop :=
  Sys2Proof.Claims.FloatReductions ∧ Sys2Proof.Claims.FloatScan

/-- 14, 02: a thread creates another, sends a message or launches from the device. -/
def Obligations.ThreadCreation : Prop :=
  Sys2Proof.Claims.SpawnAndSend ∧ Sys2Proof.Claims.LaunchFromTheDevice

/-- 13: the entry of a trap, the return from one and the traps that events raise. -/
def Obligations.TrapsAndReturn : Prop :=
  Sys2Proof.Claims.TakingATrap ∧ Sys2Proof.Claims.ReturnAndTrapEvents

/-- 14: the instructions on group words, and a poisoned one. -/
def Obligations.GroupWords : Prop :=
  Sys2Proof.Claims.GroupInstructions ∧ Sys2Proof.Claims.PoisonedGroupWord

/-- 20: the rendezvous instructions and the split of a walk. -/
def Obligations.RendezvousAndSplit : Prop :=
  Sys2Proof.Claims.RendezvousInstructions ∧ Sys2Proof.Claims.SplitInstruction

/-- 20: candidate queues merge, give their best entries and test visited tables. -/
def Obligations.QueueOperations : Prop :=
  Sys2Proof.Claims.QueueMerge ∧ Sys2Proof.Claims.QueueBest ∧ Sys2Proof.Claims.VisitedTables

/-- 24: curve codes, boxes and their split into ranges. -/
def Obligations.CurveWords : Prop :=
  Sys2Proof.Claims.CurveCodes ∧ Sys2Proof.Claims.CurveSplit

/-- 22: the drain of a slice and the operations of a gang. -/
def Obligations.MatrixEvents : Prop :=
  Sys2Proof.Claims.MatrixDrain ∧ Sys2Proof.Claims.GangOperations

/-- 26: what each word of a bank program does. -/
def Obligations.BankWords : Prop :=
  Sys2Proof.Claims.BankScalarWords ∧ Sys2Proof.Claims.BankRowWords

/-- 02, 28: launch records enter their queues and threads are distributed. -/
def Obligations.LaunchQueues : Prop :=
  Sys2Proof.Claims.LaunchRecords ∧ Sys2Proof.Claims.LaunchDistribution

/-- 02, 28: spawned and sent threads start, and launches complete. -/
def Obligations.SpawnAndCompletion : Prop :=
  Sys2Proof.Claims.SpawnMessages ∧ Sys2Proof.Claims.LaunchCompletion

/-- 13, 28: the controllers' commands, what a save region holds, and the save and restore of a launch. -/
def Obligations.Preemption : Prop :=
  Sys2Proof.Claims.LaunchCommands ∧ Sys2Proof.Claims.SaveContents ∧ Sys2Proof.Claims.PreemptionEvents

/-- 15, 28, 08: the mesh and the requests that enter it, the links between packages and the pod agent. -/
def Obligations.MeshAndLinks : Prop :=
  Sys2Proof.Claims.MeshRouting ∧ Sys2Proof.Claims.MeshRequests ∧ Sys2Proof.Claims.LinkEvents ∧ Sys2Proof.Claims.PodWindowRequests

/-- 15, 28: the host's registers. -/
def Obligations.HostRegisters : Prop :=
  Sys2Proof.Claims.QueueRegisters ∧ Sys2Proof.Claims.ParkingAndDebug ∧ Sys2Proof.Claims.LayoutAndCaps ∧ Sys2Proof.Claims.HostRegisterWrites

/-- 08, 26: keys, versions, BAR4 and the scrubber. -/
def Obligations.HostDram : Prop :=
  Sys2Proof.Claims.KeysAndVersions ∧ Sys2Proof.Claims.HostWindowOfDram ∧ Sys2Proof.Claims.ScrubbingKeepsData

/-- 28: firmware, attestation and reset. -/
def Obligations.BringUp : Prop :=
  Sys2Proof.Claims.FirmwareAndAttestation ∧ Sys2Proof.Claims.ResetEvent

end
end

