-- ==== Sys2Proof/Laws/Maps.lean ====
section
/-! SUPPORT. Sparse tables: what a read gives after a write, and that every write keeps the canonical form. -/

namespace Sys2Proof.Machine

variable {α : Type}

/-! ### Reading after writing -/

@[simp] theorem mget_nil (d : α) (q : Nat) : mget d [] q = d := rfl

theorem mget_mput (d : α) (m : Map α) (q p : Nat) (v : α) : mget d (mput m q v) p = if p = q then v else mget d m p := by
  induction m with
  | nil => simp [mput, mget]
  | cons e t ih =>
    obtain ⟨k, u⟩ := e
    simp only [mput]
    split
    · rfl
    · split
      · rename_i h; subst h
        by_cases hp : p = q <;> simp [mget, hp]
      · rename_i h1 h2
        simp only [mget, ih]
        by_cases hk : p = k
        · have hq : p ≠ q := by omega
          simp [hk, show k ≠ q by omega]
        · simp [hk]

theorem mget_mdel (d : α) (m : Map α) (q p : Nat) : mget d (mdel m q) p = if p = q then d else mget d m p := by
  induction m with
  | nil => simp [mdel]
  | cons e t ih =>
    obtain ⟨k, u⟩ := e
    have hd : mdel ((k, u) :: t) q = if k = q then mdel t q else (k, u) :: mdel t q := by
      by_cases h : k = q <;> simp [mdel, h]
    rw [hd]
    by_cases hk : k = q
    · simp only [hk, if_pos, ih, mget]
      by_cases hp : p = q <;> simp [hp]
    · simp only [hk, if_false, mget, ih]
      by_cases hp : p = k
      · simp [hp, hk]
      · simp [hp]

variable [DecidableEq α]

/-- A read after a write: the value at its key, what was there at every other. -/
theorem mget_mset (d : α) (m : Map α) (q p : Nat) (v : α) : mget d (mset d m q v) p = if p = q then v else mget d m p := by
  unfold mset
  split
  · rename_i h; rw [mget_mdel, h]
  · exact mget_mput d m q p v

@[simp] theorem mget_mset_same (d : α) (m : Map α) (q : Nat) (v : α) : mget d (mset d m q v) q = v := by
  simp [mget_mset]

theorem mget_mset_ne (d : α) (m : Map α) {q p : Nat} (v : α) (h : p ≠ q) : mget d (mset d m q v) p = mget d m p := by
  simp [mget_mset, h]

/-- A read after a run of writes: the written value inside the run, what was there outside. -/
theorem mget_msetList (d : α) (vs : List α) : ∀ (m : Map α) (q p : Nat),
    mget d (msetList d m q vs) p = if q ≤ p ∧ p < q + vs.length then vs.getD (p - q) d else mget d m p := by
  induction vs with
  | nil =>
    intro m q p
    rw [msetList, if_neg]
    simp only [List.length_nil]; omega
  | cons v t ih =>
    intro m q p
    rw [msetList, ih, mget_mset]
    by_cases h0 : p = q
    · subst h0
      have h1 : ¬(p + 1 ≤ p ∧ p < p + 1 + t.length) := by omega
      simp only [List.length_cons]
      rw [if_neg h1, if_pos trivial, if_pos (by omega), Nat.sub_self]; rfl
    · by_cases h1 : q + 1 ≤ p ∧ p < q + 1 + t.length
      · have h2 : q ≤ p ∧ p < q + (t.length + 1) := by omega
        obtain ⟨n, hn⟩ : ∃ n, p - q = n + 1 := ⟨p - q - 1, by omega⟩
        have h3 : p - (q + 1) = n := by omega
        simp [h1, h2, hn, h3]
      · have h2 : ¬(q ≤ p ∧ p < q + (t.length + 1)) := by omega
        simp only [List.length_cons]
        rw [if_neg h1, if_neg h0, if_neg h2]

/-! ### The canonical form -/

/-- Every key of a table is at least `b`. -/
def keysFrom (b : Nat) (m : Map α) : Prop := ∀ e ∈ m, b ≤ e.1

omit [DecidableEq α] in
theorem msorted_cons (k : Nat) (v : α) (t : Map α) : msorted ((k, v) :: t) = true ↔ keysFrom (k + 1) t ∧ msorted t = true := by
  simp only [msorted, Bool.and_eq_true, List.all_eq_true, decide_eq_true_eq, keysFrom, Nat.lt_iff_add_one_le]

omit [DecidableEq α] in
theorem keysFrom_mput {b : Nat} {m : Map α} {q : Nat} {v : α} (hm : keysFrom b m) (hq : b ≤ q) : keysFrom b (mput m q v) := by
  induction m with
  | nil => intro e he; simp only [mput, List.mem_singleton] at he; subst he; exact hq
  | cons a t ih =>
    obtain ⟨k, u⟩ := a
    have hk : b ≤ k := hm (k, u) (by simp)
    have ht : keysFrom b t := fun e he => hm e (by simp [he])
    intro e he
    simp only [mput] at he
    split at he
    · rcases List.mem_cons.1 he with h | h
      · subst h; exact hq
      · exact hm e h
    · split at he
      · rcases List.mem_cons.1 he with h | h
        · subst h; exact hq
        · exact ht e h
      · rcases List.mem_cons.1 he with h | h
        · subst h; exact hk
        · exact ih ht e h

omit [DecidableEq α] in
theorem msorted_mput {m : Map α} {q : Nat} {v : α} (h : msorted m = true) : msorted (mput m q v) = true := by
  induction m with
  | nil => rfl
  | cons a t ih =>
    obtain ⟨k, u⟩ := a
    obtain ⟨hk, ht⟩ := (msorted_cons k u t).1 h
    simp only [mput]
    split
    · rename_i hlt
      refine (msorted_cons q v _).2 ⟨fun e he => ?_, h⟩
      rcases List.mem_cons.1 he with hh | hh
      · subst hh; exact hlt
      · have := hk e hh; omega
    · split
      · rename_i hq; subst hq; exact (msorted_cons q v t).2 ⟨hk, ht⟩
      · rename_i h1 h2; exact (msorted_cons k u _).2 ⟨keysFrom_mput hk (by omega), ih ht⟩

omit [DecidableEq α] in
theorem msorted_filter {m : Map α} (f : Nat × α → Bool) (h : msorted m = true) : msorted (m.filter f) = true := by
  induction m with
  | nil => rfl
  | cons a t ih =>
    obtain ⟨k, u⟩ := a
    obtain ⟨hk, ht⟩ := (msorted_cons k u t).1 h
    simp only [List.filter_cons]
    split
    · exact (msorted_cons k u _).2 ⟨fun e he => hk e (List.mem_filter.1 he).1, ih ht⟩
    · exact ih ht

theorem mwf_filter (d : α) {m : Map α} (f : Nat × α → Bool) (h : mwf d m = true) : mwf d (m.filter f) = true := by
  simp only [mwf, Bool.and_eq_true, List.all_eq_true] at h ⊢
  exact ⟨msorted_filter f h.1, fun e he => h.2 e (List.mem_filter.1 he).1⟩

omit [DecidableEq α] in
theorem mem_mput {m : Map α} {q : Nat} {v : α} {e : Nat × α} (h : e ∈ mput m q v) : e = (q, v) ∨ e ∈ m := by
  induction m with
  | nil => left; simpa [mput] using h
  | cons a t ih =>
    obtain ⟨k, u⟩ := a
    simp only [mput] at h
    split at h
    · rcases List.mem_cons.1 h with hh | hh
      · exact .inl hh
      · exact .inr hh
    · split at h
      · rcases List.mem_cons.1 h with hh | hh
        · exact .inl hh
        · exact .inr (by simp [hh])
      · rcases List.mem_cons.1 h with hh | hh
        · exact .inr (by simp [hh])
        · rcases ih hh with h3 | h3
          · exact .inl h3
          · exact .inr (by simp [h3])

/-- A write keeps the canonical form. -/
theorem mwf_mset (d : α) {m : Map α} (q : Nat) (v : α) (h : mwf d m = true) : mwf d (mset d m q v) = true := by
  unfold mset
  split
  · exact mwf_filter d _ h
  · rename_i hv
    simp only [mwf, Bool.and_eq_true, List.all_eq_true, decide_eq_true_eq] at h ⊢
    refine ⟨msorted_mput h.1, fun e he => ?_⟩
    rcases mem_mput he with h1 | h1
    · subst h1; exact hv
    · exact h.2 e h1

/-- A run of writes keeps the canonical form. -/
theorem mwf_msetList (d : α) (vs : List α) : ∀ {m : Map α} (q : Nat), mwf d m = true → mwf d (msetList d m q vs) = true := by
  induction vs with
  | nil => intro m q h; exact h
  | cons v t ih => intro m q h; exact ih (q + 1) (mwf_mset d q v h)

end Sys2Proof.Machine
end

