-- ==== Sys2Proof/Laws/State.lean ====
section
/-! SUPPORT. What each update of the state leaves and what it sets: one lemma per field, true by unfolding the update once. -/

namespace Sys2Proof.Machine

variable (s : State) (t : Ctx) (c : Core)


/-! ### Replacing a core or a context changes no other part of the state -/

@[simp] theorem State.setCore_mem (n : Nat) : (s.setCore n c).mem = s.mem := rfl
@[simp] theorem State.setCtx_mem (n i : Nat) : (s.setCtx n i t).mem = s.mem := rfl
@[simp] theorem State.putMe_mem : (s.putMe t).mem = s.mem := rfl
@[simp] theorem State.putCore_mem : (s.putCore c).mem = s.mem := rfl
@[simp] theorem State.setCore_poison (n : Nat) : (s.setCore n c).poison = s.poison := rfl
@[simp] theorem State.setCtx_poison (n i : Nat) : (s.setCtx n i t).poison = s.poison := rfl
@[simp] theorem State.putMe_poison : (s.putMe t).poison = s.poison := rfl
@[simp] theorem State.putCore_poison : (s.putCore c).poison = s.poison := rfl
@[simp] theorem State.setCore_blk (n : Nat) : (s.setCore n c).blk = s.blk := rfl
@[simp] theorem State.setCtx_blk (n i : Nat) : (s.setCtx n i t).blk = s.blk := rfl
@[simp] theorem State.putMe_blk : (s.putMe t).blk = s.blk := rfl
@[simp] theorem State.putCore_blk : (s.putCore c).blk = s.blk := rfl
@[simp] theorem State.setCore_lineMeta (n : Nat) : (s.setCore n c).lineMeta = s.lineMeta := rfl
@[simp] theorem State.setCtx_lineMeta (n i : Nat) : (s.setCtx n i t).lineMeta = s.lineMeta := rfl
@[simp] theorem State.putMe_lineMeta : (s.putMe t).lineMeta = s.lineMeta := rfl
@[simp] theorem State.putCore_lineMeta : (s.putCore c).lineMeta = s.lineMeta := rfl
@[simp] theorem State.setCore_lines (n : Nat) : (s.setCore n c).lines = s.lines := rfl
@[simp] theorem State.setCtx_lines (n i : Nat) : (s.setCtx n i t).lines = s.lines := rfl
@[simp] theorem State.putMe_lines : (s.putMe t).lines = s.lines := rfl
@[simp] theorem State.putCore_lines : (s.putCore c).lines = s.lines := rfl
@[simp] theorem State.setCore_clock (n : Nat) : (s.setCore n c).clock = s.clock := rfl
@[simp] theorem State.setCtx_clock (n i : Nat) : (s.setCtx n i t).clock = s.clock := rfl
@[simp] theorem State.putMe_clock : (s.putMe t).clock = s.clock := rfl
@[simp] theorem State.putCore_clock : (s.putCore c).clock = s.clock := rfl
@[simp] theorem State.setCore_ctl (n : Nat) : (s.setCore n c).ctl = s.ctl := rfl
@[simp] theorem State.setCtx_ctl (n i : Nat) : (s.setCtx n i t).ctl = s.ctl := rfl
@[simp] theorem State.putMe_ctl : (s.putMe t).ctl = s.ctl := rfl
@[simp] theorem State.putCore_ctl : (s.putCore c).ctl = s.ctl := rfl
@[simp] theorem State.setCore_launches (n : Nat) : (s.setCore n c).launches = s.launches := rfl
@[simp] theorem State.setCtx_launches (n i : Nat) : (s.setCtx n i t).launches = s.launches := rfl
@[simp] theorem State.putMe_launches : (s.putMe t).launches = s.launches := rfl
@[simp] theorem State.putCore_launches : (s.putCore c).launches = s.launches := rfl
@[simp] theorem State.setCore_starts (n : Nat) : (s.setCore n c).starts = s.starts := rfl
@[simp] theorem State.setCtx_starts (n i : Nat) : (s.setCtx n i t).starts = s.starts := rfl
@[simp] theorem State.putMe_starts : (s.putMe t).starts = s.starts := rfl
@[simp] theorem State.putCore_starts : (s.putCore c).starts = s.starts := rfl
@[simp] theorem State.setCore_outs (n : Nat) : (s.setCore n c).outs = s.outs := rfl
@[simp] theorem State.setCtx_outs (n i : Nat) : (s.setCtx n i t).outs = s.outs := rfl
@[simp] theorem State.putMe_outs : (s.putMe t).outs = s.outs := rfl
@[simp] theorem State.putCore_outs : (s.putCore c).outs = s.outs := rfl
@[simp] theorem State.setCore_engines (n : Nat) : (s.setCore n c).engines = s.engines := rfl
@[simp] theorem State.setCtx_engines (n i : Nat) : (s.setCtx n i t).engines = s.engines := rfl
@[simp] theorem State.putMe_engines : (s.putMe t).engines = s.engines := rfl
@[simp] theorem State.putCore_engines : (s.putCore c).engines = s.engines := rfl
@[simp] theorem State.setCore_bankCmds (n : Nat) : (s.setCore n c).bankCmds = s.bankCmds := rfl
@[simp] theorem State.setCtx_bankCmds (n i : Nat) : (s.setCtx n i t).bankCmds = s.bankCmds := rfl
@[simp] theorem State.putMe_bankCmds : (s.putMe t).bankCmds = s.bankCmds := rfl
@[simp] theorem State.putCore_bankCmds : (s.putCore c).bankCmds = s.bankCmds := rfl
@[simp] theorem State.setCore_reqs (n : Nat) : (s.setCore n c).reqs = s.reqs := rfl
@[simp] theorem State.setCtx_reqs (n i : Nat) : (s.setCtx n i t).reqs = s.reqs := rfl
@[simp] theorem State.putMe_reqs : (s.putMe t).reqs = s.reqs := rfl
@[simp] theorem State.putCore_reqs : (s.putCore c).reqs = s.reqs := rfl
@[simp] theorem State.setCore_heldReqs (n : Nat) : (s.setCore n c).heldReqs = s.heldReqs := rfl
@[simp] theorem State.setCtx_heldReqs (n i : Nat) : (s.setCtx n i t).heldReqs = s.heldReqs := rfl
@[simp] theorem State.putMe_heldReqs : (s.putMe t).heldReqs = s.heldReqs := rfl
@[simp] theorem State.putCore_heldReqs : (s.putCore c).heldReqs = s.heldReqs := rfl
@[simp] theorem State.setCore_errLog (n : Nat) : (s.setCore n c).errLog = s.errLog := rfl
@[simp] theorem State.setCtx_errLog (n i : Nat) : (s.setCtx n i t).errLog = s.errLog := rfl
@[simp] theorem State.putMe_errLog : (s.putMe t).errLog = s.errLog := rfl
@[simp] theorem State.putCore_errLog : (s.putCore c).errLog = s.errLog := rfl
@[simp] theorem State.setCore_dbgLog (n : Nat) : (s.setCore n c).dbgLog = s.dbgLog := rfl
@[simp] theorem State.setCtx_dbgLog (n i : Nat) : (s.setCtx n i t).dbgLog = s.dbgLog := rfl
@[simp] theorem State.putMe_dbgLog : (s.putMe t).dbgLog = s.dbgLog := rfl
@[simp] theorem State.putCore_dbgLog : (s.putCore c).dbgLog = s.dbgLog := rfl
@[simp] theorem State.setCore_packets (n : Nat) : (s.setCore n c).packets = s.packets := rfl
@[simp] theorem State.setCtx_packets (n i : Nat) : (s.setCtx n i t).packets = s.packets := rfl
@[simp] theorem State.putMe_packets : (s.putMe t).packets = s.packets := rfl
@[simp] theorem State.putCore_packets : (s.putCore c).packets = s.packets := rfl
@[simp] theorem State.setCore_payloads (n : Nat) : (s.setCore n c).payloads = s.payloads := rfl
@[simp] theorem State.setCtx_payloads (n i : Nat) : (s.setCtx n i t).payloads = s.payloads := rfl
@[simp] theorem State.putMe_payloads : (s.putMe t).payloads = s.payloads := rfl
@[simp] theorem State.putCore_payloads : (s.putCore c).payloads = s.payloads := rfl
@[simp] theorem State.setCore_arbs (n : Nat) : (s.setCore n c).arbs = s.arbs := rfl
@[simp] theorem State.setCtx_arbs (n i : Nat) : (s.setCtx n i t).arbs = s.arbs := rfl
@[simp] theorem State.putMe_arbs : (s.putMe t).arbs = s.arbs := rfl
@[simp] theorem State.putCore_arbs : (s.putCore c).arbs = s.arbs := rfl
@[simp] theorem State.setCore_etgus (n : Nat) : (s.setCore n c).etgus = s.etgus := rfl
@[simp] theorem State.setCtx_etgus (n i : Nat) : (s.setCtx n i t).etgus = s.etgus := rfl
@[simp] theorem State.putMe_etgus : (s.putMe t).etgus = s.etgus := rfl
@[simp] theorem State.putCore_etgus : (s.putCore c).etgus = s.etgus := rfl
@[simp] theorem State.setCore_pkg (n : Nat) : (s.setCore n c).pkg = s.pkg := rfl
@[simp] theorem State.setCtx_pkg (n i : Nat) : (s.setCtx n i t).pkg = s.pkg := rfl
@[simp] theorem State.putMe_pkg : (s.putMe t).pkg = s.pkg := rfl
@[simp] theorem State.putCore_pkg : (s.putCore c).pkg = s.pkg := rfl
@[simp] theorem State.setCore_tape (n : Nat) : (s.setCore n c).tape = s.tape := rfl
@[simp] theorem State.setCtx_tape (n i : Nat) : (s.setCtx n i t).tape = s.tape := rfl
@[simp] theorem State.putMe_tape : (s.putMe t).tape = s.tape := rfl
@[simp] theorem State.putCore_tape : (s.putCore c).tape = s.tape := rfl
@[simp] theorem State.setCore_cur (n : Nat) : (s.setCore n c).cur = s.cur := rfl
@[simp] theorem State.setCtx_cur (n i : Nat) : (s.setCtx n i t).cur = s.cur := rfl
@[simp] theorem State.putMe_cur : (s.putMe t).cur = s.cur := rfl
@[simp] theorem State.putCore_cur : (s.putCore c).cur = s.cur := rfl
@[simp] theorem State.setCore_free (n : Nat) : (s.setCore n c).free = s.free := rfl
@[simp] theorem State.setCtx_free (n i : Nat) : (s.setCtx n i t).free = s.free := rfl
@[simp] theorem State.putMe_free : (s.putMe t).free = s.free := rfl
@[simp] theorem State.putCore_free : (s.putCore c).free = s.free := rfl
@[simp] theorem State.setCore_arrivals (n : Nat) : (s.setCore n c).arrivals = s.arrivals := rfl
@[simp] theorem State.setCtx_arrivals (n i : Nat) : (s.setCtx n i t).arrivals = s.arrivals := rfl
@[simp] theorem State.putMe_arrivals : (s.putMe t).arrivals = s.arrivals := rfl
@[simp] theorem State.putCore_arrivals : (s.putCore c).arrivals = s.arrivals := rfl

/-! ### Writing raw bytes changes memory alone -/

@[simp] theorem State.rawWrite_poison (loc n w : Nat) : (s.rawWrite loc n w).poison = s.poison := rfl
@[simp] theorem State.rawWrite_blk (loc n w : Nat) : (s.rawWrite loc n w).blk = s.blk := rfl
@[simp] theorem State.rawWrite_lineMeta (loc n w : Nat) : (s.rawWrite loc n w).lineMeta = s.lineMeta := rfl
@[simp] theorem State.rawWrite_lines (loc n w : Nat) : (s.rawWrite loc n w).lines = s.lines := rfl
@[simp] theorem State.rawWrite_clock (loc n w : Nat) : (s.rawWrite loc n w).clock = s.clock := rfl
@[simp] theorem State.rawWrite_cores (loc n w : Nat) : (s.rawWrite loc n w).cores = s.cores := rfl
@[simp] theorem State.rawWrite_ctl (loc n w : Nat) : (s.rawWrite loc n w).ctl = s.ctl := rfl
@[simp] theorem State.rawWrite_launches (loc n w : Nat) : (s.rawWrite loc n w).launches = s.launches := rfl
@[simp] theorem State.rawWrite_starts (loc n w : Nat) : (s.rawWrite loc n w).starts = s.starts := rfl
@[simp] theorem State.rawWrite_outs (loc n w : Nat) : (s.rawWrite loc n w).outs = s.outs := rfl
@[simp] theorem State.rawWrite_engines (loc n w : Nat) : (s.rawWrite loc n w).engines = s.engines := rfl
@[simp] theorem State.rawWrite_bankCmds (loc n w : Nat) : (s.rawWrite loc n w).bankCmds = s.bankCmds := rfl
@[simp] theorem State.rawWrite_reqs (loc n w : Nat) : (s.rawWrite loc n w).reqs = s.reqs := rfl
@[simp] theorem State.rawWrite_heldReqs (loc n w : Nat) : (s.rawWrite loc n w).heldReqs = s.heldReqs := rfl
@[simp] theorem State.rawWrite_errLog (loc n w : Nat) : (s.rawWrite loc n w).errLog = s.errLog := rfl
@[simp] theorem State.rawWrite_dbgLog (loc n w : Nat) : (s.rawWrite loc n w).dbgLog = s.dbgLog := rfl
@[simp] theorem State.rawWrite_packets (loc n w : Nat) : (s.rawWrite loc n w).packets = s.packets := rfl
@[simp] theorem State.rawWrite_payloads (loc n w : Nat) : (s.rawWrite loc n w).payloads = s.payloads := rfl
@[simp] theorem State.rawWrite_arbs (loc n w : Nat) : (s.rawWrite loc n w).arbs = s.arbs := rfl
@[simp] theorem State.rawWrite_etgus (loc n w : Nat) : (s.rawWrite loc n w).etgus = s.etgus := rfl
@[simp] theorem State.rawWrite_pkg (loc n w : Nat) : (s.rawWrite loc n w).pkg = s.pkg := rfl
@[simp] theorem State.rawWrite_tape (loc n w : Nat) : (s.rawWrite loc n w).tape = s.tape := rfl
@[simp] theorem State.rawWrite_cur (loc n w : Nat) : (s.rawWrite loc n w).cur = s.cur := rfl
@[simp] theorem State.rawWrite_free (loc n w : Nat) : (s.rawWrite loc n w).free = s.free := rfl
@[simp] theorem State.rawWrite_arrivals (loc n w : Nat) : (s.rawWrite loc n w).arrivals = s.arrivals := rfl

/-! ### Replacing a context changes no other part of its core -/

@[simp] theorem Core.setCtx_flgsum (i : Nat) : (c.setCtx i t).flgsum = c.flgsum := rfl
@[simp] theorem Core.setCtx_mxidle (i : Nat) : (c.setCtx i t).mxidle = c.mxidle := rfl
@[simp] theorem Core.setCtx_tagEn (i : Nat) : (c.setCtx i t).tagEn = c.tagEn := rfl
@[simp] theorem Core.setCtx_tagSize (i : Nat) : (c.setCtx i t).tagSize = c.tagSize := rfl
@[simp] theorem Core.setCtx_tagSets (i : Nat) : (c.setCtx i t).tagSets = c.tagSets := rfl
@[simp] theorem Core.setCtx_tagBase (i : Nat) : (c.setCtx i t).tagBase = c.tagBase := rfl
@[simp] theorem Core.setCtx_tags (i : Nat) : (c.setCtx i t).tags = c.tags := rfl
@[simp] theorem Core.setCtx_tagLru (i : Nat) : (c.setCtx i t).tagLru = c.tagLru := rfl
@[simp] theorem Core.setCtx_tlb (i : Nat) : (c.setCtx i t).tlb = c.tlb := rfl
@[simp] theorem Core.setCtx_misses (i : Nat) : (c.setCtx i t).misses = c.misses := rfl
@[simp] theorem Core.setCtx_l1 (i : Nat) : (c.setCtx i t).l1 = c.l1 := rfl
@[simp] theorem Core.setCtx_icache (i : Nat) : (c.setCtx i t).icache = c.icache := rfl
@[simp] theorem Core.setCtx_storeQ (i : Nat) : (c.setCtx i t).storeQ = c.storeQ := rfl
@[simp] theorem Core.setCtx_nextStore (i : Nat) : (c.setCtx i t).nextStore = c.nextStore := rfl
@[simp] theorem Core.setCtx_lockBits (i : Nat) : (c.setCtx i t).lockBits = c.lockBits := rfl
@[simp] theorem Core.setCtx_lockWait (i : Nat) : (c.setCtx i t).lockWait = c.lockWait := rfl
@[simp] theorem Core.setCtx_slots (i : Nat) : (c.setCtx i t).slots = c.slots := rfl
@[simp] theorem Core.setCtx_chans (i : Nat) : (c.setCtx i t).chans = c.chans := rfl
@[simp] theorem Core.setCtx_copyFifo (i : Nat) : (c.setCtx i t).copyFifo = c.copyFifo := rfl
@[simp] theorem Core.setCtx_nextCmd (i : Nat) : (c.setCtx i t).nextCmd = c.nextCmd := rfl
@[simp] theorem Core.setCtx_rvt (i : Nat) : (c.setCtx i t).rvt = c.rvt := rfl
@[simp] theorem Core.setCtx_inbox (i : Nat) : (c.setCtx i t).inbox = c.inbox := rfl
@[simp] theorem Core.setCtx_mx (i : Nat) : (c.setCtx i t).mx = c.mx := rfl
@[simp] theorem Core.setCtx_parked (i : Nat) : (c.setCtx i t).parked = c.parked := rfl
@[simp] theorem Core.setCtx_excuse (i : Nat) : (c.setCtx i t).excuse = c.excuse := rfl
@[simp] theorem Core.setCtx_routerGated (i : Nat) : (c.setCtx i t).routerGated = c.routerGated := rfl
@[simp] theorem Core.setCtx_routerIdle (i : Nat) : (c.setCtx i t).routerIdle = c.routerIdle := rfl
@[simp] theorem Core.setCtx_excuseDue (i : Nat) : (c.setCtx i t).excuseDue = c.excuseDue := rfl
@[simp] theorem Core.setCtx_held (i : Nat) : (c.setCtx i t).held = c.held := rfl
@[simp] theorem Core.setCtx_csrDue (i : Nat) : (c.setCtx i t).csrDue = c.csrDue := rfl
@[simp] theorem Core.setCtx_raiseDue (i : Nat) : (c.setCtx i t).raiseDue = c.raiseDue := rfl
@[simp] theorem Core.setCtx_bankAt (i : Nat) : (c.setCtx i t).bankAt = c.bankAt := rfl
@[simp] theorem Core.setCtx_bankOps (i : Nat) : (c.setCtx i t).bankOps = c.bankOps := rfl
@[simp] theorem Core.setCtx_arrs (i : Nat) : (c.setCtx i t).arrs = c.arrs := rfl
@[simp] theorem Core.setCtx_handAt (i : Nat) : (c.setCtx i t).handAt = c.handAt := rfl

/-! ### Moving past an instruction -/

@[simp] theorem Ctx.retire_run (p : Word) : (t.retire p).run = .ready := rfl
@[simp] theorem Ctx.retire_pc (p : Word) : (t.retire p).pc = p := rfl
@[simp] theorem Ctx.retire_x (p : Word) : (t.retire p).x = t.x := rfl
@[simp] theorem Ctx.retire_v (p : Word) : (t.retire p).v = t.v := rfl
@[simp] theorem Ctx.retire_k (p : Word) : (t.retire p).k = t.k := rfl
@[simp] theorem Ctx.retire_qm (p : Word) : (t.retire p).qm = t.qm := rfl
@[simp] theorem Ctx.retire_qd (p : Word) : (t.retire p).qd = t.qd := rfl
@[simp] theorem Ctx.retire_tid (p : Word) : (t.retire p).tid = t.tid := rfl
@[simp] theorem Ctx.retire_lid (p : Word) : (t.retire p).lid = t.lid := rfl
@[simp] theorem Ctx.retire_spawnno (p : Word) : (t.retire p).spawnno = t.spawnno := rfl
@[simp] theorem Ctx.retire_rmode (p : Word) : (t.retire p).rmode = t.rmode := rfl
@[simp] theorem Ctx.retire_vflg0 (p : Word) : (t.retire p).vflg0 = t.vflg0 := rfl
@[simp] theorem Ctx.retire_vflg1 (p : Word) : (t.retire p).vflg1 = t.vflg1 := rfl
@[simp] theorem Ctx.retire_fmtp (p : Word) : (t.retire p).fmtp = t.fmtp := rfl
@[simp] theorem Ctx.retire_space (p : Word) : (t.retire p).space = t.space := rfl
@[simp] theorem Ctx.retire_inh (p : Word) : (t.retire p).inh = t.inh := rfl
@[simp] theorem Ctx.retire_pp (p : Word) : (t.retire p).pp = t.pp := rfl
@[simp] theorem Ctx.retire_scnt (p : Word) : (t.retire p).scnt = t.scnt := rfl
@[simp] theorem Ctx.retire_cls (p : Word) : (t.retire p).cls = t.cls := rfl
@[simp] theorem Ctx.retire_cvd (p : Word) : (t.retire p).cvd = t.cvd := rfl
@[simp] theorem Ctx.retire_cvf (p : Word) : (t.retire p).cvf = t.cvf := rfl
@[simp] theorem Ctx.retire_qtb (p : Word) : (t.retire p).qtb = t.qtb := rfl
@[simp] theorem Ctx.retire_qstr (p : Word) : (t.retire p).qstr = t.qstr := rfl
@[simp] theorem Ctx.retire_qbat (p : Word) : (t.retire p).qbat = t.qbat := rfl
@[simp] theorem Ctx.retire_mxprog (p : Word) : (t.retire p).mxprog = t.mxprog := rfl
@[simp] theorem Ctx.retire_epc (p : Word) : (t.retire p).epc = t.epc := rfl
@[simp] theorem Ctx.retire_ecause (p : Word) : (t.retire p).ecause = t.ecause := rfl
@[simp] theorem Ctx.retire_etval (p : Word) : (t.retire p).etval = t.etval := rfl
@[simp] theorem Ctx.retire_ehandler (p : Word) : (t.retire p).ehandler = t.ehandler := rfl
@[simp] theorem Ctx.retire_latch (p : Word) : (t.retire p).latch = t.latch := rfl
@[simp] theorem Ctx.retire_latchOn (p : Word) : (t.retire p).latchOn = false := rfl
@[simp] theorem Ctx.retire_windows (p : Word) : (t.retire p).windows = t.windows.map tick := rfl
@[simp] theorem Ctx.retire_fences (p : Word) : (t.retire p).fences = t.fences := rfl
@[simp] theorem Ctx.retire_lock (p : Word) : (t.retire p).lock = t.lock := rfl
@[simp] theorem Ctx.retire_gen (p : Word) : (t.retire p).gen = t.gen := rfl
@[simp] theorem Ctx.retire_copyQ (p : Word) : (t.retire p).copyQ = t.copyQ := rfl
@[simp] theorem Ctx.retire_bankQ (p : Word) : (t.retire p).bankQ = t.bankQ := rfl
@[simp] theorem Ctx.retire_trapPend (p : Word) : (t.retire p).trapPend = t.trapPend := rfl
@[simp] theorem Ctx.retire_poisonDue (p : Word) : (t.retire p).poisonDue = t.poisonDue := rfl
@[simp] theorem Ctx.retire_poisonHeld (p : Word) : (t.retire p).poisonHeld = t.poisonHeld := rfl
@[simp] theorem Ctx.retire_regErr (p : Word) : (t.retire p).regErr = t.regErr := rfl
@[simp] theorem Ctx.retire_stallAt (p : Word) : (t.retire p).stallAt = none := rfl
@[simp] theorem Ctx.retire_stallCnt (p : Word) : (t.retire p).stallCnt = 0 := rfl
@[simp] theorem Ctx.retire_yieldFor (p : Word) : (t.retire p).yieldFor = none := rfl
@[simp] theorem Ctx.retire_todo (p : Word) : (t.retire p).todo = none := rfl
@[simp] theorem Ctx.retire_idleAt (p : Word) : (t.retire p).idleAt = t.idleAt := rfl
@[simp] theorem Ctx.retire_barHeld (p : Word) : (t.retire p).barHeld = t.barHeld := rfl
@[simp] theorem Ctx.retire_past (p : Word) : (t.retire p).past = t.past := rfl
@[simp] theorem Ctx.retire_stale (p : Word) : (t.retire p).stale = t.stale := rfl
@[simp] theorem Ctx.retire_reqLost (p : Word) : (t.retire p).reqLost = t.reqLost := rfl
@[simp] theorem Ctx.retire_seq (p : Word) : (t.retire p).seq = t.seq := rfl
@[simp] theorem Ctx.next_run : t.next.run = .ready := rfl
@[simp] theorem Ctx.next_pc : t.next.pc = t.pc + 4 := rfl
@[simp] theorem Ctx.next_x : t.next.x = t.x := rfl
@[simp] theorem Ctx.next_v : t.next.v = t.v := rfl
@[simp] theorem Ctx.next_k : t.next.k = t.k := rfl
@[simp] theorem Ctx.next_qm : t.next.qm = t.qm := rfl
@[simp] theorem Ctx.next_qd : t.next.qd = t.qd := rfl
@[simp] theorem Ctx.next_tid : t.next.tid = t.tid := rfl
@[simp] theorem Ctx.next_lid : t.next.lid = t.lid := rfl
@[simp] theorem Ctx.next_spawnno : t.next.spawnno = t.spawnno := rfl
@[simp] theorem Ctx.next_rmode : t.next.rmode = t.rmode := rfl
@[simp] theorem Ctx.next_vflg0 : t.next.vflg0 = t.vflg0 := rfl
@[simp] theorem Ctx.next_vflg1 : t.next.vflg1 = t.vflg1 := rfl
@[simp] theorem Ctx.next_fmtp : t.next.fmtp = t.fmtp := rfl
@[simp] theorem Ctx.next_space : t.next.space = t.space := rfl
@[simp] theorem Ctx.next_inh : t.next.inh = t.inh := rfl
@[simp] theorem Ctx.next_pp : t.next.pp = t.pp := rfl
@[simp] theorem Ctx.next_scnt : t.next.scnt = t.scnt := rfl
@[simp] theorem Ctx.next_cls : t.next.cls = t.cls := rfl
@[simp] theorem Ctx.next_cvd : t.next.cvd = t.cvd := rfl
@[simp] theorem Ctx.next_cvf : t.next.cvf = t.cvf := rfl
@[simp] theorem Ctx.next_qtb : t.next.qtb = t.qtb := rfl
@[simp] theorem Ctx.next_qstr : t.next.qstr = t.qstr := rfl
@[simp] theorem Ctx.next_qbat : t.next.qbat = t.qbat := rfl
@[simp] theorem Ctx.next_mxprog : t.next.mxprog = t.mxprog := rfl
@[simp] theorem Ctx.next_epc : t.next.epc = t.epc := rfl
@[simp] theorem Ctx.next_ecause : t.next.ecause = t.ecause := rfl
@[simp] theorem Ctx.next_etval : t.next.etval = t.etval := rfl
@[simp] theorem Ctx.next_ehandler : t.next.ehandler = t.ehandler := rfl
@[simp] theorem Ctx.next_latch : t.next.latch = t.latch := rfl
@[simp] theorem Ctx.next_latchOn : t.next.latchOn = false := rfl
@[simp] theorem Ctx.next_windows : t.next.windows = t.windows.map tick := rfl
@[simp] theorem Ctx.next_fences : t.next.fences = t.fences := rfl
@[simp] theorem Ctx.next_lock : t.next.lock = t.lock := rfl
@[simp] theorem Ctx.next_gen : t.next.gen = t.gen := rfl
@[simp] theorem Ctx.next_copyQ : t.next.copyQ = t.copyQ := rfl
@[simp] theorem Ctx.next_bankQ : t.next.bankQ = t.bankQ := rfl
@[simp] theorem Ctx.next_trapPend : t.next.trapPend = t.trapPend := rfl
@[simp] theorem Ctx.next_poisonDue : t.next.poisonDue = t.poisonDue := rfl
@[simp] theorem Ctx.next_poisonHeld : t.next.poisonHeld = t.poisonHeld := rfl
@[simp] theorem Ctx.next_regErr : t.next.regErr = t.regErr := rfl
@[simp] theorem Ctx.next_stallAt : t.next.stallAt = none := rfl
@[simp] theorem Ctx.next_stallCnt : t.next.stallCnt = 0 := rfl
@[simp] theorem Ctx.next_yieldFor : t.next.yieldFor = none := rfl
@[simp] theorem Ctx.next_todo : t.next.todo = none := rfl
@[simp] theorem Ctx.next_idleAt : t.next.idleAt = t.idleAt := rfl
@[simp] theorem Ctx.next_barHeld : t.next.barHeld = t.barHeld := rfl
@[simp] theorem Ctx.next_past : t.next.past = t.past := rfl
@[simp] theorem Ctx.next_stale : t.next.stale = t.stale := rfl
@[simp] theorem Ctx.next_reqLost : t.next.reqLost = t.reqLost := rfl
@[simp] theorem Ctx.next_seq : t.next.seq = t.seq := rfl

/-! ### Writing a register -/

@[simp] theorem Ctx.wx_run (d : BitVec 5) (w : Word) : (t.wx d w).run = t.run := by
  unfold Ctx.wx; split <;> rfl
@[simp] theorem Ctx.wv_run (d : BitVec 5) (w : Vec) : (t.wv d w).run = t.run := rfl
@[simp] theorem Ctx.wk_run (d : BitVec 3) (w : Mask) : (t.wk d w).run = t.run := by
  unfold Ctx.wk; split <;> rfl
@[simp] theorem Ctx.wx_pc (d : BitVec 5) (w : Word) : (t.wx d w).pc = t.pc := by
  unfold Ctx.wx; split <;> rfl
@[simp] theorem Ctx.wv_pc (d : BitVec 5) (w : Vec) : (t.wv d w).pc = t.pc := rfl
@[simp] theorem Ctx.wk_pc (d : BitVec 3) (w : Mask) : (t.wk d w).pc = t.pc := by
  unfold Ctx.wk; split <;> rfl
@[simp] theorem Ctx.wv_x (d : BitVec 5) (w : Vec) : (t.wv d w).x = t.x := rfl
@[simp] theorem Ctx.wk_x (d : BitVec 3) (w : Mask) : (t.wk d w).x = t.x := by
  unfold Ctx.wk; split <;> rfl
@[simp] theorem Ctx.wx_v (d : BitVec 5) (w : Word) : (t.wx d w).v = t.v := by
  unfold Ctx.wx; split <;> rfl
@[simp] theorem Ctx.wk_v (d : BitVec 3) (w : Mask) : (t.wk d w).v = t.v := by
  unfold Ctx.wk; split <;> rfl
@[simp] theorem Ctx.wx_k (d : BitVec 5) (w : Word) : (t.wx d w).k = t.k := by
  unfold Ctx.wx; split <;> rfl
@[simp] theorem Ctx.wv_k (d : BitVec 5) (w : Vec) : (t.wv d w).k = t.k := rfl
@[simp] theorem Ctx.wx_qm (d : BitVec 5) (w : Word) : (t.wx d w).qm = t.qm := by
  unfold Ctx.wx; split <;> rfl
@[simp] theorem Ctx.wv_qm (d : BitVec 5) (w : Vec) : (t.wv d w).qm = t.qm := rfl
@[simp] theorem Ctx.wk_qm (d : BitVec 3) (w : Mask) : (t.wk d w).qm = t.qm := by
  unfold Ctx.wk; split <;> rfl
@[simp] theorem Ctx.wx_qd (d : BitVec 5) (w : Word) : (t.wx d w).qd = t.qd := by
  unfold Ctx.wx; split <;> rfl
@[simp] theorem Ctx.wv_qd (d : BitVec 5) (w : Vec) : (t.wv d w).qd = t.qd := rfl
@[simp] theorem Ctx.wk_qd (d : BitVec 3) (w : Mask) : (t.wk d w).qd = t.qd := by
  unfold Ctx.wk; split <;> rfl
@[simp] theorem Ctx.wx_tid (d : BitVec 5) (w : Word) : (t.wx d w).tid = t.tid := by
  unfold Ctx.wx; split <;> rfl
@[simp] theorem Ctx.wv_tid (d : BitVec 5) (w : Vec) : (t.wv d w).tid = t.tid := rfl
@[simp] theorem Ctx.wk_tid (d : BitVec 3) (w : Mask) : (t.wk d w).tid = t.tid := by
  unfold Ctx.wk; split <;> rfl
@[simp] theorem Ctx.wx_lid (d : BitVec 5) (w : Word) : (t.wx d w).lid = t.lid := by
  unfold Ctx.wx; split <;> rfl
@[simp] theorem Ctx.wv_lid (d : BitVec 5) (w : Vec) : (t.wv d w).lid = t.lid := rfl
@[simp] theorem Ctx.wk_lid (d : BitVec 3) (w : Mask) : (t.wk d w).lid = t.lid := by
  unfold Ctx.wk; split <;> rfl
@[simp] theorem Ctx.wx_spawnno (d : BitVec 5) (w : Word) : (t.wx d w).spawnno = t.spawnno := by
  unfold Ctx.wx; split <;> rfl
@[simp] theorem Ctx.wv_spawnno (d : BitVec 5) (w : Vec) : (t.wv d w).spawnno = t.spawnno := rfl
@[simp] theorem Ctx.wk_spawnno (d : BitVec 3) (w : Mask) : (t.wk d w).spawnno = t.spawnno := by
  unfold Ctx.wk; split <;> rfl
@[simp] theorem Ctx.wx_rmode (d : BitVec 5) (w : Word) : (t.wx d w).rmode = t.rmode := by
  unfold Ctx.wx; split <;> rfl
@[simp] theorem Ctx.wv_rmode (d : BitVec 5) (w : Vec) : (t.wv d w).rmode = t.rmode := rfl
@[simp] theorem Ctx.wk_rmode (d : BitVec 3) (w : Mask) : (t.wk d w).rmode = t.rmode := by
  unfold Ctx.wk; split <;> rfl
@[simp] theorem Ctx.wx_vflg0 (d : BitVec 5) (w : Word) : (t.wx d w).vflg0 = t.vflg0 := by
  unfold Ctx.wx; split <;> rfl
@[simp] theorem Ctx.wv_vflg0 (d : BitVec 5) (w : Vec) : (t.wv d w).vflg0 = t.vflg0 := rfl
@[simp] theorem Ctx.wk_vflg0 (d : BitVec 3) (w : Mask) : (t.wk d w).vflg0 = t.vflg0 := by
  unfold Ctx.wk; split <;> rfl
@[simp] theorem Ctx.wx_vflg1 (d : BitVec 5) (w : Word) : (t.wx d w).vflg1 = t.vflg1 := by
  unfold Ctx.wx; split <;> rfl
@[simp] theorem Ctx.wv_vflg1 (d : BitVec 5) (w : Vec) : (t.wv d w).vflg1 = t.vflg1 := rfl
@[simp] theorem Ctx.wk_vflg1 (d : BitVec 3) (w : Mask) : (t.wk d w).vflg1 = t.vflg1 := by
  unfold Ctx.wk; split <;> rfl
@[simp] theorem Ctx.wx_fmtp (d : BitVec 5) (w : Word) : (t.wx d w).fmtp = t.fmtp := by
  unfold Ctx.wx; split <;> rfl
@[simp] theorem Ctx.wv_fmtp (d : BitVec 5) (w : Vec) : (t.wv d w).fmtp = t.fmtp := rfl
@[simp] theorem Ctx.wk_fmtp (d : BitVec 3) (w : Mask) : (t.wk d w).fmtp = t.fmtp := by
  unfold Ctx.wk; split <;> rfl
@[simp] theorem Ctx.wx_space (d : BitVec 5) (w : Word) : (t.wx d w).space = t.space := by
  unfold Ctx.wx; split <;> rfl
@[simp] theorem Ctx.wv_space (d : BitVec 5) (w : Vec) : (t.wv d w).space = t.space := rfl
@[simp] theorem Ctx.wk_space (d : BitVec 3) (w : Mask) : (t.wk d w).space = t.space := by
  unfold Ctx.wk; split <;> rfl
@[simp] theorem Ctx.wx_inh (d : BitVec 5) (w : Word) : (t.wx d w).inh = t.inh := by
  unfold Ctx.wx; split <;> rfl
@[simp] theorem Ctx.wv_inh (d : BitVec 5) (w : Vec) : (t.wv d w).inh = t.inh := rfl
@[simp] theorem Ctx.wk_inh (d : BitVec 3) (w : Mask) : (t.wk d w).inh = t.inh := by
  unfold Ctx.wk; split <;> rfl
@[simp] theorem Ctx.wx_pp (d : BitVec 5) (w : Word) : (t.wx d w).pp = t.pp := by
  unfold Ctx.wx; split <;> rfl
@[simp] theorem Ctx.wv_pp (d : BitVec 5) (w : Vec) : (t.wv d w).pp = t.pp := rfl
@[simp] theorem Ctx.wk_pp (d : BitVec 3) (w : Mask) : (t.wk d w).pp = t.pp := by
  unfold Ctx.wk; split <;> rfl
@[simp] theorem Ctx.wx_scnt (d : BitVec 5) (w : Word) : (t.wx d w).scnt = t.scnt := by
  unfold Ctx.wx; split <;> rfl
@[simp] theorem Ctx.wv_scnt (d : BitVec 5) (w : Vec) : (t.wv d w).scnt = t.scnt := rfl
@[simp] theorem Ctx.wk_scnt (d : BitVec 3) (w : Mask) : (t.wk d w).scnt = t.scnt := by
  unfold Ctx.wk; split <;> rfl
@[simp] theorem Ctx.wx_cls (d : BitVec 5) (w : Word) : (t.wx d w).cls = t.cls := by
  unfold Ctx.wx; split <;> rfl
@[simp] theorem Ctx.wv_cls (d : BitVec 5) (w : Vec) : (t.wv d w).cls = t.cls := rfl
@[simp] theorem Ctx.wk_cls (d : BitVec 3) (w : Mask) : (t.wk d w).cls = t.cls := by
  unfold Ctx.wk; split <;> rfl
@[simp] theorem Ctx.wx_cvd (d : BitVec 5) (w : Word) : (t.wx d w).cvd = t.cvd := by
  unfold Ctx.wx; split <;> rfl
@[simp] theorem Ctx.wv_cvd (d : BitVec 5) (w : Vec) : (t.wv d w).cvd = t.cvd := rfl
@[simp] theorem Ctx.wk_cvd (d : BitVec 3) (w : Mask) : (t.wk d w).cvd = t.cvd := by
  unfold Ctx.wk; split <;> rfl
@[simp] theorem Ctx.wx_cvf (d : BitVec 5) (w : Word) : (t.wx d w).cvf = t.cvf := by
  unfold Ctx.wx; split <;> rfl
@[simp] theorem Ctx.wv_cvf (d : BitVec 5) (w : Vec) : (t.wv d w).cvf = t.cvf := rfl
@[simp] theorem Ctx.wk_cvf (d : BitVec 3) (w : Mask) : (t.wk d w).cvf = t.cvf := by
  unfold Ctx.wk; split <;> rfl
@[simp] theorem Ctx.wx_qtb (d : BitVec 5) (w : Word) : (t.wx d w).qtb = t.qtb := by
  unfold Ctx.wx; split <;> rfl
@[simp] theorem Ctx.wv_qtb (d : BitVec 5) (w : Vec) : (t.wv d w).qtb = t.qtb := rfl
@[simp] theorem Ctx.wk_qtb (d : BitVec 3) (w : Mask) : (t.wk d w).qtb = t.qtb := by
  unfold Ctx.wk; split <;> rfl
@[simp] theorem Ctx.wx_qstr (d : BitVec 5) (w : Word) : (t.wx d w).qstr = t.qstr := by
  unfold Ctx.wx; split <;> rfl
@[simp] theorem Ctx.wv_qstr (d : BitVec 5) (w : Vec) : (t.wv d w).qstr = t.qstr := rfl
@[simp] theorem Ctx.wk_qstr (d : BitVec 3) (w : Mask) : (t.wk d w).qstr = t.qstr := by
  unfold Ctx.wk; split <;> rfl
@[simp] theorem Ctx.wx_qbat (d : BitVec 5) (w : Word) : (t.wx d w).qbat = t.qbat := by
  unfold Ctx.wx; split <;> rfl
@[simp] theorem Ctx.wv_qbat (d : BitVec 5) (w : Vec) : (t.wv d w).qbat = t.qbat := rfl
@[simp] theorem Ctx.wk_qbat (d : BitVec 3) (w : Mask) : (t.wk d w).qbat = t.qbat := by
  unfold Ctx.wk; split <;> rfl
@[simp] theorem Ctx.wx_mxprog (d : BitVec 5) (w : Word) : (t.wx d w).mxprog = t.mxprog := by
  unfold Ctx.wx; split <;> rfl
@[simp] theorem Ctx.wv_mxprog (d : BitVec 5) (w : Vec) : (t.wv d w).mxprog = t.mxprog := rfl
@[simp] theorem Ctx.wk_mxprog (d : BitVec 3) (w : Mask) : (t.wk d w).mxprog = t.mxprog := by
  unfold Ctx.wk; split <;> rfl
@[simp] theorem Ctx.wx_epc (d : BitVec 5) (w : Word) : (t.wx d w).epc = t.epc := by
  unfold Ctx.wx; split <;> rfl
@[simp] theorem Ctx.wv_epc (d : BitVec 5) (w : Vec) : (t.wv d w).epc = t.epc := rfl
@[simp] theorem Ctx.wk_epc (d : BitVec 3) (w : Mask) : (t.wk d w).epc = t.epc := by
  unfold Ctx.wk; split <;> rfl
@[simp] theorem Ctx.wx_ecause (d : BitVec 5) (w : Word) : (t.wx d w).ecause = t.ecause := by
  unfold Ctx.wx; split <;> rfl
@[simp] theorem Ctx.wv_ecause (d : BitVec 5) (w : Vec) : (t.wv d w).ecause = t.ecause := rfl
@[simp] theorem Ctx.wk_ecause (d : BitVec 3) (w : Mask) : (t.wk d w).ecause = t.ecause := by
  unfold Ctx.wk; split <;> rfl
@[simp] theorem Ctx.wx_etval (d : BitVec 5) (w : Word) : (t.wx d w).etval = t.etval := by
  unfold Ctx.wx; split <;> rfl
@[simp] theorem Ctx.wv_etval (d : BitVec 5) (w : Vec) : (t.wv d w).etval = t.etval := rfl
@[simp] theorem Ctx.wk_etval (d : BitVec 3) (w : Mask) : (t.wk d w).etval = t.etval := by
  unfold Ctx.wk; split <;> rfl
@[simp] theorem Ctx.wx_ehandler (d : BitVec 5) (w : Word) : (t.wx d w).ehandler = t.ehandler := by
  unfold Ctx.wx; split <;> rfl
@[simp] theorem Ctx.wv_ehandler (d : BitVec 5) (w : Vec) : (t.wv d w).ehandler = t.ehandler := rfl
@[simp] theorem Ctx.wk_ehandler (d : BitVec 3) (w : Mask) : (t.wk d w).ehandler = t.ehandler := by
  unfold Ctx.wk; split <;> rfl
@[simp] theorem Ctx.wx_latch (d : BitVec 5) (w : Word) : (t.wx d w).latch = t.latch := by
  unfold Ctx.wx; split <;> rfl
@[simp] theorem Ctx.wv_latch (d : BitVec 5) (w : Vec) : (t.wv d w).latch = t.latch := rfl
@[simp] theorem Ctx.wk_latch (d : BitVec 3) (w : Mask) : (t.wk d w).latch = t.latch := by
  unfold Ctx.wk; split <;> rfl
@[simp] theorem Ctx.wx_latchOn (d : BitVec 5) (w : Word) : (t.wx d w).latchOn = t.latchOn := by
  unfold Ctx.wx; split <;> rfl
@[simp] theorem Ctx.wv_latchOn (d : BitVec 5) (w : Vec) : (t.wv d w).latchOn = t.latchOn := rfl
@[simp] theorem Ctx.wk_latchOn (d : BitVec 3) (w : Mask) : (t.wk d w).latchOn = t.latchOn := by
  unfold Ctx.wk; split <;> rfl
@[simp] theorem Ctx.wx_windows (d : BitVec 5) (w : Word) : (t.wx d w).windows = t.windows := by
  unfold Ctx.wx; split <;> rfl
@[simp] theorem Ctx.wv_windows (d : BitVec 5) (w : Vec) : (t.wv d w).windows = t.windows := rfl
@[simp] theorem Ctx.wk_windows (d : BitVec 3) (w : Mask) : (t.wk d w).windows = t.windows := by
  unfold Ctx.wk; split <;> rfl
@[simp] theorem Ctx.wx_fences (d : BitVec 5) (w : Word) : (t.wx d w).fences = t.fences := by
  unfold Ctx.wx; split <;> rfl
@[simp] theorem Ctx.wv_fences (d : BitVec 5) (w : Vec) : (t.wv d w).fences = t.fences := rfl
@[simp] theorem Ctx.wk_fences (d : BitVec 3) (w : Mask) : (t.wk d w).fences = t.fences := by
  unfold Ctx.wk; split <;> rfl
@[simp] theorem Ctx.wx_lock (d : BitVec 5) (w : Word) : (t.wx d w).lock = t.lock := by
  unfold Ctx.wx; split <;> rfl
@[simp] theorem Ctx.wv_lock (d : BitVec 5) (w : Vec) : (t.wv d w).lock = t.lock := rfl
@[simp] theorem Ctx.wk_lock (d : BitVec 3) (w : Mask) : (t.wk d w).lock = t.lock := by
  unfold Ctx.wk; split <;> rfl
@[simp] theorem Ctx.wx_gen (d : BitVec 5) (w : Word) : (t.wx d w).gen = t.gen := by
  unfold Ctx.wx; split <;> rfl
@[simp] theorem Ctx.wv_gen (d : BitVec 5) (w : Vec) : (t.wv d w).gen = t.gen := rfl
@[simp] theorem Ctx.wk_gen (d : BitVec 3) (w : Mask) : (t.wk d w).gen = t.gen := by
  unfold Ctx.wk; split <;> rfl
@[simp] theorem Ctx.wx_copyQ (d : BitVec 5) (w : Word) : (t.wx d w).copyQ = t.copyQ := by
  unfold Ctx.wx; split <;> rfl
@[simp] theorem Ctx.wv_copyQ (d : BitVec 5) (w : Vec) : (t.wv d w).copyQ = t.copyQ := rfl
@[simp] theorem Ctx.wk_copyQ (d : BitVec 3) (w : Mask) : (t.wk d w).copyQ = t.copyQ := by
  unfold Ctx.wk; split <;> rfl
@[simp] theorem Ctx.wx_bankQ (d : BitVec 5) (w : Word) : (t.wx d w).bankQ = t.bankQ := by
  unfold Ctx.wx; split <;> rfl
@[simp] theorem Ctx.wv_bankQ (d : BitVec 5) (w : Vec) : (t.wv d w).bankQ = t.bankQ := rfl
@[simp] theorem Ctx.wk_bankQ (d : BitVec 3) (w : Mask) : (t.wk d w).bankQ = t.bankQ := by
  unfold Ctx.wk; split <;> rfl
@[simp] theorem Ctx.wx_trapPend (d : BitVec 5) (w : Word) : (t.wx d w).trapPend = t.trapPend := by
  unfold Ctx.wx; split <;> rfl
@[simp] theorem Ctx.wv_trapPend (d : BitVec 5) (w : Vec) : (t.wv d w).trapPend = t.trapPend := rfl
@[simp] theorem Ctx.wk_trapPend (d : BitVec 3) (w : Mask) : (t.wk d w).trapPend = t.trapPend := by
  unfold Ctx.wk; split <;> rfl
@[simp] theorem Ctx.wx_poisonDue (d : BitVec 5) (w : Word) : (t.wx d w).poisonDue = t.poisonDue := by
  unfold Ctx.wx; split <;> rfl
@[simp] theorem Ctx.wv_poisonDue (d : BitVec 5) (w : Vec) : (t.wv d w).poisonDue = t.poisonDue := rfl
@[simp] theorem Ctx.wk_poisonDue (d : BitVec 3) (w : Mask) : (t.wk d w).poisonDue = t.poisonDue := by
  unfold Ctx.wk; split <;> rfl
@[simp] theorem Ctx.wx_poisonHeld (d : BitVec 5) (w : Word) : (t.wx d w).poisonHeld = t.poisonHeld := by
  unfold Ctx.wx; split <;> rfl
@[simp] theorem Ctx.wv_poisonHeld (d : BitVec 5) (w : Vec) : (t.wv d w).poisonHeld = t.poisonHeld := rfl
@[simp] theorem Ctx.wk_poisonHeld (d : BitVec 3) (w : Mask) : (t.wk d w).poisonHeld = t.poisonHeld := by
  unfold Ctx.wk; split <;> rfl
@[simp] theorem Ctx.wx_stallAt (d : BitVec 5) (w : Word) : (t.wx d w).stallAt = t.stallAt := by
  unfold Ctx.wx; split <;> rfl
@[simp] theorem Ctx.wv_stallAt (d : BitVec 5) (w : Vec) : (t.wv d w).stallAt = t.stallAt := rfl
@[simp] theorem Ctx.wk_stallAt (d : BitVec 3) (w : Mask) : (t.wk d w).stallAt = t.stallAt := by
  unfold Ctx.wk; split <;> rfl
@[simp] theorem Ctx.wx_stallCnt (d : BitVec 5) (w : Word) : (t.wx d w).stallCnt = t.stallCnt := by
  unfold Ctx.wx; split <;> rfl
@[simp] theorem Ctx.wv_stallCnt (d : BitVec 5) (w : Vec) : (t.wv d w).stallCnt = t.stallCnt := rfl
@[simp] theorem Ctx.wk_stallCnt (d : BitVec 3) (w : Mask) : (t.wk d w).stallCnt = t.stallCnt := by
  unfold Ctx.wk; split <;> rfl
@[simp] theorem Ctx.wx_yieldFor (d : BitVec 5) (w : Word) : (t.wx d w).yieldFor = t.yieldFor := by
  unfold Ctx.wx; split <;> rfl
@[simp] theorem Ctx.wv_yieldFor (d : BitVec 5) (w : Vec) : (t.wv d w).yieldFor = t.yieldFor := rfl
@[simp] theorem Ctx.wk_yieldFor (d : BitVec 3) (w : Mask) : (t.wk d w).yieldFor = t.yieldFor := by
  unfold Ctx.wk; split <;> rfl
@[simp] theorem Ctx.wx_todo (d : BitVec 5) (w : Word) : (t.wx d w).todo = t.todo := by
  unfold Ctx.wx; split <;> rfl
@[simp] theorem Ctx.wv_todo (d : BitVec 5) (w : Vec) : (t.wv d w).todo = t.todo := rfl
@[simp] theorem Ctx.wk_todo (d : BitVec 3) (w : Mask) : (t.wk d w).todo = t.todo := by
  unfold Ctx.wk; split <;> rfl
@[simp] theorem Ctx.wx_idleAt (d : BitVec 5) (w : Word) : (t.wx d w).idleAt = t.idleAt := by
  unfold Ctx.wx; split <;> rfl
@[simp] theorem Ctx.wv_idleAt (d : BitVec 5) (w : Vec) : (t.wv d w).idleAt = t.idleAt := rfl
@[simp] theorem Ctx.wk_idleAt (d : BitVec 3) (w : Mask) : (t.wk d w).idleAt = t.idleAt := by
  unfold Ctx.wk; split <;> rfl
@[simp] theorem Ctx.wx_barHeld (d : BitVec 5) (w : Word) : (t.wx d w).barHeld = t.barHeld := by
  unfold Ctx.wx; split <;> rfl
@[simp] theorem Ctx.wx_past (d : BitVec 5) (w : Word) : (t.wx d w).past = t.past := by
  unfold Ctx.wx; split <;> rfl
@[simp] theorem Ctx.wx_stale (d : BitVec 5) (w : Word) : (t.wx d w).stale = t.stale := by
  unfold Ctx.wx; split <;> rfl
@[simp] theorem Ctx.wx_reqLost (d : BitVec 5) (w : Word) : (t.wx d w).reqLost = t.reqLost := by
  unfold Ctx.wx; split <;> rfl
@[simp] theorem Ctx.wv_barHeld (d : BitVec 5) (w : Vec) : (t.wv d w).barHeld = t.barHeld := rfl
@[simp] theorem Ctx.wv_past (d : BitVec 5) (w : Vec) : (t.wv d w).past = t.past := rfl
@[simp] theorem Ctx.wv_stale (d : BitVec 5) (w : Vec) : (t.wv d w).stale = t.stale := rfl
@[simp] theorem Ctx.wv_reqLost (d : BitVec 5) (w : Vec) : (t.wv d w).reqLost = t.reqLost := rfl
@[simp] theorem Ctx.wk_barHeld (d : BitVec 3) (w : Mask) : (t.wk d w).barHeld = t.barHeld := by
  unfold Ctx.wk; split <;> rfl
@[simp] theorem Ctx.wk_past (d : BitVec 3) (w : Mask) : (t.wk d w).past = t.past := by
  unfold Ctx.wk; split <;> rfl
@[simp] theorem Ctx.wk_stale (d : BitVec 3) (w : Mask) : (t.wk d w).stale = t.stale := by
  unfold Ctx.wk; split <;> rfl
@[simp] theorem Ctx.wk_reqLost (d : BitVec 3) (w : Mask) : (t.wk d w).reqLost = t.reqLost := by
  unfold Ctx.wk; split <;> rfl
@[simp] theorem Ctx.wx_seq (d : BitVec 5) (w : Word) : (t.wx d w).seq = t.seq := by
  unfold Ctx.wx; split <;> rfl
@[simp] theorem Ctx.wv_seq (d : BitVec 5) (w : Vec) : (t.wv d w).seq = t.seq := rfl
@[simp] theorem Ctx.wk_seq (d : BitVec 3) (w : Mask) : (t.wk d w).seq = t.seq := by
  unfold Ctx.wk; split <;> rfl

/-! ### Reading a register -/

/-- x0 reads zero whatever was written (02 R16). -/
@[simp] theorem Ctx.rx_zero : t.rx 0 = 0 := by
  simp [Ctx.rx]

/-- k0 reads all ones. -/
@[simp] theorem Ctx.rk_zero : t.rk 0 = 0xFFFF := by
  simp [Ctx.rk]

/-- A read after a write: the value, unless the register is x0; the other registers as before. -/
theorem Ctx.rx_wx (d r : BitVec 5) (w : Word) : (t.wx d w).rx r = if r = d ∧ r ≠ 0 then w else t.rx r := by
  unfold Ctx.wx
  by_cases hd : d = 0
  · subst hd
    by_cases hr : r = 0 <;> simp [hr]
  · by_cases hr : r = 0
    · simp [hr, Ctx.rx]
    · have h : r.toNat = d.toNat ↔ r = d := BitVec.toNat_inj
      rw [if_neg hd]
      simp only [Ctx.rx, if_false, mget_mset, h, ne_eq, hr, not_false_eq_true, and_true]

theorem Ctx.rv_wv (d r : BitVec 5) (w : Vec) : (t.wv d w).rv r = if r = d then w else t.rv r := by
  simp [Ctx.wv, Ctx.rv, mget_mset, ← BitVec.toNat_inj]

theorem Ctx.rk_wk (d r : BitVec 3) (w : Mask) : (t.wk d w).rk r = if r = d ∧ r ≠ 0 then w else t.rk r := by
  unfold Ctx.wk
  by_cases hd : d = 0
  · subst hd
    by_cases hr : r = 0 <;> simp [hr]
  · by_cases hr : r = 0
    · simp [hr, Ctx.rk]
    · have h : r.toNat = d.toNat ↔ r = d := BitVec.toNat_inj
      rw [if_neg hd]
      simp only [Ctx.rk, if_false, mget_mset, h, ne_eq, hr, not_false_eq_true, and_true]

@[simp] theorem Ctx.rx_retire (p : Word) (r : BitVec 5) : (t.retire p).rx r = t.rx r := rfl
@[simp] theorem Ctx.rv_retire (p : Word) (r : BitVec 5) : (t.retire p).rv r = t.rv r := rfl
@[simp] theorem Ctx.rk_retire (p : Word) (r : BitVec 3) : (t.retire p).rk r = t.rk r := rfl
@[simp] theorem Ctx.rx_next (r : BitVec 5) : t.next.rx r = t.rx r := rfl
@[simp] theorem Ctx.rv_next (r : BitVec 5) : t.next.rv r = t.rv r := rfl
@[simp] theorem Ctx.rk_next (r : BitVec 3) : t.next.rk r = t.rk r := rfl
@[simp] theorem Ctx.rv_wx (d : BitVec 5) (w : Word) (r : BitVec 5) : (t.wx d w).rv r = t.rv r := by
  simp [Ctx.rv]
@[simp] theorem Ctx.rk_wx (d : BitVec 5) (w : Word) (r : BitVec 3) : (t.wx d w).rk r = t.rk r := by
  simp [Ctx.rk]
@[simp] theorem Ctx.rx_wv (d : BitVec 5) (w : Vec) (r : BitVec 5) : (t.wv d w).rx r = t.rx r := rfl
@[simp] theorem Ctx.rk_wv (d : BitVec 5) (w : Vec) (r : BitVec 3) : (t.wv d w).rk r = t.rk r := rfl
@[simp] theorem Ctx.rx_wk (d : BitVec 3) (w : Mask) (r : BitVec 5) : (t.wk d w).rx r = t.rx r := by
  simp [Ctx.rx]
@[simp] theorem Ctx.rv_wk (d : BitVec 3) (w : Mask) (r : BitVec 5) : (t.wk d w).rv r = t.rv r := by
  simp [Ctx.rv]

/-! ### Reading a core or a context -/

theorem State.core_setCore (n m : Nat) : (s.setCore n c).core m = if m = n then c else s.core m := by
  simp [State.core, State.setCore, mget_mset]

@[simp] theorem State.core_setCore_same (n : Nat) : (s.setCore n c).core n = c := by
  simp [State.core_setCore]

theorem State.core_setCore_ne {n m : Nat} (h : m ≠ n) : (s.setCore n c).core m = s.core m := by
  simp [State.core_setCore, h]

theorem Core.ctx_setCtx (i j : Nat) : (c.setCtx i t).ctx j = if j = i then t else c.ctx j := by
  simp [Core.ctx, Core.setCtx, mget_mset]

@[simp] theorem Core.ctx_setCtx_same (i : Nat) : (c.setCtx i t).ctx i = t := by
  simp [Core.ctx_setCtx]

theorem State.ctx_setCtx (n i m j : Nat) : (s.setCtx n i t).ctx m j = if m = n ∧ j = i then t else s.ctx m j := by
  simp only [State.ctx, State.setCtx, State.core_setCore]
  by_cases hm : m = n
  · subst hm; simp [Core.ctx_setCtx]
  · simp [hm]

@[simp] theorem State.ctx_setCtx_same (n i : Nat) : (s.setCtx n i t).ctx n i = t := by
  simp [State.ctx_setCtx]

@[simp] theorem State.me_putMe : (s.putMe t).me = t := by
  simp [State.me, State.putMe]

@[simp] theorem State.myCore_putCore : (s.putCore c).myCore = c := by
  simp [State.myCore, State.putCore]

end Sys2Proof.Machine
end

