-- ==== Sys2Proof/Laws/Frames.lean ====
section
/-! SUPPORT. What the shared operations of instructions do, in the terms of the statements: one lemma each, which says all of it. -/

section
open Sys2Proof Sys2Proof.Machine Sys2Proof.Claims

namespace Sys2Proof.Laws

theorem plain_off {s : State} {k : Out} (h : s.me.latchOn = false) : s.plain k = k := by
  unfold State.plain; rw [h]; simp

theorem onlyCores_setCore (s : State) (n : Nat) (c : Core) : OnlyCores s (s.setCore n c) := ⟨rfl, fun _ => rfl⟩

theorem onlyCore_setCore (s : State) (n : Nat) (c : Core) : OnlyCore s (s.setCore n c) n :=
  ⟨onlyCores_setCore .., fun _ hm => State.core_setCore_ne _ _ hm⟩

theorem onlyCtx_setCtx (s : State) (n i : Nat) (u : Ctx) : OnlyCtx s (s.setCtx n i u) n i := by
  refine ⟨onlyCore_setCore .., ?_, fun j hj => ?_⟩
  · simp [State.setCtx, Core.setCtx]
  · simp [State.ctx_setCtx, hj]

theorem onlyMe (s : State) (u : Ctx) : OnlyMe s (s.putMe u) := ⟨rfl, onlyCtx_setCtx ..⟩

theorem xframe (s : State) (p : Word) (d : BitVec 5) (v : Word) : XFrame s (s.putMe ((s.me.wx d v).retire p)) p := by
  refine ⟨onlyMe _ _, ?_⟩
  rw [State.me_putMe]
  unfold Ctx.wx Ctx.retire issued
  split <;> rfl

theorem finish_eq (s : State) (u : Ctx) : s.finish u = .next (s.putMe (u.retire (u.pc + 4))) := rfl

theorem wroteX (s : State) (d : BitVec 5) (v : Word) : WroteX s (s.putMe ((s.me.wx d v).retire (s.me.pc + 4))) d v := by
  refine ⟨xframe _ _ _ _, fun r => ?_⟩
  rw [State.me_putMe]; simp [Ctx.rx_wx]

theorem wroteX' (s : State) (d : BitVec 5) (v : Word) : WroteX s (s.putMe (s.me.wx d v).next) d v := by
  have : (s.me.wx d v).next = (s.me.wx d v).retire (s.me.pc + 4) := by simp [Ctx.next]
  rw [this]; exact wroteX s d v

theorem wroteV (s : State) (d : BitVec 5) (v : Vec) : WroteV s (s.putMe (s.me.wv d v).next) d v := by
  refine ⟨onlyMe _ _, ?_, fun r => ?_⟩
  · rw [State.me_putMe]; rfl
  · rw [State.me_putMe]; simp [Ctx.rv_wv]

theorem wroteK (s : State) (d : BitVec 3) (v : Mask) : WroteK s (s.putMe (s.me.wk d v).next) d v := by
  refine ⟨onlyMe _ _, ?_, fun r => ?_⟩
  · rw [State.me_putMe]; unfold Ctx.wk Ctx.next Ctx.retire issued; split <;> rfl
  · rw [State.me_putMe]; simp [Ctx.rk_wk]

theorem ends_alu {i : Instr} {s : State} {d : BitVec 5} {v : Word} (h : s.me.latchOn = false) (e : exec i s = s.alu d v) :
    Ends i s (WroteX s · d v) := by
  refine ⟨_, ?_, wroteX s d v⟩
  rw [e, State.alu, plain_off h, finish_eq]; simp

theorem ends_such {i : Instr} {s : State} {d : BitVec 5} {v : Word} {P : Word → Prop} (h : s.me.latchOn = false) (e : exec i s = s.alu d v) (hp : P v) :
    Ends i s (WroteXSuch s · d P) := by
  obtain ⟨t, h1, h2⟩ := ends_alu h e
  exact ⟨t, h1, v, h2, hp⟩

theorem openWin_eq (s : State) (d : Dest) (m : Mask) (l : BitVec 4) (p : Pend) (r : Option Res) :
    s.openWin s.me d m l p r = s.putMe (opened s d m l p r) := rfl

theorem openedOk (s : State) (d : Dest) (m : Mask) (l : BitVec 4) (p : Pend) (r : Option Res) :
    Opened s (s.openWin s.me d m l p r) d m l p r := by
  rw [openWin_eq]; exact ⟨onlyMe .., by rw [State.me_putMe]⟩
theorem touch_form (s : State) (n : Nat) (sp : BitVec 12) (va : Word) :
    s.touchTlb n sp va = s ∨ ∃ l, s.touchTlb n sp va = s.setCore n { s.core n with tlb := l } := by
  unfold State.touchTlb; split
  · exact .inl rfl
  · exact .inr ⟨_, rfl⟩

theorem touch_cur (s : State) (n : Nat) (sp : BitVec 12) (va : Word) : (s.touchTlb n sp va).cur = s.cur := by
  rcases touch_form s n sp va with h | ⟨l, h⟩ <;> rw [h] <;> rfl

theorem touch_core (s : State) (n : Nat) (sp : BitVec 12) (va : Word) : ∃ l, (s.touchTlb n sp va).core n = { s.core n with tlb := l } := by
  rcases touch_form s n sp va with h | ⟨l, h⟩
  · rw [h]; exact ⟨_, rfl⟩
  · rw [h, State.core_setCore_same]; exact ⟨_, rfl⟩

theorem touch_only (s : State) (n : Nat) (sp : BitVec 12) (va : Word) : OnlyCore s (s.touchTlb n sp va) n := by
  rcases touch_form s n sp va with h | ⟨l, h⟩
  · rw [h]; exact ⟨⟨rfl, fun _ => rfl⟩, fun _ _ => rfl⟩
  · rw [h]; exact onlyCore_setCore ..

theorem touch_ctx (s : State) (n : Nat) (sp : BitVec 12) (va : Word) (m i : Nat) : (s.touchTlb n sp va).ctx m i = s.ctx m i := by
  by_cases hm : m = n
  · subst hm; obtain ⟨l, h⟩ := touch_core s m sp va; simp only [State.ctx, h, Core.ctx]
  · simp only [State.ctx, (touch_only s n sp va).2 m hm]

theorem touch_me (s : State) (n : Nat) (sp : BitVec 12) (va : Word) : (s.touchTlb n sp va).me = s.me := by
  simp only [State.me, touch_cur, touch_ctx]

theorem touch_myCore (s : State) (sp : BitVec 12) (va : Word) : ∃ l, (s.touchTlb s.cur.core sp va).myCore = { s.myCore with tlb := l } := by
  simp only [State.myCore, touch_cur]; exact touch_core ..

theorem OnlyCores.trans {s t u : State} (h : OnlyCores s t) (g : OnlyCores t u) : OnlyCores s u := by
  refine ⟨?_, fun a => (g.2 a).trans (h.2 a)⟩
  have h1 := h.1; have g1 := g.1
  have : ({ u with cores := s.cores } : State) = { ({ u with cores := t.cores } : State) with cores := s.cores } := rfl
  rw [this, g1, h1]

theorem OnlyCore.trans {s t u : State} {n : Nat} (h : OnlyCore s t n) (g : OnlyCore t u n) : OnlyCore s u n :=
  ⟨OnlyCores.trans h.1 g.1, fun m hm => (g.2 m hm).trans (h.2 m hm)⟩

/-- after touching, set core & context -/
theorem accessed_put (s : State) (va : Word) (u : Ctx) :
    Accessed s ((s.touchTlb s.cur.core s.me.space va).putMe u) va := by
  have hc := touch_cur s s.cur.core s.me.space va
  refine ⟨hc, ?_, ?_, ?_, ?_⟩
  · refine OnlyCore.trans (touch_only s s.cur.core s.me.space va) ?_
    unfold State.putMe State.setCtx; rw [hc]; exact onlyCore_setCore ..
  · unfold State.putMe State.setCtx; rw [hc, State.core_setCore_same]; rfl
  · unfold State.putMe State.setCtx; rw [hc, State.core_setCore_same]
    obtain ⟨l, h⟩ := touch_core s s.cur.core s.me.space va
    rw [h]; rfl
  · intro j hj; unfold State.putMe; rw [hc, State.ctx_setCtx]; simp only [hj, and_false, if_false]; exact touch_ctx ..

theorem withAcc_pass {s : State} {kind size : Nat} {va : Word} {ho : Bool} {acc : Acc} {k : Acc → State → Out} (h : Passes s kind size va ho acc) :
    s.withAcc kind size va ho k = k acc (s.touchTlb s.cur.core s.me.space va) := by
  unfold State.withAcc; rw [h.1, h.2.1]; simp [h.2.2]

theorem withAcc_fault {s : State} {kind size : Nat} {va : Word} {ho : Bool} {c : Nat} {k : Acc → State → Out} (h : s.me.acquiring = false)
    (h2 : s.resolve s.cur.core s.me.space va kind size size ho = .fault c) : s.withAcc kind size va ho k = .next (s.trapMe c kind va) := by
  unfold State.withAcc; rw [h, h2]; rfl

theorem withAcc_miss {s : State} {kind size : Nat} {va : Word} {ho : Bool} {k : Acc → State → Out} (h : s.me.acquiring = false)
    (h2 : s.resolve s.cur.core s.me.space va kind size size ho = .miss) : s.withAcc kind size va ho k = .next (s.miss s.cur.core s.cur.ctx va kind) := by
  unfold State.withAcc; rw [h, h2]; rfl

theorem ea_eq (s : State) (a : BitVec 5) (o : BitVec 12) (size : Nat) : s.ea a o size = effAddr s a o size := by
  unfold State.ea effAddr
  rw [← BitVec.toInt_inj, BitVec.toInt_add, BitVec.toInt_mul, BitVec.toInt_ofInt]
  have hn : (BitVec.ofNat 64 size).toInt = (size : Int).bmod (2^64) := BitVec.toInt_ofNat' ..
  rw [hn]
  have hi : (o.signExtend 64).toInt = o.toInt := BitVec.toInt_signExtend_of_le (by decide)
  rw [hi]
  simp [Int.add_bmod_bmod, Int.mul_bmod_bmod]

theorem load_issued (s : State) (va : Word) (d : Dest) (m : Mask) (l : BitVec 4) (p : Pend) :
    LoadIssued s ((s.touchTlb s.cur.core s.me.space va).openWin (s.touchTlb s.cur.core s.me.space va).me d m l p none) va d m l p := by
  obtain ⟨tl, ht⟩ := touch_myCore s s.me.space va
  have hc := touch_cur s s.cur.core s.me.space va
  have e : (s.touchTlb s.cur.core s.me.space va).openWin (s.touchTlb s.cur.core s.me.space va).me d m l p none
     = (s.touchTlb s.cur.core s.me.space va).putMe (opened s d m l p none) := by
    unfold State.openWin; rw [touch_me, ht]; rfl
  rw [e]
  refine ⟨accessed_put .., ?_, ?_, by rw [State.me_putMe]⟩
  · unfold State.putMe State.setCtx; rw [hc, State.core_setCore_same]
    obtain ⟨l, h⟩ := touch_core s s.cur.core s.me.space va
    rw [h]; rfl
  · unfold State.putMe State.setCtx; rw [hc, State.core_setCore_same]
    obtain ⟨l, h⟩ := touch_core s s.cur.core s.me.space va
    rw [h]; rfl

/-- what queueStore then finish does -/
theorem queue_core (s : State) (a : Acc) (x : Word) (r : Option Nat) (u : Bool) :
    (s.queueStore a x r u).cur = s.cur ∧ OnlyCore s (s.queueStore a x r u) s.cur.core ∧
    { (s.queueStore a x r u).core s.cur.core with ctxs := [] } =
      { s.myCore with ctxs := [], storeQ := s.myCore.storeQ ++ [storeEntry s 0 a x r u], nextStore := s.myCore.nextStore + 1 } ∧
    (∀ j, j ≠ s.cur.ctx → (s.queueStore a x r u).ctx s.cur.core j = s.ctx s.cur.core j) ∧
    (s.queueStore a x r u).me = { s.me with seq := s.me.seq + 1 } := by
  unfold State.queueStore
  refine ⟨rfl, ?_, ?_, ?_, ?_⟩
  · exact OnlyCore.trans (onlyCore_setCore ..) (onlyCore_setCore ..)
  · simp only [State.putMe, State.setCtx, State.putCore]
    simp only [State.setCore_cur, State.core_setCore_same]
    simp [Core.setCtx, State.myCore, storeEntry]
  · intro j hj
    simp only [State.putMe, State.putCore, State.setCore_cur, State.ctx_setCtx]
    simp only [hj, and_false, if_false, State.ctx, State.core_setCore_same]; rfl
  · rw [State.me_putMe]; rfl

theorem finish_facts (s : State) (u : Ctx) : ∃ t, s.finish u = .next t ∧ t.cur = s.cur ∧ OnlyCtx s t s.cur.core s.cur.ctx ∧ t.me = issued u (u.pc + 4) :=
  ⟨_, rfl, rfl, onlyCtx_setCtx .., by rw [State.me_putMe]; rfl⟩

theorem storeEntry_touch (s : State) (va : Word) (k : Nat) (a : Acc) (x : Word) (r : Option Nat) (u : Bool) :
    storeEntry (s.touchTlb s.cur.core s.me.space va) k a x r u = storeEntry s k a x r u := by
  obtain ⟨tl, ht⟩ := touch_myCore s s.me.space va
  unfold storeEntry; rw [ht, touch_cur, touch_me]

theorem pendFull_touch (s : State) (va : Word) (a : Acc) : (s.touchTlb s.cur.core s.me.space va).pendFull a = s.pendFull a := by
  obtain ⟨tl, ht⟩ := touch_core s s.cur.core s.me.space va
  unfold State.pendFull State.pend; rw [touch_cur, ht]
  simp only [State.ctx, ht]; rfl

theorem counts_iff (s : State) (a : Acc) : Counts s a ↔ s.pendFull a = false := by
  unfold Counts Room State.pendFull; rw [decide_eq_false_iff_not]; simp only [Config.pendMax]; omega

theorem retire_ok {s : State} {va : Word} {acc : Acc} {x : Word} {rel : Option Nat} (hc : Counts s acc) :
    ∃ t, (s.touchTlb s.cur.core s.me.space va).retireStore acc x rel = .next t ∧ StoreRetired s t va (storeEntry s 0 acc x rel false) := by
  unfold State.retireStore
  rw [pendFull_touch, (counts_iff s acc).1 hc]
  simp only [Bool.false_eq_true, if_false]
  obtain ⟨q1, q2, q3, q4, q5⟩ := queue_core (s.touchTlb s.cur.core s.me.space va) acc x rel false
  obtain ⟨t, f1, f2, f3, f4⟩ := finish_facts ((s.touchTlb s.cur.core s.me.space va).queueStore acc x rel false) ((s.touchTlb s.cur.core s.me.space va).queueStore acc x rel false).me
  refine ⟨t, f1, ?_⟩
  have hcur := touch_cur s s.cur.core s.me.space va
  rw [q1, hcur] at f3
  rw [hcur] at q2 q3 q4
  obtain ⟨tl, ht⟩ := touch_core s s.cur.core s.me.space va
  have hm : (s.touchTlb s.cur.core s.me.space va).myCore = { s.core s.cur.core with tlb := tl } := by
    simp only [State.myCore, hcur, ht]
  have core : { t.core s.cur.core with ctxs := [] } = { s.core s.cur.core with ctxs := [], tlb := tl, storeQ := s.myCore.storeQ ++ [storeEntry s 0 acc x rel false], nextStore := s.myCore.nextStore + 1 } := by
    rw [f3.2.1, q3, hm, storeEntry_touch]; rfl
  have g := fun (f : Core → Core) => congrArg f core
  refine ⟨⟨?_, ?_, ?_, ?_, ?_⟩, ?_, ?_, ?_⟩
  · rw [f2, q1, hcur]
  · exact OnlyCore.trans (touch_only ..) (OnlyCore.trans q2 f3.1)
  · have := congrArg Core.tlb core
    simpa [ht] using this
  · have := congrArg (fun c : Core => { c with ctxs := [], tlb := [], storeQ := [], nextStore := 0 }) core
    simpa using this
  · intro j hj; rw [f3.2.2 j hj, q4 j hj, touch_ctx]
  · exact congrArg Core.storeQ core
  · exact congrArg Core.nextStore core
  · rw [f4, q5, touch_me]; rfl


end Sys2Proof.Laws

end
end

