-- ==== Sys2Proof/Laws/Ops.lean ====
section
/-! SUPPORT. Every shared operation keeps memory and the tables of cores and contexts in their canonical form. -/

section
open Sys2Proof Sys2Proof.Machine Sys2Proof.Claims

namespace Sys2Proof.Laws

/-- The canonical form speaks of memory and the cores alone. -/
def Kept (m : List Host.Cell) (cs : Map Core) : Prop :=
  Memory.wf m = true ∧ msorted cs = true ∧ ∀ e ∈ cs, msorted e.2.ctxs = true

theorem canonical_iff (s : State) : Canonical s ↔ Kept s.mem s.cores := Iff.rfl

theorem kept_set {m : List Host.Cell} {cs : Map Core} {n : Nat} {c : Core} (h : Kept m cs) (hc : msorted c.ctxs = true) :
    Kept m (mset Core.reset cs n c) := by
  refine ⟨h.1, ?_, fun e he => ?_⟩
  · unfold mset; split
    · exact msorted_filter _ h.2.1
    · exact msorted_mput h.2.1
  · unfold mset at he; split at he
    · exact h.2.2 e (List.mem_filter.1 he).1
    · rcases mem_mput he with rfl | he
      · exact hc
      · exact h.2.2 e he

theorem mem_of_mget {α : Type} (d : α) (m : Map α) (q : Nat) : mget d m q = d ∨ (q, mget d m q) ∈ m := by
  induction m with
  | nil => exact .inl rfl
  | cons a t ih =>
    obtain ⟨k, u⟩ := a
    by_cases h : q = k
    · right; simp [mget, h]
    · rcases ih with ih | ih
      · left; simp only [mget, h, if_false, ih]
      · right; simp only [mget, h, if_false]; exact List.mem_cons_of_mem _ ih

theorem kept_core {m : List Host.Cell} {cs : Map Core} (h : Kept m cs) (n : Nat) : msorted (mget Core.reset cs n).ctxs = true := by
  rcases mem_of_mget Core.reset cs n with e | e
  · rw [e]; rfl
  · exact h.2.2 _ e

theorem msorted_mset {α : Type} [DecidableEq α] (d : α) {m : Map α} (q : Nat) (v : α) (h : msorted m = true) : msorted (mset d m q v) = true := by
  unfold mset; split
  · exact msorted_filter _ h
  · exact msorted_mput h

theorem keysFrom_map {α β : Type} {b : Nat} {m : Map α} (f : Nat × α → β) (h : keysFrom b m) : keysFrom b (m.map fun e => (e.1, f e)) := by
  intro e he
  obtain ⟨a, ha, rfl⟩ := List.mem_map.1 he
  exact h a ha

theorem msorted_map {α β : Type} {m : Map α} (f : Nat × α → β) (h : msorted m = true) : msorted (m.map fun e => (e.1, f e)) = true := by
  induction m with
  | nil => rfl
  | cons a t ih =>
    obtain ⟨k, u⟩ := a
    rw [msorted_cons] at h
    rw [List.map_cons, msorted_cons]
    exact ⟨keysFrom_map f h.1, ih h.2⟩

theorem kept_map {m : List Host.Cell} {cs : Map Core} (f : Nat × Core → Core) (h : Kept m cs) (hf : ∀ e, msorted e.2.ctxs = true → msorted (f e).ctxs = true) :
    Kept m (cs.map fun e => (e.1, f e)) := by
  refine ⟨h.1, msorted_map f h.2.1, fun e he => ?_⟩
  obtain ⟨a, ha, rfl⟩ := List.mem_map.1 he
  exact hf a (h.2.2 a ha)

theorem kept_write {m : List Host.Cell} {cs : Map Core} (q : Nat) (vs : List Byte) (h : Kept m cs) : Kept (msetList 0 m q vs) cs :=
  ⟨mwf_msetList 0 vs q h.1, h.2⟩

/-! ### Cores and contexts -/

theorem canonical_setCore {s : State} {n : Nat} {c : Core} (h : Canonical s) (hc : msorted c.ctxs = true) : Canonical (s.setCore n c) :=
  kept_set (cs := s.cores) h hc

theorem ctxs_sorted {s : State} (h : Canonical s) (n : Nat) : msorted (s.core n).ctxs = true :=
  kept_core (cs := s.cores) h n

theorem canonical_setCtx {s : State} {n i : Nat} {t : Ctx} (h : Canonical s) : Canonical (s.setCtx n i t) :=
  canonical_setCore h (msorted_mset Ctx.reset i t (ctxs_sorted h n))

theorem canonical_putMe {s : State} {t : Ctx} (h : Canonical s) : Canonical (s.putMe t) :=
  canonical_setCtx h

theorem canonical_fold {α : Type} {f : State → α → State} (hf : ∀ s a, Canonical s → Canonical (f s a)) (l : List α) :
    ∀ {s : State}, Canonical s → Canonical (l.foldl f s) := by
  induction l with
  | nil => intro s h; exact h
  | cons a t ih => intro s h; exact ih (hf s a h)

/-! ### Memory -/

theorem canonical_rawWrite {s : State} (loc n w : Nat) (h : Canonical s) : Canonical (s.rawWrite loc n w) :=
  kept_write (cs := s.cores) loc _ h

theorem canonical_noteWrite {s : State} (b : Nat) (h : Canonical s) : Canonical (s.noteWrite b) := by
  unfold State.noteWrite
  simp only []
  split
  · split <;> exact h
  · exact h

/-- A line put into DRAM keeps the form. -/
theorem canonical_dramPut {s : State} (ln : Nat) (l : Line) (h : Canonical s) : Canonical (s.dramPut ln l) :=
  canonical_noteWrite _ (show Canonical (s.rawWrite (ln * 64) 64 l.data.toNat) from canonical_rawWrite _ _ _ h)

/-- A dirty line written back keeps the form. -/
theorem canonical_writeBack {s : State} (ln : Nat) (evict : Bool) (h : Canonical s) : Canonical (s.writeBack ln evict) := by
  unfold State.writeBack
  split
  · exact h
  · rename_i l _
    show Canonical (if l.dirty then s.dramPut ln l else s)
    split
    · exact canonical_dramPut ln l h
    · exact h

theorem canonical_of_eq {s t : State} (h : Canonical s) (hm : t.mem = s.mem) (hc : t.cores = s.cores) : Canonical t := by
  unfold Canonical Tables at *
  rw [hm, hc]; exact h

theorem failTag_parts (s : State) (b : Nat) : (s.failTag b).mem = s.mem ∧ (s.failTag b).cores = s.cores := by
  simp only [State.failTag, State.logErr, and_self]

theorem tagged_parts (s : State) (c : Prop) (hc : Decidable c) (b : Nat) :
    (if c then s.failTag b else s).mem = s.mem ∧ (if c then s.failTag b else s).cores = s.cores := by
  split
  · exact failTag_parts s b
  · exact ⟨rfl, rfl⟩

theorem takeFree_parts (s : State) : s.takeFree.2.mem = s.mem ∧ s.takeFree.2.cores = s.cores := by
  simp only [State.takeFree, and_self]

/-- Reading a line from DRAM writes no byte and touches no core. -/
theorem dramLine_parts (s : State) (ln key buf : Nat) :
    (s.dramLine ln key buf).2.mem = s.mem ∧ (s.dramLine ln key buf).2.cores = s.cores := by
  unfold State.dramLine
  extract_lets m b s1 pois good f
  have k : s1.mem = s.mem ∧ s1.cores = s.cores := tagged_parts s _ _ _
  clear_value s1 good
  cases good
  · simp only [Bool.false_eq_true, if_false]
    exact ⟨(takeFree_parts s1).1.trans k.1, (takeFree_parts s1).2.trans k.2⟩
  · simp only [if_true]
    exact k

theorem canonical_dramLine {s : State} (ln key buf : Nat) (h : Canonical s) : Canonical (s.dramLine ln key buf).2 :=
  canonical_of_eq h (dramLine_parts ..).1 (dramLine_parts ..).2

/-- Making room in a slice's set keeps the form. -/
theorem canonical_sliceRoom {s : State} (ln : Nat) (h : Canonical s) : Canonical (s.sliceRoom ln) := by
  unfold State.sliceRoom
  split
  · exact h
  · split
    · exact h
    · exact canonical_writeBack _ _ h

theorem canonical_sliceLine {s : State} (ln key buf : Nat) (keep : Bool) (h : Canonical s) : Canonical (s.sliceLine ln key buf keep).2 := by
  unfold State.sliceLine
  split
  · exact h
  · cases keep
    · exact canonical_dramLine ln key buf h
    · have d := canonical_dramLine ln key buf (canonical_sliceRoom ln h)
      exact canonical_of_eq d rfl rfl

/-- A written line kept in its slice or in DRAM keeps the form. -/
theorem canonical_keepLine {s : State} (ln : Nat) (l : Line) (h : Canonical s) : Canonical (s.keepLine ln l) := by
  unfold State.keepLine
  split
  · exact canonical_dramPut _ _ h
  · exact h

/-- A read at the home, which may fill the slice, keeps the form. -/
theorem canonical_homeRead {s : State} (a : Acc) (loc n : Nat) (h : Canonical s) : Canonical (s.homeRead a loc n).2 := by
  unfold State.homeRead
  split
  · exact canonical_sliceLine _ _ _ _ h
  · exact h

/-- A write at the home keeps the form. -/
theorem canonical_homeWrite {s : State} (a : Acc) (loc n w : Nat) (h : Canonical s) : Canonical (s.homeWrite a loc n w).2 := by
  unfold State.homeWrite
  split
  · exact canonical_keepLine _ _ (canonical_sliceLine _ _ _ _ h)
  · exact canonical_rawWrite loc n w h

/-! ### Locks, traps and waking -/

theorem canonical_cores {s : State} (f : Nat × Core → Core) (h : Canonical s) (hf : ∀ e, msorted e.2.ctxs = true → msorted (f e).ctxs = true) :
    Canonical { s with cores := s.cores.map fun e => (e.1, f e) } :=
  kept_map (cs := s.cores) f h hf

theorem canonical_lockDrop {s : State} (loc n i : Nat) (h : Canonical s) : Canonical (s.lockDrop loc n i) :=
  canonical_setCore h (ctxs_sorted h _)

theorem canonical_lockTake {s : State} (loc n i : Nat) (h : Canonical s) : Canonical (s.lockTake loc n i) :=
  canonical_setCore h (ctxs_sorted h _)

theorem canonical_lockForget {s : State} (n i : Nat) (h : Canonical s) : Canonical (s.lockForget n i) :=
  canonical_cores (fun e => { e.2 with lockWait := e.2.lockWait.filter fun b => !(b.core == n && b.ctx == i) }) h fun _ he => he

theorem canonical_freeLock {s : State} (n i : Nat) (h : Canonical s) : Canonical (s.freeLock n i) := by
  unfold State.freeLock
  split
  · exact h
  · simp only []
    split
    · exact canonical_setCtx (canonical_lockDrop _ _ _ h)
    · exact canonical_setCtx h

theorem canonical_dropWaits {s : State} (n i : Nat) (h : Canonical s) : Canonical (s.dropWaits n i) :=
  canonical_setCore h (ctxs_sorted h n)

theorem canonical_dropResumed {s : State} (lid : BitVec 32) (h : Canonical s) : Canonical (s.dropResumed lid) := by
  unfold State.dropResumed
  dsimp only
  split
  · exact canonical_of_eq h rfl rfl
  · exact h

theorem canonical_endLaunch {s : State} (lid : BitVec 32) (st : Nat) (h : Canonical s) : Canonical (s.endLaunch lid st) :=
  canonical_of_eq (canonical_dropResumed lid h) rfl rfl

/-- The entry of a trap keeps the form. -/
theorem canonical_enterTrap {s : State} (n i : Nat) (p : PendTrap) (h : Canonical s) : Canonical (s.enterTrap n i p) := by
  unfold State.enterTrap
  extract_lets t r t1 p1 s1
  split
  · exact canonical_endLaunch _ _ (canonical_setCtx h)
  · exact canonical_setCtx (canonical_dropWaits _ _ (canonical_lockForget _ _ (canonical_freeLock _ _ (canonical_setCtx h))))

/-- Taking a trap, at once or later, keeps the form. -/
theorem canonical_trap {s : State} (n i : Nat) (p : PendTrap) (h : Canonical s) : Canonical (s.trap n i p) := by
  unfold State.trap
  extract_lets t
  split
  · exact canonical_enterTrap n i p h
  · exact canonical_setCtx h

theorem canonical_wakeOne {s : State} (g : Bool) (e : Nat × Nat × Wait) (h : Canonical s) : Canonical (s.wakeOne g e) := by
  unfold State.wakeOne
  split
  · split
    · exact canonical_trap _ _ _ h
    · simp only []
      split
      · exact h
      · exact canonical_setCtx h
  · split
    · exact h
    · exact canonical_setCtx h
  · exact h
  · exact h

theorem canonical_dropArrs {s : State} (w : Nat) (h : Canonical s) : Canonical (s.dropArrs w) := by
  unfold State.dropArrs
  dsimp only
  split
  · exact canonical_setCore h (ctxs_sorted h _)
  · exact h

theorem canonical_wakeWord {s : State} (w : Nat) (g : Bool) (h : Canonical s) : Canonical (s.wakeWord w g) := by
  refine canonical_fold (fun _ e hs => canonical_wakeOne g e hs) _ ?_
  split
  · exact h
  · exact canonical_dropArrs w h

theorem canonical_wakeRange {s : State} (loc n : Nat) (h : Canonical s) : Canonical (s.wakeRange loc n) := by
  unfold State.wakeRange
  split
  · exact canonical_fold (fun _ k hs => canonical_wakeWord (loc / 8 + k) false hs) _ h
  · exact h

theorem canonical_bankNote {s : State} (loc n rank : Nat) (h : Canonical s) : Canonical (s.bankNote loc n rank) := by
  unfold State.bankNote
  split
  · exact canonical_setCore h (ctxs_sorted h _)
  · exact h

/-- A store at its home, with the waking of those who wait on it, keeps the form. -/
theorem canonical_storeAt {s : State} (a : Acc) (loc n w rank : Nat) (h : Canonical s) : Canonical (s.storeAt a loc n w rank).2 :=
  canonical_wakeRange loc n (canonical_homeWrite a loc n w (canonical_bankNote loc n rank h))

/-- The memory lists canonical cells after a reset's filter. -/
theorem wf_filter {m : List Host.Cell} (f : Host.Cell → Bool) (h : Memory.wf m = true) : Memory.wf (m.filter f) = true :=
  mwf_filter 0 f h

end Sys2Proof.Laws

end
end

