-- ==== Sys2Proof/Safety.lean ====
section
/-! DEFINITION. What counts as a safe run, in the terms that claims use: a run that no step stops, in which no thread has failed. -/

namespace Sys2Proof.Machine

/-- The run of k steps from a state ends in t. -/
def Reaches (k : Nat) (s t : State) : Prop :=
  Host.Core.run Sys2Proof.core k s = .next t

/-- No step of the run stops the machine. -/
def NeverStops (s : State) : Prop :=
  ∀ k, ∃ t, Reaches k s t

/-- No launch is ending with a failure, such as a trap with no handler to take it (02 R22, 13 R181). -/
def NoneFailed (s : State) : Prop :=
  ∀ l ∈ s.launches, ∀ st, l.phase = .ending st → st = 0

/-- A safe run: it never stops and no launch in it fails. -/
def SafeRun (s : State) : Prop :=
  ∀ k, ∃ t, Reaches k s t ∧ NoneFailed t

end Sys2Proof.Machine
end

