-- ==== Sys2Proof/Tests/Slice0.lean ====
section
/-! SUPPORT. The model's own tests: ill-formed terms refused, words of the spec decoded, small steps, and for each statement's hypotheses a
state and operands that meet them. -/

section
open Sys2Proof Sys2Proof.Machine Sys2Proof.Claims

set_option Elab.async false

namespace Sys2Proof.Tests

/-! ### WellFormed refuses each ill-formed term -/

theorem test_wf_atomic : (Instr.at64Add 1 2 3 0 4 0).wf = false ∧ (Instr.at64Add 1 2 3 1 4 0).wf = true := by decide
theorem test_wf_atomic32 : (Instr.at32Cas 1 2 3 0 1 0).wf = false ∧ (Instr.at32Cas 1 2 3 0 0 0).wf = true := by decide
theorem test_wf_fence : (Instr.fenceAcqReg 0).wf = false ∧ (Instr.fenceScReg 0).wf = false ∧ (Instr.fenceRelReg 1).wf = true := by decide
theorem test_wf_quad : (Instr.copy 0).wf = false ∧ (Instr.mxres 0).wf = false ∧ (Instr.copyt 1 0).wf = false ∧ (Instr.bkpush 1 0).wf = false ∧
    (Instr.copy 7).wf = true := by decide
theorem test_wf_cvsplit : (Instr.cvsplit 1 0 2).wf = false ∧ (Instr.cvsplit 9 2 2).wf = false ∧ (Instr.cvsplit 12 2 2).wf = true := by decide
theorem test_wf_pair : (Instr.cvin 1 2 0).wf = false ∧ (Instr.cvnext 1 2 0).wf = false ∧ (Instr.cvprev 1 2 3).wf = true := by decide
theorem test_wf_vvis : (Instr.vvis 0 4 5).wf = false ∧ (Instr.vvis 1 4 5).wf = true := by decide
theorem test_wf_csr : (Instr.csrr 1 0x008).wf = true ∧ (Instr.csrr 1 0x010).wf = false ∧ (Instr.csrw 1 2 0x000).wf = false ∧
    (Instr.csrs 1 2 0x110).wf = true := by decide
theorem test_wf_fmt : (Instr.fmt 15 0 0 0 0 0).wf = false ∧ (Instr.fmt 0 0 0 6 0 0).wf = false ∧ (Instr.fmt 0 0 0 0 0 5).wf = false ∧
    (Instr.fmt 4 4 4 0 0 0).wf = true := by decide
theorem test_wf_bset : (Instr.bset 1 13 0).wf = false ∧ (Instr.bset 1 12 0).wf = true := by decide
theorem test_wf_blda : (Instr.blda 0 1 0 0).wf = false ∧ (Instr.blda 0 1 256 1).wf = false ∧ (Instr.blda 0 1 256 0).wf = true := by decide
theorem test_wf_bldaP : (Instr.bldaP 0 5 0).wf = false ∧ (Instr.bldaP 0 4 252).wf = true := by decide
theorem test_wf_rows : (Instr.brow 0 1 2 3 0).wf = false ∧ (Instr.bscl 0 1 2 0).wf = false ∧ (Instr.bwr 0 1 2 0).wf = false ∧
    (Instr.brow 1 1 2 3 0).wf = true := by decide
theorem test_wf_bloop : (Instr.bloop 1 0).wf = false ∧ (Instr.bloop 1 4).wf = true := by decide
theorem test_wf_bfmt : (Instr.bfmt 2 0 0 0 0 0 0).wf = false ∧ (Instr.bfmt 0 0 0 0 0 1 1).wf = false ∧ (Instr.bfmt 11 1 4 0 0 0 0).wf = true := by decide

/-! ### Decoding: a word of every row, from the match value and the fields of the opcode table -/

theorem test_decode_00 :
    decode 0x012E9810 = some (.add 9 14 19) ∧ decode 0x012E9820 = some (.sub 9 14 19) ∧ decode 0x012E9830 = some (.and 9 14 19) ∧
    decode 0x00EC8840 = some (.or 7 12 17) ∧ decode 0x012E9850 = some (.xor 9 14 19) ∧ decode 0x0170A860 = some (.andn 11 16 21) ∧
    decode 0x012E9870 = some (.sll 9 14 19) ∧ decode 0x012E9880 = some (.srl 9 14 19) ∧ decode 0x012E9890 = some (.sra 9 14 19) ∧
    decode 0x012E98A0 = some (.ror 9 14 19) ∧ decode 0x012E98B0 = some (.slt 9 14 19) ∧ decode 0x0170A8C0 = some (.sltu 11 16 21) := by decide +kernel
theorem test_decode_01 :
    decode 0x012E98D0 = some (.min 9 14 19) ∧ decode 0x012E98E0 = some (.max 9 14 19) ∧ decode 0x0170A8F0 = some (.minu 11 16 21) ∧
    decode 0x0170A900 = some (.maxu 11 16 21) ∧ decode 0x012E9910 = some (.mul 9 14 19) ∧ decode 0x0170A920 = some (.mulh 11 16 21) ∧
    decode 0x01B2B930 = some (.mulhu 13 18 23) ∧ decode 0x012E9948 = some (.div 9 14 19 8) ∧
    decode 0x0170A95A = some (.divu 11 16 21 10) ∧ decode 0x012E9968 = some (.rem 9 14 19 8) ∧
    decode 0x0170A97A = some (.remu 11 16 21 10) ∧ decode 0x012E0180 = some (.clz 9 14) := by decide +kernel
theorem test_decode_02 :
    decode 0x012E0190 = some (.ctz 9 14) ∧ decode 0x017001A0 = some (.popc 11 16) ∧ decode 0x05700015 = some (.addi 11 16 21) ∧
    decode 0x09700015 = some (.andi 11 16 21) ∧ decode 0x0D2E0013 = some (.ori 9 14 19) ∧ decode 0x11700015 = some (.xori 11 16 21) ∧
    decode 0x15700015 = some (.slti 11 16 21) ∧ decode 0x19B20017 = some (.sltiu 13 18 23) ∧ decode 0x21220013 = some (.liw 9 2 19) ∧
    decode 0x2520000E = some (.lpc 9 14) ∧ decode 0x1E36001B = some (.shiSll 17 22 27) ∧ decode 0x1E36005B = some (.shiSrl 17 22 27) := by decide +kernel
theorem test_decode_03 :
    decode 0x1E36009B = some (.shiSra 17 22 27) ∧ decode 0x1E3600DB = some (.shiRor 17 22 27) ∧
    decode 0x292E0013 = some (.beq 9 14 19) ∧ decode 0x2D2E0013 = some (.bne 9 14 19) ∧ decode 0x312E0013 = some (.blt 9 14 19) ∧
    decode 0x352E0013 = some (.bge 9 14 19) ∧ decode 0x39700015 = some (.bltu 11 16 21) ∧ decode 0x3D700015 = some (.bgeu 11 16 21) ∧
    decode 0x4120000E = some (.jal 9 14) ∧ decode 0x45700015 = some (.jalr 11 16 21) ∧ decode 0x4970015A = some (.ld8u 11 16 21 10) ∧
    decode 0x4D70015A = some (.ld8s 11 16 21 10) := by decide +kernel
theorem test_decode_04 :
    decode 0x51B2017C = some (.ld16u 13 18 23 12) ∧ decode 0x55B2017C = some (.ld16s 13 18 23 12) ∧
    decode 0x59B2017C = some (.ld32u 13 18 23 12) ∧ decode 0x5DB2017C = some (.ld32s 13 18 23 12) ∧
    decode 0x6170015A = some (.ld64 11 16 21 10) ∧ decode 0x652E0130 = some (.st8 9 14 19) ∧
    decode 0x69700150 = some (.st16 11 16 21) ∧ decode 0x6D700150 = some (.st32 11 16 21) ∧
    decode 0x71700150 = some (.st64 11 16 21) ∧ decode 0xD0110160 = some (.prefL1 17 22) ∧
    decode 0xD03701C0 = some (.prefSlice 23 28) ∧ decode 0xD0530180 = some (.prefTlb 19 24) := by decide +kernel
theorem test_decode_05 :
    decode 0x8278E8FC = some (.at32Add 19 24 29 1 7 12) ∧ decode 0x8278E9FC = some (.at32And 19 24 29 1 7 12) ∧
    decode 0x8236DADA = some (.at32Or 17 22 27 1 5 10) ∧ decode 0x8278EBFC = some (.at32Xor 19 24 29 1 7 12) ∧
    decode 0x8278ECFC = some (.at32Max 19 24 29 1 7 12) ∧ decode 0x8278EDFC = some (.at32Min 19 24 29 1 7 12) ∧
    decode 0x82BAFE9E = some (.at32Swap 21 26 31 1 1 14) ∧ decode 0x8278EFFC = some (.at32Cas 19 24 29 1 7 12) ∧
    decode 0x8678E8FC = some (.at64Add 19 24 29 1 7 12) ∧ decode 0x8678E9FC = some (.at64And 19 24 29 1 7 12) ∧
    decode 0x8636DADA = some (.at64Or 17 22 27 1 5 10) ∧ decode 0x8678EBFC = some (.at64Xor 19 24 29 1 7 12) := by decide +kernel
theorem test_decode_06 :
    decode 0x8678ECFC = some (.at64Max 19 24 29 1 7 12) ∧ decode 0x8678EDFC = some (.at64Min 19 24 29 1 7 12) ∧
    decode 0x86BAFE9E = some (.at64Swap 21 26 31 1 1 14) ∧ decode 0x8678EFFC = some (.at64Cas 19 24 29 1 7 12) ∧
    decode 0x88002810 = some (.fenceAcq 5) ∧ decode 0x881D0010 = some (.fenceAcqReg 29) ∧ decode 0x88002820 = some (.fenceRel 5) ∧
    decode 0x881D0020 = some (.fenceRelReg 29) ∧ decode 0x88001830 = some (.fenceAr 3) ∧ decode 0x881B0030 = some (.fenceArReg 27) ∧
    decode 0x88001840 = some (.fenceSc 3) ∧ decode 0x881B0040 = some (.fenceScReg 27) := by decide +kernel
theorem test_decode_07 :
    decode 0x89B2385C = some (.lda32 13 18 7 12) ∧ decode 0x89B2386C = some (.lda64 13 18 7 12) ∧
    decode 0x89B23870 = some (.stl32 13 18 7) ∧ decode 0x89B23880 = some (.stl64 13 18 7) ∧
    decode 0x89B2B890 = some (.scope 13 18 23) ∧ decode 0x8D2E0013 = some (.ldl 9 14 3) ∧ decode 0x8D2E9820 = some (.stu 9 14 19) ∧
    decode 0x752E0138 = some (.vld 9 14 19 8) ∧ decode 0x792E0130 = some (.vst 9 14 19) ∧
    decode 0x7E36D81A = some (.vgather 17 22 27 1 1 2) ∧ decode 0x7E78E907 = some (.vscatter 19 24 29 0 7) ∧
    decode 0x7D70AAAC = some (.vlds 11 16 21 10 1 4) := by decide +kernel
theorem test_decode_08 :
    decode 0x7D70AB07 = some (.vsts 11 16 21 0 7) ∧ decode 0x9170A817 = some (.vadd 11 16 21 0 7) ∧
    decode 0x9170A827 = some (.vsub 11 16 21 0 7) ∧ decode 0x9170A837 = some (.vmul 11 16 21 0 7) ∧
    decode 0x91B2B841 = some (.vmulh 13 18 23 0 1) ∧ decode 0x91B2B851 = some (.vadds 13 18 23 0 1) ∧
    decode 0x91B2B861 = some (.vsubs 13 18 23 0 1) ∧ decode 0x9170A877 = some (.vand 11 16 21 0 7) ∧
    decode 0x912E9885 = some (.vor 9 14 19 0 5) ∧ decode 0x9170A897 = some (.vxor 11 16 21 0 7) ∧
    decode 0x9170A8A7 = some (.vsll 11 16 21 0 7) ∧ decode 0x9170A8B7 = some (.vsrl 11 16 21 0 7) := by decide +kernel
theorem test_decode_09 :
    decode 0x9170A8C7 = some (.vsra 11 16 21 0 7) ∧ decode 0x9170A8D7 = some (.vmin 11 16 21 0 7) ∧
    decode 0x9170A8E7 = some (.vmax 11 16 21 0 7) ∧ decode 0x91B2B8F1 = some (.vminu 13 18 23 0 1) ∧
    decode 0x91B2B901 = some (.vmaxu 13 18 23 0 1) ∧ decode 0x9170A917 = some (.vsel 11 16 21 0 7) ∧
    decode 0x9036D985 = some (.vcmpEq 1 22 27 0 5) ∧ decode 0x9036D995 = some (.vcmpNe 1 22 27 0 5) ∧
    decode 0x9036D9A5 = some (.vcmpLt 1 22 27 0 5) ∧ decode 0x9036D9B5 = some (.vcmpLe 1 22 27 0 5) ∧
    decode 0x9078E9C7 = some (.vcmpLtu 3 24 29 0 7) ∧ decode 0x9078E9D7 = some (.vcmpLeu 3 24 29 0 7) := by decide +kernel
theorem test_decode_10 :
    decode 0x95B2B811 = some (.vfadd 13 18 23 0 1) ∧ decode 0x95B2B821 = some (.vfsub 13 18 23 0 1) ∧
    decode 0x95B2B831 = some (.vfmul 13 18 23 0 1) ∧ decode 0x9570A847 = some (.vfma 11 16 21 0 7) ∧
    decode 0x9570A857 = some (.vfms 11 16 21 0 7) ∧ decode 0x95B2B861 = some (.vfdiv 13 18 23 0 1) ∧
    decode 0x95F4007E = some (.vfsqrt 15 20 1 6) ∧ decode 0x95B2B881 = some (.vfmin 13 18 23 0 1) ∧
    decode 0x95B2B891 = some (.vfmax 13 18 23 0 1) ∧ decode 0x95B200AC = some (.vfabs 13 18 1 4) ∧
    decode 0x95B200BC = some (.vfneg 13 18 1 4) ∧ decode 0x9478E907 = some (.vfcmpEq 3 24 29 0 7) := by decide +kernel
theorem test_decode_11 :
    decode 0x9478E917 = some (.vfcmpNe 3 24 29 0 7) ∧ decode 0x9478E927 = some (.vfcmpLt 3 24 29 0 7) ∧
    decode 0x9478E937 = some (.vfcmpLe 3 24 29 0 7) ∧ decode 0x9478E947 = some (.vfcmpUn 3 24 29 0 7) ∧
    decode 0x99B2B811 = some (.vperm 13 18 23 0 1) ∧ decode 0x99F4002E = some (.vbcast 15 20 1 6) ∧
    decode 0x99B2B830 = some (.vextr 13 18 23 0) ∧ decode 0x99B2B840 = some (.vinsr 13 18 23 0) ∧
    decode 0x99B2005C = some (.vsort 13 18 1 4) ∧ decode 0x99F4006E = some (.vcompr 15 20 1 6) ∧
    decode 0x99B2B871 = some (.vdot4 13 18 23 0 1) ∧ decode 0x99B2B881 = some (.vfdot 13 18 23 0 1) := by decide +kernel
theorem test_decode_12 :
    decode 0x98612890 = some (.kand 3 1 5 0) ∧ decode 0x982618A0 = some (.kor 1 6 3 0) ∧ decode 0x986128B0 = some (.kxor 3 1 5 0) ∧
    decode 0x986100C8 = some (.knot 3 1 1) ∧ decode 0x987000D8 = some (.klen 3 16 1) ∧ decode 0x996100E8 = some (.kpop 11 1 1) ∧
    decode 0x9A78010A = some (.vredAdd 19 24 1 2) ∧ decode 0x9A78011A = some (.vredMin 19 24 1 2) ∧
    decode 0x9A78012A = some (.vredMax 19 24 1 2) ∧ decode 0x9ABA013C = some (.vredMinu 21 26 1 4) ∧
    decode 0x9ABA014C = some (.vredMaxu 21 26 1 4) ∧ decode 0x9A78015A = some (.vredAnd 19 24 1 2) := by decide +kernel
theorem test_decode_13 :
    decode 0x9A360169 = some (.vredOr 17 22 1 1) ∧ decode 0x9A78017A = some (.vredXor 19 24 1 2) ∧
    decode 0x9ABA018C = some (.vredFadd 21 26 1 4) ∧ decode 0x9ABA019C = some (.vredFmin 21 26 1 4) ∧
    decode 0x9ABA01AC = some (.vredFmax 21 26 1 4) ∧ decode 0x9ABA020C = some (.vscanAdd 21 26 1 4) ∧
    decode 0x9ABA021C = some (.vscanMin 21 26 1 4) ∧ decode 0x9ABA022C = some (.vscanMax 21 26 1 4) ∧
    decode 0x9AFC023E = some (.vscanFadd 23 28 1 6) ∧ decode 0x9D70001A = some (.vcvt 11 16 1 2) ∧
    decode 0x9DB2B820 = some (.vpack 13 18 23 0) ∧ decode 0x9DB2B830 = some (.vunpk 13 18 23 0) := by decide +kernel
theorem test_decode_14 :
    decode 0xA12FAE00 = some (.fmt 4 11 14 5 1 4) ∧ decode 0xA5B2B81C = some (.spawn 13 18 23 12) ∧
    decode 0xA570A82A = some (.send 11 16 21 10) ∧ decode 0xA5F4C83E = some (.launch 15 20 25 14) ∧ decode 0xA4000040 = some .exit ∧
    decode 0xA4000050 = some .yield ∧ decode 0xA570A860 = some (.wait 11 16 21) ∧ decode 0xA9700015 = some (.join 11 16 5) ∧
    decode 0xA9B20027 = some (.leave 13 18 7) ∧ decode 0xA92E0030 = some (.bar 9 14) ∧ decode 0xA970A840 = some (.bart 11 16 21) ∧
    decode 0xA970A850 = some (.hbar 11 16 21) := by decide +kernel
theorem test_decode_15 :
    decode 0xAC0B0010 = some (.trap 11) ∧ decode 0xAC000020 = some .eret ∧ decode 0xAC000030 = some .halt ∧
    decode 0xAD70A840 = some (.tlbw 11 16 21) ∧ decode 0xAD70A850 = some (.tlbi 11 16 21) ∧ decode 0xD5600008 = some (.csrr 11 8) ∧
    decode 0xD5704008 = some (.csrw 11 16 8) ∧ decode 0xD5708110 = some (.csrs 11 16 272) ∧
    decode 0xD570C041 = some (.csrc 11 16 65) ∧ decode 0xB00C0010 = some (.copy 3) ∧ decode 0xB1A80020 = some (.copyt 13 2) ∧
    decode 0xB1F4C830 = some (.cpbind 15 20 25) := by decide +kernel
theorem test_decode_16 :
    decode 0xB1B20040 = some (.cpunb 13 18) ∧ decode 0xB1A00050 = some (.cppop 13) ∧ decode 0xB1F40060 = some (.cpstat 15 20) ∧
    decode 0xB5B20010 = some (.tlook 13 18) ∧ decode 0xB5700020 = some (.tins 11 16) ∧ decode 0xB5700030 = some (.tdel 11 16) ∧
    decode 0xB5B20040 = some (.tstat 13 18) ∧ decode 0xB9700010 = some (.qarr 11 16) ∧ decode 0xB9B20020 = some (.qseal 13 18) ∧
    decode 0xB80B0030 = some (.qdep 11) ∧ decode 0xB9F4C840 = some (.qsplit 15 20 25) ∧ decode 0xB9600050 = some (.qdef 11) := by decide +kernel
theorem test_decode_17 :
    decode 0xB9700060 = some (.qidx 11 16) ∧ decode 0xB9600070 = some (.qpop 11) ∧ decode 0xB9E00080 = some (.qfirst 15) ∧
    decode 0xB9700090 = some (.qget 11 16) ∧ decode 0xB80B80A0 = some (.qput 11 16) ∧ decode 0xB80B00B0 = some (.qadd 11) ∧
    decode 0xB80B00C0 = some (.qdel 11) ∧ decode 0xBDB2B810 = some (.cqmrg 13 18 23) ∧ decode 0xBDF4C820 = some (.cqbest 15 20 25) ∧
    decode 0xBDF4C830 = some (.cqinit 15 20 25) ∧ decode 0xBDB20040 = some (.cqcnt 13 18) ∧ decode 0xBCD0A850 = some (.vvis 3 16 21) := by decide +kernel
theorem test_decode_18 :
    decode 0xC1B20010 = some (.cvenc 13 18) ∧ decode 0xC1B20020 = some (.cvdec 13 18) ∧ decode 0xC1B2B830 = some (.cvadd 13 18 23) ∧
    decode 0xC1B2B840 = some (.cvsub 13 18 23) ∧ decode 0xC1705050 = some (.cvin 11 16 5) ∧
    decode 0xC1F49060 = some (.cvnext 15 20 9) ∧ decode 0xC1F49070 = some (.cvprev 15 20 9) ∧
    decode 0xC1B2B880 = some (.cvlev 13 18 23) ∧ decode 0xC1F4C890 = some (.cvcell 15 20 25) ∧
    decode 0xC28CD8A0 = some (.cvsplit 20 3 27) ∧ decode 0xC5F4C813 = some (.vcvadd 15 20 25 0 3) ∧
    decode 0xC4B27021 = some (.vcvin 5 18 7 0 1) := by decide +kernel
theorem test_decode_19 :
    decode 0xC5F4003E = some (.vcvenc 15 20 1 6) ∧ decode 0xC9F40010 = some (.mxgang 15 20) ∧
    decode 0xCA200020 = some (.mxleave 17) ∧ decode 0xC8640030 = some (.mxgo 3 1) ∧ decode 0xC8140040 = some (.mxres 5) ∧
    decode 0xC9A2B85C = some (.mxmov 13 2 23 12) ∧ decode 0xC8380060 = some (.mxdrain 1 6) ∧ decode 0xC8600070 = some (.mxzero 3) ∧
    decode 0xC9A00080 = some (.pwreq 13) ∧ decode 0xCDF4C810 = some (.bkload 15 20 25) ∧ decode 0xCDF00020 = some (.bkpush 15 4) ∧
    decode 0xCDA00030 = some (.bkpop 13) := by decide +kernel
theorem test_decode_20 :
    decode 0xCDF4C84E = some (.bkstat 15 20 25 14) := by decide +kernel
theorem test_decode_bank_a :
    decodeBank 0x00000000 = some .bnop ∧ decodeBank 0x1BC00015 = some (.bset 11 12 21) ∧
    decodeBank 0x2B100015 = some (.badd 11 1 21) ∧ decodeBank 0x3610C838 = some (.blda 3 1 200 56) ∧
    decodeBank 0x3F0003FA = some (.bldaP 7 3 250) ∧ decodeBank 0x40B15AF0 = some (.brow 11 1 5 10 15) ∧
    decodeBank 0x50B15A00 = some (.bscl 11 1 5 10) ∧ decodeBank 0x609E3800 = some (.bwr 9 14 3 8) ∧
    decodeBank 0x7D000012 = some (.bloop 13 18) := by decide +kernel
theorem test_decode_bank_b :
    decodeBank 0x80000000 = some .bend ∧ decodeBank 0x9D200000 = some (.bsync 13 2) ∧ decodeBank 0xA0D00000 = some (.bwait 13 0) ∧
    decodeBank 0xBC7EB800 = some (.bfmt 12 7 14 5 1 4 0) ∧ decodeBank 0xCD200000 = some (.bzero 13 2) ∧
    decodeBank 0xDD270000 = some (.bcopy 13 2 7) ∧ decodeBank 0xE0000000 = some .bhalt ∧ decodeBank 0xF000000D = some (.btrap 13) := by decide +kernel

/-! ### States that the witnesses use -/

/-- The state an instruction leaves. -/
def after (i : Instr) (s : State) : State := match exec i s with
  | .next t => t
  | .fault _ | .refused _ => s
theorem after_of (i : Instr) (s : State) (h : (match exec i s with | .next _ => true | _ => false) = true) : exec i s = .next (after i s) := by
  unfold after; split at h <;> simp_all

/-- Right after reset: context 0 of core 0 executes, and no prefix is pending. -/
abbrev s0 : State := State.reset

/-- A thread ready on a page that it may read, write and execute, with 0x00611010, ADD x3, x1, x2, at its pc. -/
def page : State := s0.withFetchWord 32 0x00611010

/-- The same thread with x1 = v. -/
def pageAt (v : Word) : State := page.putMe (page.me.wx 1 v)

/-- The place of that page's first bytes. -/
def placed (n : Nat) : Acc := ⟨0x10000, 0x10000, n, true, 0, 0⟩

/-- An own-scratch address, and its place. -/
def own (off : Nat) : Word := BitVec.ofNat 64 (14 * 2 ^ 56 + off)
def ownAcc (off n : Nat) : Acc := ⟨own off, scratchAt 0 + off, n, false, 0, 0⟩

/-! ### Witnesses: decoding and the step -/

/-- Hypotheses of the statements that ask only that no prefix is pending: RegisterArithmetic, BitCounts, ImmediateForms, Division,
ConditionalBranches, JumpsAndLinks, ScopeOfTwoPlaces, PrefetchIsAHint, BankInstructions' BKPOP and others. -/
theorem witness_no_prefix : s0.me.latchOn = false := by decide +kernel
/-- JALR to an aligned target and to a misaligned one. -/
theorem witness_JumpsAndLinks : ((s0.me.rx 0 + (8#16).signExtend 64 : Word).toNat % 4 = 0) ∧ ((s0.me.rx 0 + (2#16).signExtend 64 : Word).toNat % 4 ≠ 0) := by
  decide +kernel
/-- Divisions at their corners: by 0, the overflow, and neither. -/
theorem witness_Division : (0 : Word) = 0 ∧ ((2 ^ 63 : Word).toInt = -2 ^ 63 ∧ (-1 : Word).toInt = -1) ∧ (7 : Word) ≠ 0 := by decide +kernel
theorem witness_DecodeAfterEncode : (Instr.add 3 1 2).wf = true ∧ encode (.add 3 1 2) = some 0x00611010 ∧ isBankCode (.add 3 1 2) = false := by
  decide +kernel
theorem witness_DecodeAfterEncode_bank : (Instr.badd 1 2 3).wf = true ∧ (encode (.badd 1 2 3)).isSome = true ∧ isBankCode (.badd 1 2 3) = true := by
  decide +kernel
theorem witness_EncodeAfterDecode : decode 0x00611010 = some (.add 3 1 2) ∧ decodeBank 0xF0000007 = some (.btrap 7) := by decide +kernel
theorem witness_IllegalWordsTrap : decode 0x00611000 = none ∧ ({ s0 with cores := [] }.putMe { s0.me with latchOn := true }).me.latchOn = true := by
  decide +kernel
theorem witness_FetchReadsMemory : FetchesDram page 0 0 0x10000 (placed 4) := by
  unfold FetchesDram; decide +kernel
theorem witness_FetchReadsMemory_cached : bits (0x10000 : Word) 59 5 = 0 ∧ page.resolve 0 0 0x10000 3 4 4 false = .ok (placed 4) ∧
    mfind ((page.fetch 0 0 0x10000).2.core 0).icache (placed 4).loc = some 0x00611010 := by decide +kernel
def issuing : State := { page with tape := [] }
theorem witness_StepRunsDecoded_issue : page.pkg.tripped = false ∧ page.tape = .issue 0 0 :: [] ∧
    issuing.mayIssue 0 0 = true ∧ issuing.pick 0 0 [] = some (0, 0) ∧ (issuing.ctx 0 0).windows = [] ∧ (issuing.ctx 0 0).poisonDue = [] ∧
    FetchesDram (issuing.setCtx 0 0 (issuing.ctx 0 0)) 0 (issuing.ctx 0 0).space (issuing.ctx 0 0).pc (placed 4) ∧
    decode (wordAt issuing (placed 4).loc) = some (.add 3 1 2) ∧ (issuing.ctx 0 0).regErr = [] := by
  unfold FetchesDram; decide +kernel
/-- Nothing is half done, no fetch is in the mesh, and the registers that the word reads are not in error: it has issued. -/
theorem witness_StepRunsDecoded_clear : (issuing.endYields 0 0 []) = issuing ∧ (issuing.ctx 0 0).todo = none ∧
    RegName.pc ∉ (issuing.ctx 0 0).regErr ∧ issuing.inMesh (.fetch 0 0) = false ∧ (issuing.ctx 0 0).badReads (.add 3 1 2) = false ∧
    ∃ t, exec (.add 3 1 2) issuing = .next t ∧ (t.ctx 0 0).run ≠ .stalled := by
  exact ⟨by decide +kernel, by decide +kernel, by decide +kernel, by decide +kernel, by decide +kernel, after (.add 3 1 2) issuing,
    after_of _ _ (by decide +kernel), by decide +kernel⟩
/-- An engine's turn on a word of bank code. -/
def engineRuns : State := s0.withFetchWord 32 0xE0000000
theorem witness_StepRunsDecoded_engine : ∃ e, engineRuns.tape = .engine 0 :: [] ∧ (engineRuns.eng 0).run = some e ∧ e.ended = none ∧
    e.cmd.load = false ∧ e.pc ≤ 1023 ∧ decodeBank ((engineRuns.eng 0).word e.pc) = some .bhalt := by
  refine ⟨((engineRuns.eng 0).run).get (by decide +kernel), ?_⟩
  decide +kernel
theorem witness_StepRunsDecoded_event : encode (.keyLoad 1) = none ∧ ({ s0 with tape := [.event (.keyLoad 1)] } : State).pkg.tripped = false := by
  decide +kernel
theorem witness_StepKeepsCanonicalForm : Canonical page ∧ ∃ t, step page = .next t := by
  refine ⟨⟨by decide +kernel, by decide +kernel, by decide +kernel⟩, ?_⟩
  have : ∀ o : Host.Outcome State Fault Refusal, (match o with | .next _ => true | _ => false) = true → ∃ t, o = .next t := by
    intro o; cases o <;> simp
  exact this _ (by decide +kernel)

/-! ### Witnesses: memory -/

theorem witness_ScalarLoads : (pageAt 0x10000).me.latchOn = false ∧ Passes (pageAt 0x10000) 0 8 (effAddr (pageAt 0x10000) 1 0 8) false (placed 8) := by
  unfold Passes; decide +kernel
theorem witness_ScalarLoads_fault : (pageAt 0x10001).me.acquiring = false ∧
    (pageAt 0x10001).resolve 0 0 (effAddr (pageAt 0x10001) 1 0 8) 0 8 8 false = .fault 2 := by decide +kernel
theorem witness_ScalarLoads_miss : (pageAt 0x20000).resolve 0 0 (effAddr (pageAt 0x20000) 1 0 8) 0 8 8 false = .miss := by decide +kernel
theorem witness_ScalarStores : Passes (pageAt 0x10000) 1 8 (effAddr (pageAt 0x10000) 1 0 8) false (placed 8) ∧ Counts (pageAt 0x10000) (placed 8) := by
  unfold Passes Counts Room; decide +kernel
theorem witness_ScalarStores_fault : (pageAt 0x10001).me.acquiring = false ∧ (pageAt 0x10001).me.todo = none ∧
    (pageAt 0x10001).resolve 0 0 (effAddr (pageAt 0x10001) 1 0 8) 1 8 8 false = .fault 2 := by decide +kernel
theorem witness_AcquireLoadsReleaseStores : Passes (pageAt 0x10000) 0 4 ((pageAt 0x10000).me.rx 1) false (placed 4) ∧
    Passes (pageAt 0x10000) 1 4 ((pageAt 0x10000).me.rx 1) false (placed 4) ∧ Counts (pageAt 0x10000) (placed 4) := by
  unfold Passes Counts Room; decide +kernel
theorem witness_AtomicsIssue : Passes (pageAt 0x10000) 2 8 ((pageAt 0x10000).me.rx 1) true (placed 8) ∧
    Passes (pageAt 0x10000) 2 4 ((pageAt 0x10000).me.rx 1) false (placed 4) ∧ Counts (pageAt 0x10000) (placed 8) := by
  unfold Passes Counts Room; decide +kernel
/-- A load of the thread that has not its value, so that acquires wait. -/
def loading : State := page.putMe { page.me with windows := [⟨0, 0, .x 5, 0xFFFF, 15, false, .load (placed 8) false none false, none⟩], seq := 1 }
theorem witness_Fences : page.me.loadsDone page.me.seq = true ∧ page.gate 0 0 page.me.seq page.myCore.nextStore 7 = true ∧
    loading.me.loadsDone loading.me.seq = false := by decide +kernel
/-- A thread that names an own-scratch word in x1, with a lock register. -/
def locked (off : Nat) (k : Option Lock) : State := s0.putMe { (s0.me.wx 1 (own off)) with lock := k }
theorem witness_LockedPair : PassesScratch (locked 8 none) 8 8 ((locked 8 none).me.rx 1) (ownAcc 8 8) ∧ (locked 8 none).me.ldlOpen = false ∧
    (locked 8 none).me.lock = none := by unfold PassesScratch; decide +kernel
theorem witness_LockedPair_other : (locked 8 (some ⟨scratchAt 0, 0, true⟩)).me.lock = some ⟨scratchAt 0, 0, true⟩ ∧ scratchAt 0 ≠ (ownAcc 8 8).loc := by
  decide +kernel
theorem witness_LockedPair_named : (locked 8 (some ⟨scratchAt 0 + 8, 0, true⟩)).me.lock = some ⟨(ownAcc 8 8).loc, 0, true⟩ ∧
    Counts (locked 8 (some ⟨scratchAt 0 + 8, 0, true⟩)) (ownAcc 8 8) ∧
    PassesScratch (locked 8 (some ⟨scratchAt 0 + 8, 0, true⟩)) 8 8 ((locked 8 (some ⟨scratchAt 0 + 8, 0, true⟩)).me.rx 1) (ownAcc 8 8) := by
  unfold PassesScratch Counts Room; decide +kernel
theorem witness_WholeVectorAccess : Passes (pageAt 0x10000) 0 64 (effAddr (pageAt 0x10000) 1 0 64) false (placed 64) ∧
    Passes (pageAt 0x10000) 1 64 (effAddr (pageAt 0x10000) 1 0 64) false (placed 64) ∧ (pageAt 0x10000).me.todo = none ∧
    ∀ k < 8, Room (pageAt 0x10000) (levelOf 0 (vecWord (placed 64) k).loc) 8 := by
  unfold Passes Room; decide +kernel
theorem witness_WholeVectorAccess_fault : (pageAt 0x10008).me.acquiring = false ∧ (pageAt 0x10008).me.todo = none ∧
    (pageAt 0x10008).resolve 0 0 (effAddr (pageAt 0x10008) 1 0 64) 0 64 64 false = .fault 2 ∧
    (pageAt 0x10008).resolve 0 0 (effAddr (pageAt 0x10008) 1 0 64) 1 64 64 false = .fault 2 := by decide +kernel
/-- Elements of 32 bits (the default format), every lane active, index vector 0: each element lies at x1. -/
theorem witness_ElementAccess : Governed (pageAt 0x10000) vmemFmt ∧
    PassesEls (pageAt 0x10000) 0 32 ((pageAt 0x10000).me.rk 0) (gatherAddr (pageAt 0x10000) 1 2 32) (fun _ => placed 4) ∧
    PassesEls (pageAt 0x10000) 1 32 ((pageAt 0x10000).me.rk 0) (strideAddr (pageAt 0x10000) 1 2 32) (fun _ => placed 4) ∧
    (pageAt 0x10000).me.todo = none ∧ ∀ j ∈ actives 32 ((pageAt 0x10000).me.rk 0), Room (pageAt 0x10000) (levelOf 0 (placed 4).loc) 16 := by
  unfold Governed PassesEls Room; decide +kernel

/-! ### Witnesses: accesses at their homes, misses, requests -/

/-- A store of context 0 of core 0 queued there. -/
def entry (a : Acc) (written : Bool) : StoreEnt := ⟨0, 0, 0, 0, a, 0x1122334455667788, levelOf 0 a.loc, none, false, written, false, false, false⟩
def queued (a : Acc) (written : Bool) : State :=
  s0.setCore 0 { s0.core 0 with storeQ := [entry a written], nextStore := 1, ctxs := [(0, { Ctx.reset with run := .ready, seq := 1 })] }

theorem nobody_waits (s : State) (h : s.waiting = []) (loc n : Nat) : Unwatched s loc n := by
  intro e he; rw [h] at he; exact absurd he (List.not_mem_nil)

theorem witness_StoreReachesScratch : (queued (ownAcc 8 8) false).entryOf 0 0 = some (entry (ownAcc 8 8) false) ∧ isScratch (ownAcc 8 8).loc = true ∧
    0 < (ownAcc 8 8).size ∧ (queued (ownAcc 8 8) false).storeWay 0 (entry (ownAcc 8 8) false) = true ∧
    (queued (ownAcc 8 8) false).mayWrite 0 (entry (ownAcc 8 8) false) = true := by decide +kernel
theorem witness_StoreReachesScratch_unwatched : Unwatched (queued (ownAcc 8 8) false) (ownAcc 8 8).loc 8 :=
  nobody_waits _ (by decide +kernel) _ _
theorem witness_StoreReachesSlice : (queued (placed 8) false).entryOf 0 0 = some (entry (placed 8) false) ∧ isDram (placed 8).loc = true ∧
    (queued (placed 8) false).storeWay 0 (entry (placed 8) false) = true ∧ (queued (placed 8) false).mayWrite 0 (entry (placed 8) false) = true := by decide +kernel
theorem witness_StoreIsAcknowledged : (queued (placed 8) true).entryOf 0 0 = some (entry (placed 8) true) ∧ (entry (placed 8) true).written = true ∧
    (queued (placed 8) true).inMesh (.store 0 0 0) = false ∧ ((queued (placed 8) true).core 0).ackTurn (entry (placed 8) true) = true ∧
    (queued (placed 8) false).entryOf 0 0 = some (entry (placed 8) false) ∧ (entry (placed 8) false).written = false := by decide +kernel
/-- A thread whose window at place 1 waits for `p`. -/
def waitsFor (p : Pend) (q : List StoreEnt) (pois : Map Bool) : State :=
  let t := { Ctx.reset with run := .ready, seq := 2, windows := [⟨1, 1, .x 5, 0xFFFF, 9, false, p, none⟩] }
  { s0.setCore 0 { s0.core 0 with storeQ := q, nextStore := 1, ctxs := [(0, t)] } with poison := pois }
def ldOwn : Pend := .load (ownAcc 8 8) false none false
theorem witness_LoadResultLands : ∃ w, (waitsFor ldOwn [] []).homeWin 0 0 1 = some w ∧ w.pend = ldOwn ∧
    ((waitsFor ldOwn [] []).ctx 0 0).past = [] ∧ ((waitsFor ldOwn [] []).ctx 0 0).behind 1 (ownAcc 8 8).loc 8 = false ∧ isScratch (ownAcc 8 8).loc = true ∧ (ownAcc 8 8).l1 = false ∧
    ((waitsFor ldOwn [] []).core 0).forward 0 0 1 (ownAcc 8 8).loc 8 = Fwd.mem ∧ anyPoison (waitsFor ldOwn [] []).poison (ownAcc 8 8).loc 8 = false :=
  ⟨⟨1, 1, .x 5, 0xFFFF, 9, false, ldOwn, none⟩, by decide +kernel⟩
theorem witness_LoadResultLands_forwarded : (waitsFor ldOwn [entry (ownAcc 8 8) false] []).homeWin 0 0 1 ≠ none ∧
    ((waitsFor ldOwn [entry (ownAcc 8 8) false] []).core 0).forward 0 0 1 (ownAcc 8 8).loc 8 = Fwd.val 0x1122334455667788 := by decide +kernel
theorem witness_LoadResultLands_poisoned : (waitsFor ldOwn [] [((ownAcc 8 8).loc / 8, true)]).homeWin 0 0 1 ≠ none ∧
    anyPoison (waitsFor ldOwn [] [((ownAcc 8 8).loc / 8, true)]).poison (ownAcc 8 8).loc 8 = true := by decide +kernel
def casOwn : Pend := .atomic (ownAcc 8 8) 7 5 0 none none
theorem witness_AtomicAtScratch : ∃ w, (waitsFor casOwn [] []).homeWin 0 0 1 = some w ∧ w.pend = casOwn ∧
    ((waitsFor casOwn [] []).ctx 0 0).past = [] ∧ ((waitsFor casOwn [] []).ctx 0 0).loadsDone 1 = true ∧ (waitsFor casOwn [] []).fencesOpen 0 0 1 = true ∧
    (waitsFor casOwn [] []).storesDone 0 0 1 (ownAcc 8 8).loc 8 = true ∧ (waitsFor casOwn [] []).bankHas (ownAcc 8 8).loc 2 = false ∧ (waitsFor casOwn [] []).lockFree (ownAcc 8 8).loc 0 0 1 = true ∧
    anyPoison (waitsFor casOwn [] []).poison (ownAcc 8 8).loc 8 = false :=
  ⟨⟨1, 1, .x 5, 0xFFFF, 9, false, casOwn, none⟩, by decide +kernel⟩
theorem witness_AtomicAtScratch_unwatched : Unwatched (waitsFor casOwn [] []) (ownAcc 8 8).loc 8 := nobody_waits _ (by decide +kernel) _ _
/-- The compare succeeds on a word of zeros with x[D] = 0, and fails with x[D] = 1. -/
theorem witness_AtomicAtScratch_both : BitVec.ofNat 64 (valueAt (waitsFor casOwn [] []) (ownAcc 8 8).loc 8) = 0 ∧ (0 : BitVec 64) ≠ 1 := by decide +kernel
theorem witness_DirtyLineIsWrittenBack : mfind ({ s0 with lines := [(5, ⟨7, 0, true, 0, 0⟩), (6, ⟨7, 0, false, 0, 0⟩)] } : State).lines 5 = some ⟨7, 0, true, 0, 0⟩ ∧
    mfind ({ s0 with lines := [(5, ⟨7, 0, true, 0, 0⟩), (6, ⟨7, 0, false, 0, 0⟩)] } : State).lines 6 = some ⟨7, 0, false, 0, 0⟩ := by decide +kernel
/-- A core with one miss of a thread, a prefetch or an engine. -/
def missOf (ctx : Nat) (prefetch requested : Bool) : Miss := ⟨2, 0, 0, ctx, 0, 0, 0x20000, prefetch, requested, false, []⟩
def missing (m : Miss) : State := s0.setCore 0 { s0.core 0 with misses := [m] }
theorem witness_TranslationWalk : nth ((missing (missOf 0 false false)).core 0).misses 0 = some (missOf 0 false false) ∧
    (missOf 0 false false).requested = false ∧ (missOf 0 false false).failed = false ∧
    (⟨placeEntry.te0, placeEntry.te1⟩ : TlbEntry).malformed = false ∧ (⟨0, 0xFFFFFFFFFFFFFFFF⟩ : TlbEntry).malformed = true ∧
    (missOf 0 false false).ctx < 64 := by decide +kernel
theorem witness_TranslationWalk_prefetch : nth ((missing (missOf 0 true false)).core 0).misses 0 = some (missOf 0 true false) := by decide +kernel
theorem witness_TranslationWalk_engine : nth ((missing (missOf 64 false false)).core 0).misses 0 = some (missOf 64 false false) ∧
    64 ≤ (missOf 64 false false).ctx := by decide +kernel
def req0 : PageReq := ⟨0x20000, 0, 0, 0, 0, 0⟩
def holding : State := { s0 with heldReqs := [req0], pkg := { s0.pkg with prbase := 0x7000004 } }
theorem witness_HeldRequestReachesRing : holding.heldReqs = req0 :: [] ∧ holding.ringSize = some 4 ∧ holding.pkg.prUsed < 2 ^ 4 := by decide +kernel
def asked0 : State := { missing (missOf 0 false true) with reqs := [req0] }
theorem witness_PageRequestAnswers : missOf 0 false true ∈ (asked0.core 0).misses ∧ (missOf 0 false true).gen = 0 ∧ (asked0.ctx 0 0).gen = 0 ∧
    req0 ∈ asked0.reqs ∧ req0.id.toNat = 0 ∧ req0.va = (missOf 0 false true).va := by decide +kernel
/-- RESULT 0 and RESULT 1 for that request. -/
theorem witness_PageRequestAnswers_results : (0 : BitVec 64).toNat / 2 ^ 16 % 2 = 0 ∧ (0x10000 : BitVec 64).toNat / 2 ^ 16 % 2 = 1 ∧
    (0x10000 : BitVec 64).toNat / 2 ^ 17 % 2 ^ 15 = 0 ∧ (0x10000 : BitVec 64).toNat / 2 ^ 15 % 2 = 0 ∧ (0x10000 : BitVec 64).toNat % 2 ^ 15 = 0 ∧
    (0x10000 : BitVec 64).toNat / 2 ^ 32 = 0 := by decide +kernel
theorem witness_PageRequestAnswers_discarded : (0x20000 : BitVec 64).toNat / 2 ^ 17 % 2 ^ 15 ≠ 0 ∧ (0x8000 : BitVec 64).toNat / 2 ^ 15 % 2 ≠ 0 := by decide +kernel
theorem witness_InterleaveSharesNoByte : [0, 7, 160].Nodup ∧ (2 + 64) * 4096 ≤ chanSize ∧ (stripe [0, 7, 160] 64 2 5000).isSome = true := by decide +kernel
theorem witness_OwnScratchAddresses : 0xFFFF8 < 2 ^ 20 ∧ 0xFFFF8 % 8 = 0 ∧ 0xFFFF9 % 8 ≠ 0 := by decide

/-! ### Witnesses: vectors -/

theorem witness_Governed : Governed s0 vmemFmt ∧ Governed s0 vintFmt ∧ Governed s0 vcmpFmt ∧ Governed s0 vfltFmt ∧ Governed s0 vmoveFmt ∧
    Governed s0 vbcastFmt ∧ Governed s0 vredFmt ∧ Governed s0 vredfFmt ∧ Governed s0 vdot4Fmt ∧ Governed s0 vfdotFmt ∧ Governed s0 vcvtFmt ∧
    Governed s0 vpackFmt ∧ Governed s0 vunpkFmt := by unfold Governed; decide +kernel
theorem witness_PrefixGovernsTheNext : s0.me.latchOn = false ∧ (after (.fmt 4 4 4 0 0 0) s0).me.latchOn = true := by decide +kernel
/-- A prefix that no row takes: SCM 1 with codes of DS8. -/
def badPrefix : State := after (.fmt 11 11 11 0 0 1) s0
theorem witness_PrefixRowsAreChecked : ¬Governed badPrefix vmemFmt ∧ ¬Governed badPrefix vintFmt ∧ ¬Governed badPrefix vcmpFmt ∧
    ¬Governed badPrefix vfltFmt ∧ ¬Governed badPrefix vmoveFmt ∧ ¬Governed badPrefix vbcastFmt ∧ ¬Governed badPrefix vredFmt ∧
    ¬Governed badPrefix vredfFmt ∧ ¬Governed badPrefix vdot4Fmt ∧ ¬Governed badPrefix vfdotFmt ∧ ¬Governed badPrefix vcvtFmt ∧
    ¬Governed badPrefix vpackFmt ∧ ¬Governed badPrefix vunpkFmt := by unfold Governed; decide +kernel

/-! ### Witnesses: threads, traps, waiting -/

/-- Core 0 with these contexts, context 0 executing. -/
def threads (l : List (Nat × Ctx)) : State := s0.setCore 0 { s0.core 0 with ctxs := l }
/-- A ready context with x registers, ehandler and lock as given. -/
def ready0 (x : List (Nat × Word)) (h : Word) : Ctx := { Ctx.reset with run := .ready, x := x, ehandler := h }

theorem nothing_reads_late (s : State) (a n : Nat) (h : ∀ k ∈ List.range n, ReadsMine s (a + k)) : ∀ k, k < n → ReadsMine s (a + k) :=
  fun k hk => h k (List.mem_range.2 hk)

/-- x1 names core 1, x2 is the child's pc, x3 the payload's descriptor. -/
def sender (dest pc w : Word) : State := threads [(0, ready0 [(1, dest), (2, pc), (3, w)] 0)]
theorem witness_SpawnAndSend : packageNamed ((sender 4 0x100 (8 * 2 ^ 32)).me.rx 1) = s0.pkg.pkgnum.toNat ∧
    coreNamed ((sender 4 0x100 (8 * 2 ^ 32)).me.rx 1) ∉ s0.pkg.retired ∧ ((sender 4 0x100 (8 * 2 ^ 32)).me.rx 2).toNat % 4 = 0 ∧
    (8 * 2 ^ 32 : Word).toNat / 2 ^ 41 = 0 ∧ (8 * 2 ^ 32 : Word).toNat / 2 ^ 21 % 2 ^ 11 = 0 ∧ (8 * 2 ^ 32 : Word).toNat / 2 ^ 32 % 2 ^ 9 = 8 ∧
    (sender 4 0x100 (8 * 2 ^ 32)).me.acquiring = false := by decide +kernel
theorem witness_SpawnAndSend_reads : ∀ k, k < 8 → ReadsMine (sender 4 0x100 (8 * 2 ^ 32)) (scratchAt 0 + k) :=
  nothing_reads_late _ _ _ (by unfold ReadsMine; decide +kernel)
/-- The longest payload, at the end of scratch, and one byte further. -/
theorem witness_SpawnAndSend_edges : (2 ^ 40 + 0xFFF00 : Word).toNat / 2 ^ 32 % 2 ^ 9 = 256 ∧ 0xFFF00 + 256 ≤ 0x100000 ∧ ¬(0xFFF01 + 256 ≤ 0x100000) := by
  decide +kernel
theorem witness_SpawnAndSend_traps : packageNamed ((sender 0x800 0 0).me.rx 1) ≠ s0.pkg.pkgnum.toNat ∧ ((sender 4 2 0).me.rx 2).toNat % 4 ≠ 0 := by
  decide +kernel
theorem witness_LaunchFromTheDevice : PassesScratch (sender (own 64) 0 0) 64 64 ((sender (own 64) 0 0).me.rx 1) (ownAcc 64 64) ∧
    scratchCore (ownAcc 64 64).loc = 0 := by unfold PassesScratch; decide +kernel
/-- Core (1, 0)'s scratch by an absolute address. -/
def other64 : Word := BitVec.ofNat 64 (12 * 2 ^ 56 + 2 ^ 45 + 64)
theorem witness_LaunchFromTheDevice_other : PassesScratch (sender other64 0 0) 64 64 ((sender other64 0 0).me.rx 1) ⟨other64, scratchAt 1 + 64, 64, false, 0, 0⟩ ∧
    scratchCore (scratchAt 1 + 64) ≠ 0 := by unfold PassesScratch; decide +kernel

def trap1 : PendTrap := ⟨2, 0, 5, 0x104, false, false, 0⟩
def handled : State := threads [(0, { ready0 [] 0x40 with pc := 0x104 })]
theorem witness_TakingATrap : NoneDue (handled.ctx 0 0) ∧ CanEnter (handled.ctx 0 0) trap1 := by unfold NoneDue CanEnter; decide +kernel
theorem witness_TakingATrap_lock : ({ ready0 [] 0x40 with lock := some ⟨scratchAt 0, 0, true⟩ } : Ctx).lock = some ⟨scratchAt 0, 0, true⟩ := by decide +kernel
theorem witness_TakingATrap_no_handler : NoneDue s0.me ∧ s0.me.landed = true ∧ s0.me.ehandler = 0 := by unfold NoneDue; decide +kernel
theorem witness_TakingATrap_later : loading.me.landed = false := by decide +kernel
/-- A thread whose first window is due with a fault. -/
def faulted : State := threads [(0, { ready0 [] 0x40 with windows := [⟨0, 0, .x 5, 0xFFFF, 0, false, .none, some (.fault 3 0 9)⟩] })]
theorem witness_TakingATrap_due : ∃ q r, faulted.me.landed = true ∧ faulted.me.ehandler ≠ 0 ∧ faulted.me.windows = q :: r ∧ q.left = 0 ∧ q.held = false ∧
    q.res = some (.fault 3 0 9) := ⟨⟨0, 0, .x 5, 0xFFFF, 0, false, .none, some (.fault 3 0 9)⟩, [], by decide +kernel⟩
theorem witness_TrapInstruction : handled.me.latchOn = false ∧ NoneDue handled.me ∧ handled.me.landed = true ∧ handled.me.ehandler ≠ 0 ∧
    handled.me.pc.toNat % 4 = 0 := by unfold NoneDue; decide +kernel
theorem witness_ReturnAndTrapEvents_entry : (threads [(0, { ready0 [] 0x40 with trapPend := some trap1 })]).me.trapPend = some trap1 ∧
    NoneDue (threads [(0, { ready0 [] 0x40 with trapPend := some trap1 })]).me ∧
    CanEnter (threads [(0, { ready0 [] 0x40 with trapPend := some trap1 })]).me trap1 := by unfold NoneDue CanEnter; decide +kernel
/-- A thread stalled since cycle 0, at cycle 2^26 + 1 or 2^26. -/
def stuck (now : Word) : State := { threads [(0, { ready0 [] 0x40 with run := .stalled, stallAt := some 0 })] with clock := now }
theorem witness_ReturnAndTrapEvents_watchdog : (stuck 0x4000001).me.run = .stalled ∧ (stuck 0x4000001).me.stallAt = some 0 ∧
    (stuck 0x4000001).me.todo = none ∧
    (stuck 0x4000001).me.trapPend = none ∧ (stuck 0x4000001).me.poisonDue = [] ∧ (stuck 0x4000001).stopped (stuck 0x4000001).me.lid = false ∧
    NoneDue (stuck 0x4000001).me ∧ CanEnter (stuck 0x4000001).me ⟨7, 0, 0, (stuck 0x4000001).me.pc, false, false, 0⟩ ∧
    (mget Ctl.reset s0.ctl 0).wdlim.toNat ≠ 0 ∧ (mget Ctl.reset s0.ctl 0).wdlim.toNat < (stuck 0x4000001).clock.toNat - 0 := by
  unfold NoneDue CanEnter; decide +kernel
theorem witness_ReturnAndTrapEvents_watchdog_not : (stuck 0x4000000).clock.toNat - 0 ≤ (mget Ctl.reset s0.ctl 0).wdlim.toNat := by decide +kernel
theorem witness_ReturnAndTrapEvents_register : RegName.x 1 ≠ .x 0 ∧ RegName.x 1 ≠ .k 0 ∧ handled.me.run ≠ .idle ∧ RegName.x 1 ∉ handled.me.regErr := by
  decide +kernel
theorem witness_ReturnAndTrapEvents_read : decode 0x00611010 = some (.add 3 1 2) ∧ RegName.x 1 ∈ (Instr.add 3 1 2).reads ∧
    RegName.x 1 ∈ ({ ready0 [] 0x40 with regErr := [.x 1] } : Ctx).regErr ∧ ({ ready0 [] 0x40 with regErr := [.x 1] } : Ctx).windows = [] := by
  decide +kernel
/-- ADD x3, x1, x2 is legal, and waits where a division into x2 is due and has no result. -/
def waitsDue : State := threads [(0, { ready0 [] 0x40 with windows := [⟨0, 0, .x 2, 0xFFFF, 0, false, .none, none⟩] })]
theorem witness_ReturnAndTrapEvents_waits : exec (.add 3 1 2) waitsDue ≠ .next waitsDue.illegal ∧ (waitsDue.ctx 0 0).todo = none ∧
    (∃ q ∈ (Instr.add 3 1 2).touches, q ∈ (waitsDue.ctx 0 0).dueRegs) ∧
    exec (.add 3 1 2) handled ≠ .next handled.illegal ∧ (handled.ctx 0 0).todo = none ∧
    ¬∃ q ∈ (Instr.add 3 1 2).touches, q ∈ (handled.ctx 0 0).dueRegs := by
  have ne : ∀ t : State, (after (.add 3 1 2) t).me.pc ≠ t.illegal.me.pc → exec (.add 3 1 2) t ≠ .next t.illegal := by
    intro t h e
    rw [show after (.add 3 1 2) t = t.illegal by unfold after; rw [e]] at h
    exact h rfl
  exact ⟨ne _ (by decide +kernel), by decide +kernel, by decide +kernel, ne _ (by decide +kernel), by decide +kernel, by decide +kernel⟩
theorem witness_ExitAndHalt : Quiet s0 ∧ ¬(s0.myCore.mx.owner = some 0 ∧ s0.myCore.mx.op ≠ none) := by unfold Quiet; decide +kernel
theorem witness_ExitAndHalt_waits : ¬Quiet (queued (placed 8) false) := by unfold Quiet; decide +kernel
/-- Context 0 has yielded: to context 16, which is of its lane group and has not issued since; and with nobody left to wait for. -/
def yielded (seen : List Nat) : State := threads [(0, { ready0 [] 0 with yieldFor := some seen }), (4, ready0 [] 0)]
theorem witness_YieldPassesOver : (page.pick 0 0 []).isSome = true ∧ ((yielded []).ctx 0 0).yieldFor = some [] ∧
    4 / 16 = 0 / 16 ∧ (yielded []).canIssue 0 4 = true ∧ ((yielded []).ctx 0 4).cls = ((yielded []).ctx 0 0).cls ∧ 4 ∉ ([] : List Nat) ∧
    (yielded []).choices 0 0 0 [] = [4] ∧ ((yielded []).endYields 0 0 []).ctx 0 0 = (yielded []).ctx 0 0 ∧
    ((yielded [4]).endYields 0 0 []).ctx 0 0 = { (yielded [4]).ctx 0 0 with yieldFor := none } := by decide +kernel

/-- A thread that names the own-scratch word at 8 in x1, with x2 = v; the word holds w. -/
def onWord (w : Nat) (v : Word) (pois : Map Bool) : State :=
  { (threads [(0, ready0 [(1, own 8), (2, v)] 0x40)]).rawWrite (scratchAt 0 + 8) 8 w with poison := pois }
theorem witness_WaitingOnAWord : PassesScratch (onWord 5 5 []) 8 8 ((onWord 5 5 []).me.rx 1) (ownAcc 8 8) ∧
    (onWord 5 5 []).me.behind (onWord 5 5 []).me.seq (ownAcc 8 8).loc 8 = false ∧
    (onWord 5 5 []).storesDone 0 0 (onWord 5 5 []).me.seq (ownAcc 8 8).loc 8 = true ∧
    isRemote (ownAcc 8 8).loc = false ∧ (onWord 5 5 []).bankHas (ownAcc 8 8).loc 0 = false ∧ RequestComes (onWord 5 5 []) (ownAcc 8 8).loc ∧
    anyPoison (onWord 5 5 []).poison (ownAcc 8 8).loc 8 = false ∧ BitVec.ofNat 64 (valueAt (onWord 5 5 []) (ownAcc 8 8).loc 8) = (onWord 5 5 []).me.rx 2 := by
  unfold PassesScratch RequestComes; decide +kernel
theorem witness_WaitingOnAWord_differs : BitVec.ofNat 64 (valueAt (onWord 6 5 []) (ownAcc 8 8).loc 8) ≠ (onWord 6 5 []).me.rx 2 := by decide +kernel
theorem witness_WaitingOnAWord_poisoned : anyPoison (onWord 5 5 [((ownAcc 8 8).loc / 8, true)]).poison (ownAcc 8 8).loc 8 = true := by decide +kernel
/-- A store of context 0 is queued for a word that context 5 waits on. -/
def storedOn (w : Wait) : State :=
  s0.setCore 0 { s0.core 0 with storeQ := [entry (ownAcc 8 8) false], nextStore := 1, ctxs := [(0, { Ctx.reset with run := .ready, seq := 1 }), (5, { Ctx.reset with run := .waiting w })] }
def wWord : Wait := .word (own 8) (scratchAt 0 + 8) 0 7
def wBar : Wait := .bar (own 8) (scratchAt 0 + 8) false 7 (some 100) 0
theorem witness_WaitingOnAWord_woken : (storedOn wWord).entryOf 0 0 = some (entry (ownAcc 8 8) false) ∧
    (storedOn wWord).mayWrite 0 (entry (ownAcc 8 8) false) = true ∧ (storedOn wWord).storeWay 0 (entry (ownAcc 8 8) false) = true ∧
    ((storedOn wWord).ctx 0 5).run = .waiting wWord ∧ anyPoison (storedOn wWord).poison (scratchAt 0 + 8) 8 = false ∧
    ((storedOn wBar).ctx 0 5).run = .waiting wBar ∧ (storedOn wBar).mayWrite 0 (entry (ownAcc 8 8) false) = true := by decide +kernel
theorem witness_Tables : Tables (storedOn wWord) ∧ Tables (storedOn wBar) ∧ Tables s0 := by unfold Tables; decide +kernel

/-- The group words of the clauses: bad, no members, one member, two members, three members with one arrived, two members with one arrived,
the greatest membership. -/
def groupWords : List Nat := [2 ^ 41, 0, 1, 2, 3 + 2 ^ 20, 2 + 2 ^ 20, 2 ^ 20 - 1]
theorem witness_GroupInstructions : ∀ w ∈ groupWords, (onWord w 0 []).me.run = .ready ∧ GroupPasses (onWord w 0 []) ((onWord w 0 []).me.rx 1) (ownAcc 8 8) ∧
    anyPoison (onWord w 0 []).poison (ownAcc 8 8).loc 8 = false ∧ Releasable (onWord w 0 []) (ownAcc 8 8).loc ∧
    valueAt (onWord w 0 []) (ownAcc 8 8).loc 8 = w := by
  unfold GroupPasses PassesScratch Releasable RequestComes; decide +kernel
theorem witness_GroupInstructions_tables : ∀ w ∈ groupWords, Tables (onWord w 0 []) := by unfold Tables; decide +kernel
theorem witness_GroupInstructions_timeout : ((storedOn wBar).ctx 0 5).run = .waiting wBar ∧ 100 < ({ storedOn wBar with clock := 101 } : State).clock.toNat ∧
    ({ storedOn wBar with clock := 100 } : State).clock.toNat ≤ 100 := by decide +kernel
def poisoned8 : State := onWord 5 5 [((ownAcc 8 8).loc / 8, true)]
theorem witness_PoisonedGroupWord : GroupPasses poisoned8 (poisoned8.me.rx 1) (ownAcc 8 8) ∧ anyPoison poisoned8.poison (ownAcc 8 8).loc 8 = true ∧
    NoneDue poisoned8.me ∧ poisoned8.me.landed = true ∧ poisoned8.me.ehandler ≠ 0 := by
  unfold GroupPasses PassesScratch NoneDue RequestComes; decide +kernel
theorem witness_BarrierWires : (threads [(0, ready0 [(1, 3)] 0)]).me.rx 1 = 3 ∧ (threads [(0, ready0 [(1, 3)] 0)]).me.latchOn = false ∧
    ((threads [(0, ready0 [(1, 2)] 0)]).me.rx 1).toNat % 4 ≠ 3 := by decide +kernel
def wired (due : Nat) : State := { s0 with pkg := { s0.pkg with wireDue := [(0, 2, 0, due)] } }
theorem witness_BarrierWires_release : (0, 2, 0, 0) ∈ (wired 0).pkg.wireDue ∧ 0 ≤ (wired 0).clock.toNat ∧
    ∀ due, (0, 2, 0, due) ∈ (wired 9).pkg.wireDue → (wired 9).clock.toNat < due := by
  refine ⟨by decide +kernel, by decide +kernel, fun due h => ?_⟩
  have : due = 9 := by simpa [wired] using h
  subst this; decide +kernel
def hbarWaits (due : List (Nat × Nat × Nat × Nat)) : State :=
  { threads [(0, { Ctx.reset with run := .waiting (.hbar 2 5 0 (some 4)) })] with clock := 4, pkg := { s0.pkg with wireDue := due } }
theorem witness_BarrierWires_timeout : (hbarWaits []).me.run = .waiting (.hbar 2 5 0 (some 4)) ∧ 4 ≤ (hbarWaits []).clock.toNat ∧
    (¬∃ due, (baseOf 0, 2, wireIdx 2 0, due) ∈ (hbarWaits []).pkg.wireDue ∧ 0 ≤ due ∧ due ≤ 4) ∧
    (baseOf 0, 2, wireIdx 2 0, 4) ∈ (hbarWaits [(0, 2, 0, 4)]).pkg.wireDue := by
  refine ⟨by decide +kernel, by decide +kernel, fun ⟨d, h, _⟩ => ?_, by decide +kernel⟩
  exact absurd h (List.not_mem_nil)
/-- A release is found in its cycle and after it, and frees a thread that began no later than it; one begun later stays. -/
theorem witness_BarrierWires_found :
    (wired 0).pkg.wireDue.find? (fun e => decide (e.1 = 0 ∧ e.2.1 = 2 ∧ e.2.2.1 = 0 ∧ e.2.2.2 ≤ (wired 0).clock.toNat)) = some (0, 2, 0, 0) ∧
    (let s := hbarWaits [(0, 2, 0, 3)];
      s.pkg.wireDue.find? (fun e => decide (e.1 = 0 ∧ e.2.1 = 2 ∧ e.2.2.1 = 0 ∧ e.2.2.2 ≤ s.clock.toNat)) = some (0, 2, 0, 3) ∧
      3 < s.clock.toNat) := by decide +kernel
theorem witness_BarrierWires_tables : Tables (hbarWaits []) ∧ Tables (wired 0) := by unfold Tables; decide +kernel

/-- Firmware on the translation core of chiplet 0: x1 and x2 are an entry's words. -/
def firmware (x1 x2 x3 : Word) : State :=
  { s0.setCore 512 { s0.core 512 with ctxs := [(0, ready0 [(1, x1), (2, x2), (3, x3)] 0)] } with cur := { s0.cur with core := 512, ctx := 0 } }
theorem witness_TranslationInstructions : (firmware placeEntry.te0 placeEntry.te1 0).me.latchOn = false ∧ 512 ≤ (firmware 0 0 0).cur.core ∧
    packageNamed ((firmware 0 0 0).me.rx 3) = 0 ∧ chipletOf (coreNamed ((firmware 0 0 0).me.rx 3)) = 512 - 512 ∧ coreNamed 0 ∉ s0.pkg.retired ∧
    (⟨(firmware placeEntry.te0 placeEntry.te1 0).me.rx 1, (firmware placeEntry.te0 placeEntry.te1 0).me.rx 2⟩ : TlbEntry).malformed = false ∧
    (⟨(firmware 0 0xC00000000000000 0).me.rx 1, (firmware 0 0xC00000000000000 0).me.rx 2⟩ : TlbEntry).malformed = true := by decide +kernel
theorem witness_TranslationInstructions_tlbi : ((firmware 0 0 0).me.rx 2).toNat / 2 ^ 12 % 4 ≠ 3 ∧ ((firmware 0 0 0).core 0).tlb = [] ∧
    ((firmware 0 0x3000 0).me.rx 2).toNat / 2 ^ 12 % 4 = 3 ∧ packageNamed ((firmware 0 0 0x800).me.rx 3) ≠ 0 ∧ s0.cur.core < 512 := by decide +kernel

/-! ### Witnesses: copy engines, tags, query sets -/

theorem witness_CopyInstructions : Tables s0 ∧ s0.me.latchOn = false ∧ s0.myCore.copyFifo.length < 16 ∧ s0.me.copyQ.length < 16 := by
  unfold Tables; decide +kernel
/-- The smallest and the last window, one byte beyond, and one that is not aligned. -/
theorem witness_CopyInstructions_windows : (64 * 2 ^ 32 : Word).toNat / 2 ^ 32 % 2 ^ 21 = 64 ∧ (64 * 2 ^ 32 : Word).toNat % 2 ^ 21 + 64 ≤ 0xFC000 ∧
    (0xFBFC0 + 64 ≤ 0xFC000) ∧ ¬(0xFC000 + 64 ≤ 0xFC000) ∧ (32 * 2 ^ 32 : Word).toNat / 2 ^ 32 % 2 ^ 21 % 64 ≠ 0 := by decide +kernel
def cmd0 (w0 w1 w2 : Word) (running : Bool) (done : Nat) : CopyCmd := ⟨0, 0, 0, 0, 0, 0, 0, 0, w0, w1, w2, 0, false, running, done, none, [], [], 0, false, none, []⟩
def rec0 (r : Option Word) : RecSlot := ⟨0, 0, r, [], false⟩
/-- A command at the head of channel 0's FIFO, and its place in the thread's record queue. -/
def copying (c : CopyCmd) (ch : Chan) : State :=
  s0.setCore 0 { s0.core 0 with copyFifo := [c], nextCmd := 1, chans := [(0, ch)], ctxs := [(0, { ready0 [] 0 with copyQ := [rec0 none] })] }
def unbound : Chan := ⟨none, false, 0⟩
def bound0 (gen : BitVec 32) : Chan := ⟨some ⟨0, gen, 0, 0, 128, []⟩, false, 0⟩
theorem witness_CopyInstructions_busy : ChannelBusy (copying (cmd0 0 0 0 false 0) unbound) 0 :=
  .inl ⟨cmd0 0 0 0 false 0, by decide +kernel, by decide +kernel⟩
theorem witness_CopyInstructions_full : 16 ≤ (s0.setCore 0 { s0.core 0 with copyFifo := List.replicate 16 (cmd0 0 0 0 false 0) }).myCore.copyFifo.length ∧
    16 ≤ ({ ready0 [] 0 with copyQ := List.replicate 16 (rec0 none) } : Ctx).copyQ.length := by decide +kernel
theorem witness_CopyInstructions_bound : ((copying (cmd0 0 0 0 false 0) (bound0 0)).myCore.chan 0).bound ≠ none ∧ (s0.myCore.chan 0).bound = none ∧
    (copying (cmd0 0 0 0 false 0) unbound).me.copyQ = rec0 none :: [] ∧ (rec0 none).record = none ∧ (rec0 (some 5)).record = some 5 ∧ s0.me.copyQ = [] := by
  decide +kernel
theorem witness_CopyCommands_start : ((copying (cmd0 8 0 0 false 0) unbound).core 0).headCmd 0 = some (cmd0 8 0 0 false 0) ∧
    (copying (cmd0 8 0 0 false 0) unbound).gate 0 0 0 0 5 = true := by decide +kernel
/-- The thread's earlier store is not acknowledged yet, so the command waits. -/
theorem witness_CopyCommands_wait :
    (s0.setCore 0 { s0.core 0 with copyFifo := [{ cmd0 8 0 0 false 0 with seq := 1, qpos := 1 }], storeQ := [entry (placed 8) false], nextStore := 1 }).gate 0 0 1 1 5 = false := by
  decide +kernel
/-- A fill of eight bytes of own scratch, and an accumulate's alignment. -/
def fill8 : CopyCmd := cmd0 (2 * 2 ^ 60 + 8) 0x77 (own 64) true 0
/-- A command that keeps no translation runs where it is at its channel's head, well formed and not stopped. -/
theorem runs_of (s : State) (n k : Nat) (c : CopyCmd) (h : (s.core n).headCmd k = some c ∧ c.running = true ∧ c.malformed = false ∧ c.stop = none ∧
    c.done < c.len ∧ c.words = []) (p : c.pieces = []) : Running s n k c := by
  obtain ⟨h1, h2, h3, h4, h5, h6⟩ := h
  refine ⟨h1, h2, h3, h4, h5, h6, fun _ _ _ _ _ _ g => ?_⟩
  rw [CopyCmd.piece, p] at g; exact nomatch g
theorem witness_CopyCommands_fill : fill8.w0.toNat / 2 ^ 60 = 2 ∧ Running (copying fill8 (bound0 0)) 0 0 fill8 ∧ fill8.kind = 2 ∧
    (copying fill8 (bound0 0)).resolve 0 0 (fill8.w2 + BitVec.ofNat 64 0) 1 8 1 false = .ok ⟨own 64, scratchAt 0 + 64, 8, false, 0, 0⟩ ∧
    scratchCore (scratchAt 0 + 64) = 0 ∧ scratchOff (scratchAt 0 + 64) + 8 ≤ 0 + 128 ∧
    ∀ m ∈ ((copying fill8 (bound0 0)).core 0).misses, m.ctx = 64 + 0 → m.failed = false :=
  ⟨by decide +kernel, runs_of _ _ _ _ (by decide +kernel) rfl, by decide +kernel⟩
/-- A fill of a page whose walk has found nothing. -/
def fillVa : CopyCmd := cmd0 (2 * 2 ^ 60 + 8) 0x77 0x20000 true 0
def fillFailed : State :=
  let s := copying fillVa unbound
  s.setCore 0 { s.core 0 with misses := [{ missOf 64 false false with failed := true }] }
theorem witness_CopyCommands_failed : Running fillFailed 0 0 fillVa ∧ fillVa.kind = 2 ∧ fillVa.w2 + BitVec.ofNat 64 fillVa.done = 0x20000 ∧
    bits (0x20000 : Word) 56 4 < 8 ∧ fillVa.piece 1 0 0x20000 8 = none ∧ ∃ m ∈ (fillFailed.core 0).misses, m.ctx = 64 + 0 ∧
      m.region = regionOf 0x20000 ∧ m.space = fillVa.space ∧ m.failed = true :=
  ⟨runs_of _ _ _ _ (by decide +kernel) rfl, by decide +kernel⟩
theorem clean_reset : (∀ src dst q, s0.misrouted src dst q = false) ∧ ∀ loc n, anyPoison s0.poison loc n = false := by
  refine ⟨fun src dst q => ?_, fun loc n => ?_⟩
  · simp [State.misrouted, State.fateOf, State.reset, Pkg.reset, mfind]
  · simp [anyPoison, State.reset, mget]
def raw8 : CopyCmd := cmd0 8 (own 64) (own 128) true 0
theorem witness_CopyCommands_raw : Running (copying raw8 unbound) 0 0 raw8 ∧ raw8.raw = true ∧ raw8.kind = 0 ∧
    raw8.w1 + BitVec.ofNat 64 (raw8.done / raw8.row * raw8.spitch + 0) = ownVa 64 ∧
    raw8.w2 + BitVec.ofNat 64 (raw8.done / raw8.row * raw8.dpitch + 0) = ownVa 128 :=
  ⟨runs_of _ _ _ _ (by decide +kernel) rfl, by decide +kernel⟩
/-- The source's last word but one of scratch, and the destination's last unit. -/
theorem witness_CopyCommands_edges : 2 ^ 20 - 144 + 144 ≤ 2 ^ 20 ∧ 2 ^ 20 - 16 + 16 ≤ 2 ^ 20 := by decide
/-- A converting copy of two elements of 16 bits to 32, an accumulate of one element of 16 bits into an INT64, a gather of one entry of 8 bytes. -/
def conv4 : CopyCmd := cmd0 (7 * 2 ^ 52 + 6 * 2 ^ 48 + 4) (own 64) (own 128) true 0
theorem witness_CopyCommands_converts : Running (copying conv4 unbound) 0 0 conv4 ∧ conv4.kind = 0 ∧ conv4.raw = false ∧
    convCodes.contains conv4.src = true ∧ convCodes.contains conv4.dst = true ∧ conv4.w1 + BitVec.ofNat 64 0 = ownVa 64 ∧
    conv4.w2 + BitVec.ofNat 64 0 = ownVa 128 := ⟨runs_of _ _ _ _ (by decide +kernel) rfl, by decide +kernel⟩
def acc2 : CopyCmd := cmd0 (2 ^ 60 + 7 * 2 ^ 52 + 2) (own 64) (own 128) true 0
theorem witness_CopyCommands_accumulates : Running (copying acc2 unbound) 0 0 acc2 ∧ acc2.kind = 1 ∧ convCodes.contains acc2.src = true ∧
    8 ≤ fmtWidth acc2.src ∧ acc2.w1 + BitVec.ofNat 64 acc2.done = ownVa 64 ∧ 64 % (fmtWidth acc2.src / 8) = 0 ∧ 128 % acc2.accSize = 0 ∧
    (copying acc2 unbound).accFree 0 acc2 ⟨ownVa 128, scratchAt 0 + 128, acc2.accSize, false, 0, 0⟩ = true := ⟨runs_of _ _ _ _ (by decide +kernel) rfl, by decide +kernel⟩
def gather8 (e : Option Word) : CopyCmd := { cmd0 (3 * 2 ^ 60 + 8) (own 256) (own 128) true 0 with w3 := 8 * 2 ^ 32 + 1, entry := e }
theorem witness_CopyCommands_gathers : Running (copying (gather8 (some (own 64))) unbound) 0 0 (gather8 (some (own 64))) ∧
    (gather8 (some (own 64))).kind = 3 ∧ (gather8 (some (own 64))).entry = some (own 64) ∧ (own 64).toNat % 8 = 0 ∧ own 64 = ownVa 64 ∧
    own 128 = ownVa 128 := ⟨runs_of _ _ _ _ (by decide +kernel) rfl, by decide +kernel⟩
/-- The list's word holds an aligned place, or one that is not. -/
def listed (e : Word) : State := (copying (gather8 none) unbound).rawWrite (scratchAt 0 + 256) 8 e.toNat
theorem witness_CopyCommands_listed : Running (listed (own 64)) 0 0 (gather8 none) ∧ own 256 = ownVa 256 ∧ valueAt (listed (own 64)) (scratchAt 0 + 256) 8 = (own 64).toNat ∧
    Running (listed (own 65)) 0 0 (gather8 none) ∧ valueAt (listed (own 65)) (scratchAt 0 + 256) 8 = (own 65).toNat ∧ (own 65).toNat % 8 ≠ 0 := by
  exact ⟨runs_of _ _ _ _ (by decide +kernel) rfl, by decide +kernel, by decide +kernel, runs_of _ _ _ _ (by decide +kernel) rfl, by decide +kernel⟩
theorem witness_CopyCommands_ended : (cmd0 8 (own 64) (own 128) true 8).ended = true ∧ (8 : Nat) < 2 ^ 32 ∧
    ({ cmd0 8 0 0 true 8 with stop := some (3, own 64) } : CopyCmd).stop = some (3, own 64) := by decide +kernel
theorem witness_CopyCommands_unbind : (((s0.setCore 0 { s0.core 0 with chans := [(0, bound0 5)] }).core 0).chan 0).bound = some ⟨0, 5, 0, 0, 128, []⟩ ∧
    (s0.ctx 0 0).gen ≠ 5 ∧ (s0.ctx 0 0).gen = 0 ∧ ((s0.setCore 0 { s0.core 0 with chans := [(0, bound0 5)] }).core 0).headCmd 0 = none := by decide +kernel

/-- A tag table of one set of four ways, with `ts` in it, and x1 = k. -/
def tagged (on : Bool) (ts : Map Word) (k : Word) : State :=
  s0.setCore 0 { s0.core 0 with tagEn := on, tags := ts, ctxs := [(0, ready0 [(1, k)] 0)] }
theorem mfind_four (c : Core) (k : Word) (h : ∀ m, m < 4 → mfind c.tags m ≠ some k) (hs : c.tagSets = 0) : ∀ m, m / 4 = tagSetOf c k → mfind c.tags m ≠ some k := by
  intro m hm; apply h; simp [tagSetOf, hs, Nat.mod_one] at hm; omega
theorem witness_TagInstructions_off : (tagged false [] 5).myCore.tagEn = false ∧ (tagged true [] (BitVec.allOnes 64)).me.rx 1 = BitVec.allOnes 64 := by decide +kernel
theorem witness_TagInstructions_miss : (tagged true [(0, 5)] 7).myCore.tagEn = true ∧ (7 : Word) ≠ BitVec.allOnes 64 ∧ Misses (tagged true [(0, 5)] 7).myCore 7 ∧
    Victim (tagged true [(0, 5)] 7).myCore 7 1 := by
  refine ⟨by decide +kernel, by decide, mfind_four _ _ (by decide +kernel) (by decide +kernel), by decide +kernel, .inl ⟨by decide +kernel, ?_⟩⟩
  intro m _ hm
  obtain rfl : m = 0 := by omega
  decide +kernel
theorem witness_TagInstructions_full : Victim (tagged true [(0, 5), (1, 6), (2, 8), (3, 9)] 7).myCore 7 3 := by
  refine ⟨by decide +kernel, .inr ⟨?_, by decide +kernel⟩⟩
  intro m hm
  have h4 : m < 4 := by
    have : tagSetOf (tagged true [(0, 5), (1, 6), (2, 8), (3, 9)] 7).myCore 7 = 0 := by decide +kernel
    omega
  have : ∀ m, m < 4 → mfind (tagged true [(0, 5), (1, 6), (2, 8), (3, 9)] 7).myCore.tags m ≠ none := by decide +kernel
  exact this m h4
theorem witness_TagInstructions_hit : HitAt (tagged true [(0, 5), (2, 7)] 7).myCore 7 2 := by
  refine ⟨by decide +kernel, by decide +kernel, fun m _ hm => ?_⟩
  have : ∀ m, m < 2 → mfind (tagged true [(0, 5), (2, 7)] 7).myCore.tags m ≠ some 7 := by decide +kernel
  exact this m hm

/-- A thread with queries, and the rendezvous table given. -/
def querying (q : BitVec 256) (l : List Rendezvous) : State :=
  s0.setCore 0 { s0.core 0 with rvt := l, ctxs := [(0, { ready0 [(1, 9)] 0 with qm := q })] }
def rv (p holder : Nat) (isSealed : Bool) : Rendezvous := ⟨p, 0, 0, 9, isSealed, holder, 2, 1⟩
theorem witness_RendezvousInstructions : (querying 1 []).gate 0 0 (querying 1 []).me.seq (querying 1 []).myCore.nextStore 1 = true ∧
    (querying 0 []).me.qm = 0 ∧ (querying 1 []).me.qm ≠ 0 ∧ entryFor (querying 1 [rv 0 0 false]) 1 = some (rv 0 0 false) ∧
    entryFor (querying 1 [rv 16 20 true]) 1 = some (rv 16 20 true) ∧ entryFor (querying 1 [rv 16 20 false]) 1 = some (rv 16 20 false) ∧
    entryFor (querying 1 []) 1 = none := by decide +kernel
theorem witness_RendezvousInstructions_waits : (queued (placed 8) false).gate 0 0 1 1 1 = false := by decide +kernel
theorem witness_RendezvousInstructions_place : NewPlace (querying 1 []) 0 := by
  refine ⟨?_, .inl ⟨by decide +kernel, fun q _ h => absurd h (Nat.not_lt_zero q)⟩⟩
  unfold PlaceFree; decide +kernel
/-- Every place of the table is taken, by entries of other nodes. -/
def rvFull : State := querying 1 ((List.range 64).map fun p => { rv p 20 false with node := 8 })
theorem witness_RendezvousInstructions_full : entryFor rvFull 1 = none ∧ ∀ p, p < 64 ∨ p / 16 = 0 / 16 → ¬PlaceFree rvFull p := by
  refine ⟨by decide +kernel, fun p hp => ?_⟩
  have h64 : p < 64 := by omega
  have : ∀ p, p < 64 → ¬PlaceFree rvFull p := by unfold PlaceFree; decide +kernel
  exact this p h64
/-- x2 is the child's pc; v1 the queries that stay. -/
def splits (q keep : BitVec 256) (pc : Word) (busy : Bool) : State :=
  let t := { ready0 [(2, pc)] 0 with qm := q, v := [(1, keep.setWidth 512)] }
  s0.setCore 0 { s0.core 0 with ctxs := (0, t) :: if busy then (List.range 63).map fun i => (i + 1, ready0 [] 0) else [] }
theorem witness_SplitInstruction : (splits 3 1 0x40 false).me.run = .ready ∧ ((splits 3 1 2 false).me.rx 2).toNat % 4 ≠ 0 ∧
    (splits 3 3 0x40 false).me.qm &&& ~~~((splits 3 3 0x40 false).me.rv 1).setWidth 256 = 0 ∧
    (splits 3 1 0x40 false).me.qm &&& ~~~((splits 3 1 0x40 false).me.rv 1).setWidth 256 ≠ 0 ∧
    (splits 3 1 0x40 false).me.qm &&& ((splits 3 1 0x40 false).me.rv 1).setWidth 256 ≠ 0 ∧
    (splits 2 1 0x40 false).me.qm &&& ((splits 2 1 0x40 false).me.rv 1).setWidth 256 = 0 ∧
    (splits 3 1 0x40 false).gate 0 0 (splits 3 1 0x40 false).me.seq (splits 3 1 0x40 false).myCore.nextStore 1 = true := by decide +kernel
theorem witness_SplitInstruction_takes : ((splits 3 1 0x40 false).ctx 0 1).run = .idle ∧ (splits 3 1 0x40 false).heldFrom 0 1 0 0 = false ∧
    ((splits 3 1 0x40 false).ctx 0 0).run ≠ .idle ∧ ∀ j, j < 64 → ((splits 3 1 0x40 true).ctx 0 j).run ≠ .idle := by decide +kernel

/-- A queue of CAP 4 in slot 0 at offset 0x1000, with entries (5, 7) expanded and (9, 3) not, its visited table of 4 places at 0x2000. -/
def qState (best : Nat) (e1 : Nat) (x : List (Nat × Word)) : State :=
  let t := { ready0 x 0 with qtb := 0x10 }
  let s := s0.setCore 0 { s0.core 0 with ctxs := [(0, t)] }
  let put := fun (s : State) (o n v : Nat) => s.rawWrite (scratchAt 0 + 0x1000 + o) n v
  put (put (put (put (put (put (put s 0 4 2) 4 4 4) 12 4 best) 20 1 2) 32 8 0x2000) 64 8 (5 * 2 ^ 32 + 2 ^ 31 + 7)) 72 8 e1
theorem clean_all (s : State) (h : s.poison = []) (off n : Nat) : Clean s off n := by
  intro k _ _; rw [h]; rfl
theorem runs_all (s : State) (h : s.waiting = []) (m : s.cur.mixed = []) : Runs s := by
  refine ⟨?_, m⟩
  intro e he; rw [h] at he; exact absurd he (List.not_mem_nil)
theorem witness_QueueOk : (qState 0 (9 * 2 ^ 32 + 3) []).me.latchOn = false ∧ Runs (qState 0 (9 * 2 ^ 32 + 3) []) ∧
    slotAt (qState 0 (9 * 2 ^ 32 + 3) []) ((0 : Word).toNat % 256) = 0x1000 ∧ (∀ wr, QueueOk (qState 0 (9 * 2 ^ 32 + 3) []) wr 8 0x1000) ∧
    QueueOk (qState 0 (9 * 2 ^ 32 + 3) []) true 24 0x1000 ∧ UnitActs (qState 0 (9 * 2 ^ 32 + 3) []) true [(0x1000 + 64, 8 * 4)] ∧
    fieldAt (qState 0 (9 * 2 ^ 32 + 3) []) 0x1004 4 = 4 := by
  have q : ∀ wr, QueueOk (qState 0 (9 * 2 ^ 32 + 3) []) wr 8 0x1000 := fun wr =>
    ⟨by decide +kernel, by unfold UnitActs; cases wr <;> decide +kernel, clean_all _ (by decide +kernel) _ _, clean_all _ (by decide +kernel) _ _,
      by decide +kernel⟩
  exact ⟨by decide +kernel, runs_all _ (by decide +kernel) (by decide +kernel), by decide +kernel, q,
    ⟨by decide +kernel, by unfold UnitActs; decide +kernel, clean_all _ (by decide +kernel) _ _, clean_all _ (by decide +kernel) _ _,
      by decide +kernel⟩, by unfold UnitActs; decide +kernel, by decide +kernel⟩
/-- The step register holds the queue's step; it does not, with an unexpanded entry second; and with every entry expanded. -/
theorem witness_QueueBest : fieldAt (qState 6 (9 * 2 ^ 32 + 3) []) 0x100C 4 = 6 ∧ fieldAt (qState 0 (9 * 2 ^ 32 + 3) []) 0x100C 4 ≠ 6 ∧
    (entriesAt (qState 0 (9 * 2 ^ 32 + 3) []) 0x1000).map expanded = [true, false] ∧
    (entriesAt (qState 0 (9 * 2 ^ 32 + 2 ^ 31 + 3) []) 0x1000).map expanded = [true, true] := by decide +kernel
/-- A slot that ends at the last byte it may, and one a slot further. -/
theorem witness_QueueInitAndCount_edges : (0xFC000 - 256) + 256 ≤ 0xFC000 ∧ 0xFC000 < 0xFC000 + 256 ∧
    0xFC000 < slotAt (s0.putMe { s0.me with qtb := 0xFC0 }) 0 + strideOf (s0.putMe { s0.me with qtb := 0xFC0 }) := by decide +kernel
theorem witness_QueueInitAndCount : UnitActs (qState 0 0 []) true [(0x1000, 40)] ∧ UnitActs (qState 0 0 []) true [(0x2000, 4 * 2 ^ 2)] ∧
    fieldAt (qState 0 0 []) (0x1000 + 16) 8 / 2 ^ 37 = 0 ∧ fieldAt (qState 0 0 []) (0x1000 + 24) 8 / 2 ^ 32 = 0 ∧
    fieldAt (qState 0 0 []) (0x1000 + 20) 1 % 32 = 2 ∧ fieldAt (qState 0 0 []) (0x1000 + 32) 8 = 0x2000 ∧ mostOf (qState 0 0 []) = 24 ∧
    0x1000 + 40 ≤ 0x2000 := by unfold UnitActs; decide +kernel
theorem witness_QueueInitAndCount_clean : Clean (qState 0 0 []) (0x1000 + 16) 24 ∧ Clean (qState 0 0 []) 0x1000 40 ∧ Clean (qState 0 0 []) (0x2000 / 8 * 8) 8 :=
  ⟨clean_all _ (by decide +kernel) _ _, clean_all _ (by decide +kernel) _ _, clean_all _ (by decide +kernel) _ _⟩
theorem witness_VisitedTables : UnitActs (qState 0 0 []) true [] ∧ UnitActs (qState 0 0 []) true [(0x1000 + 16, 24)] ∧ UnitActs (qState 0 0 []) true [(0x2000, 4 * 2 ^ 2)] ∧
    (1 : BitVec 2) ≠ 0 ∧ el ((qState 0 0 []).me.rv 1) 32 0 = 0 ∧ slotAt (qState 0 0 []) 0 = 0x1000 ∧ ∀ k, mget false (qState 0 0 []).poison k = false := by
  refine ⟨by unfold UnitActs; decide +kernel, by unfold UnitActs; decide +kernel, by unfold UnitActs; decide +kernel, by decide, by decide +kernel,
    by decide +kernel, fun k => ?_⟩
  rw [show (qState 0 0 []).poison = [] by decide +kernel]; rfl

/-! ### Witnesses: curves, gangs, power -/

/-- A thread of codes with D = 2 axes of B = 4 bits, and its x registers. -/
def curve (x : List (Nat × Word)) : State := threads [(0, { ready0 x 0 with cvd := 66 })]
theorem witness_CurveCodes : Shaped (curve []) 2 4 ∧ s0.me.cvd = 0 := by unfold Shaped; decide +kernel
/-- The whole box, an empty box, and the corners of the box (1, 1) to (2, 2), whose codes are 3 and 12. -/
theorem witness_CurveCodes_boxes : InBox 2 4 0 255 5 ∧ ¬InBox 2 4 3 0 5 ∧ InBox 2 4 3 12 3 ∧ InBox 2 4 3 12 12 ∧ ¬InBox 2 4 3 12 13 := by
  unfold InBox; decide +kernel
theorem witness_CurveCodes_next : InBox 2 4 0 255 7 ∧ ∀ e, InBox 2 4 0 255 e → 7 ≤ e → 7 ≤ e := ⟨by unfold InBox; decide +kernel, fun _ _ h => h⟩
theorem witness_CurveCodes_none : ∀ e, e < 256 → ¬InBox 2 4 3 0 e := by unfold InBox; decide +kernel
/-- CVSPLIT of the whole box at level 2 with room for one range, into own scratch; quad x4 to x7, x1 = OUT. -/
def splitBox (w out : Word) : State := curve [(1, out), (4, 0), (5, 255), (6, 0), (7, w)]
theorem witness_CurveSplit : (splitBox 0x20001 (own 0)).me.todo = none ∧ quadWord (splitBox 0x20001 (own 0)) 1 3 = 0x20001 ∧ (0x20001 : Word).toNat / 2 ^ 23 = 0 ∧
    (0x20001 : Word).toNat / 2 ^ 13 % 8 = 0 ∧ (0x20001 : Word).toNat % 2 ^ 13 ≤ 4096 ∧ (own 0).toNat % 8 = 0 ∧
    (splitBox 0x20001 (own 0)).me.acquiring = false ∧
    (∀ k, k < 2 → (splitBox 0x20001 (own 0)).resolve 0 0 (own 0 + BitVec.ofNat 64 (8 * k)) 1 8 8 false = .ok ⟨own (8 * k), scratchAt 0 + 8 * k, 8, false, 0, 0⟩ ∧
      (splitBox 0x20001 (own 0)).belowMark (scratchAt 0 + 8 * k) 8 = true) := by decide +kernel
/-- No store of the thread is pending: every level has room for as many as an instruction may have. -/
theorem room_of_none (s : State) (k : Nat) (h : (s.core s.cur.core).storeQ = []) (w : (s.ctx s.cur.core s.cur.ctx).windows = []) (hk : k ≤ 4095) (lv : Nat) : Room s lv k := by
  have w' : ((s.core s.cur.core).ctx s.cur.ctx).windows = [] := w
  unfold Room State.pend Core.pendAt; rw [h, w']; simpa using hk
theorem witness_CurveSplit_room (lv : Nat) : Room (splitBox 0x20001 (own 0)) lv 2 := room_of_none _ _ (by decide +kernel) (by decide +kernel) (by decide) lv
/-- Its bad words: N above 4,096, a reserved bit, and OUT misaligned. -/
theorem witness_CurveSplit_bad : ¬((4097 : Word).toNat % 2 ^ 13 ≤ 4096) ∧ (4096 : Word).toNat % 2 ^ 13 ≤ 4096 ∧ (0x800000 : Word).toNat / 2 ^ 23 ≠ 0 ∧
    (own 4).toNat % 8 ≠ 0 ∧ (0x20000 : Word).toNat % 2 ^ 13 = 0 := by decide +kernel

/-- Core 0 with this slice, context 0 executing with x1 = v and mxprog = w. -/
def sliced (m : Slice) (v w : Word) : State := s0.setCore 0 { s0.core 0 with mx := m, ctxs := [(0, { ready0 [(1, v)] 0 with mxprog := w })] }
def op0 : MxOp := ⟨0, false, 0, own 0, 64, own 0x2000, 2 ^ 32 * 32 + 64, 7, 7, 6, 1, 0, 0, false, 0, 0⟩
def owned : Slice := { Slice.reset with owner := some 0 }
theorem witness_MatrixInstructions : (sliced owned 0 0).me.latchOn = false ∧ Owns (sliced owned 0 0) ∧ (sliced owned 0 0).myCore.mx.op = none ∧
    (sliced owned 0 0).myCore.mx.form = none ∧ ¬Owns (sliced { owned with owner := some 3 } 0 0) ∧ (sliced Slice.reset 0 0).myCore.mx.owner = none ∧
    (sliced { owned with op := some op0 } 0 0).myCore.mx.op ≠ none ∧ 4 < ((sliced owned 5 0).me.rx 1).toNat % 8 ∧ ((sliced owned 4 0).me.rx 1).toNat % 8 ≤ 4 ∧
    (sliced { owned with grant := true } 0 0).myCore.mx.grant = true ∧ (sliced owned 0 0).myCore.mx.grant = false := by unfold Owns; decide +kernel
theorem witness_MatrixInstructions_gone : InBlock 0 0 0 ∧ 0 ∈ ({ s0 with pkg := { s0.pkg with retired := [0] } } : State).pkg.retired := by
  unfold InBlock; decide +kernel
theorem witness_MatrixInstructions_stopped : (3 * 2 ^ 60 : Word).toNat / 2 ^ 60 = 3 ∧ (4 * 2 ^ 60 : Word).toNat / 2 ^ 60 = 4 ∧ (2 * 2 ^ 60 : Word).toNat / 2 ^ 60 ≠ 3 := by
  decide +kernel
/-- The default formats BF16 by BF16 into FP32 are legal for MXGO; a saturating prefix is not. -/
theorem witness_MatrixInstructions_formats : s0.me.pfx.legal = true ∧ s0.me.pfx.sat = false ∧ s0.me.pfx.scm = 0 ∧ (7, 7, 6, 0) ∈ mxRows ∧
    (after (.fmt 0 0 0 0 1 0) s0).me.pfx.sat = true := by decide +kernel
/-- A drain of accumulator 0 to own scratch, 256 bytes a row; then one with a reserved bit and one misaligned. -/
def draining (x : List (Nat × Word)) : State := s0.setCore 0 { s0.core 0 with mx := owned, ctxs := [(0, ready0 x 0)] }
def drainAt (q : Nat) : Acc := ⟨own (q / 32 * 256 + 8 * (q % 32)), scratchAt 0 + (q / 32 * 256 + 8 * (q % 32)), 8, false, 0, 0⟩
theorem witness_MatrixDrain : (draining [(4, own 0), (5, 256)]).me.todo = none ∧ Governed (draining [(4, own 0), (5, 256)]) mxdrainFmt ∧ Owns (draining [(4, own 0), (5, 256)]) ∧
    (draining [(4, own 0), (5, 256)]).myCore.mx.op = none ∧ (draining [(4, own 0), (5, 256)]).me.acquiring = false ∧
    (own 0).toNat % 64 = 0 ∧ (256 : Word).toNat % 64 = 0 ∧ fmtWidth 6 = 32 ∧ scalesRead 0 = 0 := by unfold Governed Owns; decide +kernel
theorem resolve_own (s : State) (off : Nat) (h : off < 2 ^ 20) (g : off % 8 = 0) : s.resolve 0 0 (own off) 1 8 8 false = .ok (ownAcc off 8) := by
  have hv : (own off).toNat = 14 * 2 ^ 56 + off := by simp only [own, BitVec.toNat_ofNat]; omega
  have hf : bits (own off) 56 4 = 14 := by unfold bits; rw [hv]; omega
  have h0 : bits (own off) 60 4 = 0 := by unfold bits; rw [hv]; omega
  have h1 : bits (own off) 20 36 = 0 := by unfold bits; rw [hv]; omega
  have h2 : bits (own off) 0 20 = off := by unfold bits; rw [hv]; omega
  have h3 : formOk (own off) = true := by simp [formOk, hf, h0, h1]
  have h4 : (own off).toNat % 8 = 0 := by omega
  simp [State.resolve, h3, h4, hf, State.scratchForm, h2, ownAcc]
theorem witness_MatrixDrain_stores (q : Nat) (h : q < 64 * 32) :
    (draining [(4, own 0), (5, 256)]).resolve 0 0 (own 0 + BitVec.ofNat 64 (q / 32 * 256 + 8 * (q % 32))) 1 8 8 false = .ok (drainAt q) ∧
    (draining [(4, own 0), (5, 256)]).belowMark (drainAt q).loc 8 = true := by
  have ha : own 0 + BitVec.ofNat 64 (q / 32 * 256 + 8 * (q % 32)) = own (q / 32 * 256 + 8 * (q % 32)) := by
    exact BitVec.eq_of_toNat_eq (by simp only [own, BitVec.toNat_add, BitVec.toNat_ofNat]; omega)
  have hc : scratchCore (drainAt q).loc = 0 := by simp only [scratchCore, drainAt, scratchAt]; omega
  have hs : isScratch (drainAt q).loc = true ∧ isDram (drainAt q).loc = false := by simp only [isScratch, isDram, drainAt, scratchAt]; constructor <;> simp <;> omega
  refine ⟨?_, ?_⟩
  · rw [ha, resolve_own _ _ (by omega) (by omega)]; rfl
  · have hn : ((draining [(4, own 0), (5, 256)]).core 0).chans = [] := by decide +kernel
    rw [State.belowMark, hc, hn]; simp
theorem witness_MatrixDrain_room (lv : Nat) : Room (draining [(4, own 0), (5, 256)]) lv (64 * 32) :=
  room_of_none _ _ (by decide +kernel) (by decide +kernel) (by decide) lv
theorem witness_MatrixDrain_bad : quadWord (draining [(4, own 0), (5, 2 ^ 32)]) 1 1 = 2 ^ 32 ∧ (2 ^ 32 : Word).toNat / 2 ^ 32 ≠ 0 ∧ (own 32).toNat % 64 ≠ 0 := by
  decide +kernel
/-- A gang of one core: its form complete, with a grant and awake. -/
def ganged (form op : Option MxOp) : State :=
  let m := { owned with form := form, op := op, grant := true, awake := true }
  s0.setCore 0 { s0.core 0 with mx := m, ctxs := [(0, { ready0 [] 0 with run := .waiting .gang, seq := 1 })] }
theorem inBlock_one (r : Nat) (h : InBlock 0 0 r) : r = 0 := by
  obtain ⟨h1, h2, h3⟩ := h; omega
theorem witness_GangOperations_start : BlockReady (ganged (some op0) none) 0 (fun _ => op0) ∧ OpOk op0 true ∧ OpOk op0 false ∧ Agree op0 op0 := by
  refine ⟨fun r h => ?_, ?_, ?_, ?_⟩
  · have h0 : ((ganged (some op0) none).core 0).mx.g.toNat = 0 := by decide +kernel
    rw [h0] at h
    rw [inBlock_one r h]; decide +kernel
  · unfold OpOk; decide +kernel
  · unfold OpOk; decide +kernel
  · unfold Agree; decide +kernel
/-- K = 0 is refused. -/
theorem witness_GangOperations_refused : BlockReady (ganged (some { op0 with w3 := 64 }) none) 0 (fun _ => { op0 with w3 := 64 }) ∧ ¬OpOk { op0 with w3 := 64 } true := by
  refine ⟨fun r h => ?_, by unfold OpOk; decide +kernel⟩
  have h0 : ((ganged (some { op0 with w3 := 64 }) none).core 0).mx.g.toNat = 0 := by decide +kernel
  rw [h0] at h
  rw [inBlock_one r h]; decide +kernel
theorem witness_GangOperations_waits : InBlock 0 0 0 ∧ ((ganged none none).core 0).mx.form = none := by unfold InBlock; decide +kernel
def readsOk (r : Reads) : Bool := match r with
  | .ok _ _ => true
  | .wait | .fail _ _ _ => false
def readsFail (r : Reads) : Bool := match r with
  | .fail _ _ _ => true
  | .wait | .ok _ _ => false
theorem witness_GangOperations_group : ((ganged none (some op0)).core 0).mx.op = some op0 ∧ ((ganged none (some op0)).core 0).mx.grant = true ∧
    ((ganged none (some op0)).core 0).mx.awake = true ∧ (ganged none (some op0)).gate 0 0 0 0 5 = true ∧
    readsOk ((ganged none (some op0)).groupReads [(0, op0)] 0 32).1 = true := by decide +kernel
/-- An A row outside every page of the thread fails its group. -/
theorem witness_GangOperations_fails : readsFail ((ganged none (some { op0 with w0 := own 1 })).groupReads [(0, { op0 with w0 := 15 * 2 ^ 56 })] 0 32).1 = true := by
  decide +kernel
/-- Its grant is due for revocation and its owner waits in the next MXGO. -/
def revokedNext : State :=
  let s := ganged (some op0) (some op0)
  s.setCore 0 { s.core 0 with mx := { (s.core 0).mx with revoking := true } }
theorem witness_GangOperations_revoked : (revokedNext.core 0).mx.op = some op0 ∧ (revokedNext.core 0).mx.grant = true ∧ (revokedNext.core 0).mx.awake = true ∧
    revokedNext.gate 0 0 0 0 5 = true ∧ (revokedNext.core 0).mx.revoking = true ∧ (revokedNext.core 0).mx.form ≠ none ∧
    readsOk (revokedNext.groupReads [(0, op0)] 0 32).1 = true := by decide +kernel
theorem witness_GangOperations_no_failed : ∀ m ∈ (s0.core 0).misses, m.ctx = 80 → m.failed = false := by decide +kernel
theorem witness_GangOperations_read : s0.resolve 0 0 (own 64) 0 64 1 false = .ok (ownAcc 64 64) ∧ (own 64).toNat % 64 + 64 ≤ 64 ∧
    s0.belowMark (ownAcc 64 64).loc 64 = true ∧ anyPoison s0.poison (ownAcc 64 64).loc 64 = false := by decide +kernel

/-- Slices of chiplet 0 that ask for, hold or wait for power; caps 0x40 each. -/
def power (m : Slice) (now : Word) (cap : BitVec 64) : State := { s0.setCore 0 { s0.core 0 with mx := m } with clock := now, pkg := { s0.pkg with gcap := cap } }
theorem other_slice (m : Slice) (now : Word) (cap : BitVec 64) (r : Nat) (h : r ≠ 0) : ((power m now cap).core r).mx = Slice.reset := by
  have : (power m now cap).core r = Core.reset := by
    show ((s0.setCore 0 _).core r) = _
    rw [State.core_setCore_ne _ _ h]; rfl
  rw [this]; rfl
theorem witness_PowerEvents_grant : (0 < 512 ∧ chipletOf 0 = 0 ∧ ((power { Slice.reset with request := true } 0 s0.pkg.gcap).core 0).mx.request = true) ∧
    (∀ r, r < 512 → chipletOf r = 0 → ((power { Slice.reset with request := true } 0 s0.pkg.gcap).core r).mx.request = true → 0 < 0 ∨ (0 = 0 ∧ 0 ≤ r)) ∧
    Free (power { Slice.reset with request := true } 0 s0.pkg.gcap).pkg.lastGrant 0 0 ∧
    inChiplet (power { Slice.reset with request := true } 0 s0.pkg.gcap) 0 (·.grant) < capOf (power { Slice.reset with request := true } 0 s0.pkg.gcap) 0 := by
  refine ⟨by decide +kernel, fun r _ _ _ => .inr ⟨rfl, Nat.zero_le r⟩, fun t h => ?_, by unfold inChiplet capOf; decide +kernel⟩
  rw [show (power { Slice.reset with request := true } 0 s0.pkg.gcap).pkg.lastGrant = [] by decide +kernel] at h
  exact absurd h (by simp [mfind])
/-- Cap 1 is held by another core, so the request waits; and a grant 7 cycles ago makes it wait too. -/
theorem witness_PowerEvents_wait : capOf (power { Slice.reset with grant := true } 0 1) 0 ≤ inChiplet (power { Slice.reset with grant := true } 0 1) 0 (·.grant) ∧
    ¬Free [(0, 3)] 0 10 ∧ Free [(0, 3)] 0 11 := by
  refine ⟨by unfold inChiplet capOf; decide +kernel, fun h => ?_, fun t h => ?_⟩
  · exact absurd (h 3 (by decide)) (by decide)
  · have : t = 3 := by simpa [mfind] using h.symm
    subst this; decide
theorem witness_PowerEvents_awake : ((power { Slice.reset with grant := true, grantAt := 20 } 200 0).core 0).mx.grantAt + 180 ≤ (200 : Word).toNat ∧
    (199 : Word).toNat < ((power { Slice.reset with grant := true, grantAt := 20 } 199 0).core 0).mx.grantAt + 180 := by decide +kernel
theorem witness_PowerEvents_gate : ((power { Slice.reset with grant := true } 0x7FFFFF 0).core 0).mxidle ≠ 0 ∧
    0 + ((power { Slice.reset with grant := true } 0xFFFFFF 0).core 0).mxidle.toNat ≤ (0xFFFFFF : Word).toNat := by decide +kernel
/-- Two cores hold grants over a cap of 1: core 1, the higher, loses its own. -/
def twoHold : State := (power { Slice.reset with grant := true } 0 1).setCore 1 { s0.core 1 with mx := { Slice.reset with grant := true } }
theorem witness_PowerEvents_revoke : chipletOf 1 = 0 ∧ (twoHold.core 1).mx.grant = true ∧ (twoHold.core 1).mx.revoking = false ∧
    capOf twoHold 0 + inChiplet twoHold 0 (·.revoking) < inChiplet twoHold 0 (·.grant) ∧ ∀ r, r < 512 → chipletOf r = 0 → 1 < r → (twoHold.core r).mx.grant = false := by
  refine ⟨by decide +kernel, by decide +kernel, by decide +kernel, by unfold inChiplet capOf; decide +kernel, ?_⟩
  decide +kernel
theorem witness_PowerEvents_heat : 105 < (106 : BitVec 8).toNat ∧ (105 : BitVec 8).toNat ≤ 105 ∧ 115 ≤ (115 : BitVec 8).toNat ∧ ¬(115 ≤ (114 : BitVec 8).toNat) := by decide


/-! ### Witnesses: bank engines -/

/-- A page of channel 0: 64 KiB from offset 0x10000 of the channel, readable and writable, key index 0. -/
def chanEntry : TlbEntry := ⟨BitVec.ofNat 64 0x10000, BitVec.ofNat 64 (2 ^ 63 + 2 ^ 62 + 2 ^ 61 + 2 * 2 ^ 56 + 1)⟩
/-- A thread with a channel page, these x registers and bank records, and nothing cached. -/
def pusher (x : List (Nat × Word)) (q : List RecSlot) : State :=
  let s := s0.setCore 0 { s0.core 0 with tlb := [chanEntry], ctxs := [(0, { ready0 x 0x40 with bankQ := q })] }
  { s with pkg := { s.pkg with order := [0], usable := 2 ^ 28, iglim := 16, islim := 0, keys := mput s.pkg.keys 0 (genKey 0) } }
def full16 : List RecSlot := List.replicate 16 ⟨0, 0, none, [], false⟩
def bkLen : Word := 8 * 2 ^ 32
theorem witness_BankInstructions_push : (pusher [(1, bkLen)] []).me.pfx.fa ∈ [0, 1, 11, 12] ∧ (pusher [(1, bkLen)] []).me.pfx.fb ∈ [0, 1, 7] ∧
    (pusher [(1, bkLen)] []).me.pfx.fc ≤ 11 ∧ (pusher [(1, bkLen)] []).me.pfx.rm.toNat ≤ 5 ∧ (pusher [(1, bkLen)] []).me.pfx.scm ≤ 4 ∧
    ((pusher [(1, bkLen)] []).me.rx 1).toNat / 2 ^ 41 = 0 ∧ ((pusher [(1, bkLen)] []).me.rx 1).toNat / 2 ^ 21 % 2 ^ 11 = 0 ∧
    (pusher [(1, bkLen)] []).me.acquiring = false ∧ (pusher [(1, bkLen)] []).me.bankQ.length < 16 ∧ ¬((pusher [(1, bkLen)] full16).me.bankQ.length < 16) := by
  decide +kernel
theorem witness_BankInstructions_push_reads : ∀ k, k < 8 → ReadsMine (pusher [(1, bkLen)] []) (scratchAt 0 + 0 + k) :=
  nothing_reads_late _ _ _ (by unfold ReadsMine; decide +kernel)
theorem witness_BankInstructions_push_formats : (2 : Nat) ∉ [0, 1, 11, 12] ∧ ¬((2 ^ 41 : Word).toNat / 2 ^ 41 = 0) ∧ ¬((257 * 2 ^ 32 : Word).toNat / 2 ^ 32 % 2 ^ 9 ≤ 256) := by
  decide
/-- x1 names the channel page, x2 the own-scratch words, x3 counts them: two words from instruction 4. -/
def loader (src cnt : Word) : State := pusher [(1, 0x10008), (2, src), (3, cnt)] []
def chanAcc : Acc := ⟨0x10008, 0x10008, 1, true, 0, 0⟩
theorem witness_BankInstructions_load : (loader (own 64) 0x40002).me.latchOn = false ∧ Passes (loader (own 64) 0x40002) 1 1 0x10008 false chanAcc ∧
    Passes (loader (own 64) 0x40002) 0 1 0x10008 false chanAcc ∧
    ((loader (own 64) 0x40002).touchTlb 0 0 0x10008).resolveScratch 0 (own 64) 4 4 = .ok (ownAcc 64 4) ∧
    (loader (own 64) 0x40002).belowMark (ownAcc 64 4).loc 4 = true ∧ scratchCore (ownAcc 64 4).loc = 0 := by
  unfold Passes; decide +kernel
theorem witness_BankInstructions_page : ChannelPage (loader (own 64) 0x40002) 0x10008 := ⟨by decide, chanEntry, by decide +kernel, by decide⟩
theorem witness_BankInstructions_count : (0x40002 : Word).toNat / 2 ^ 26 = 0 ∧ (0x40002 : Word).toNat / 2 ^ 11 % 2 ^ 5 = 0 ∧
    (0x40002 : Word).toNat % 2 ^ 11 ≠ 0 ∧ (0x40002 : Word).toNat / 2 ^ 16 % 2 ^ 10 + (0x40002 : Word).toNat % 2 ^ 11 ≤ 1024 ∧
    (0x40000 : Word).toNat % 2 ^ 11 = 0 := by decide
theorem witness_BankInstructions_load_reads : ∀ k, k < 8 → ReadsMine (loader (own 64) 0x40002) (scratchAt 0 + 64 + k) :=
  nothing_reads_late _ _ _ (by unfold ReadsMine; decide +kernel)
theorem witness_BankInstructions_other : ((loader other64 1).touchTlb 0 0 0x10008).resolveScratch 0 other64 4 4 = .ok ⟨other64, scratchAt 1 + 64, 4, false, 0, 0⟩ ∧
    scratchCore (scratchAt 1 + 64) ≠ 0 := by decide +kernel
/-- A page of layout 0 belongs to no one channel. -/
theorem witness_BankInstructions_no_channel : Passes (pageAt 0x10000) 0 1 0x10000 false (placed 1) ∧ ¬ChannelPage (pageAt 0x10000) 0x10000 := by
  refine ⟨by unfold Passes; decide +kernel, fun ⟨_, e, h, g⟩ => ?_⟩
  have : (pageAt 0x10000).tlbOf (pageAt 0x10000).cur.core (pageAt 0x10000).me.space 0x10000 = some placeEntry := by decide +kernel
  rw [this] at h; cases h; exact absurd g (by decide)
def posted0 : RecSlot := ⟨0, 0, some 0x1000, [], false⟩
theorem witness_BankInstructions_pop : (pusher [] []).me.bankQ = [] ∧ (pusher [] [posted0]).me.bankQ = posted0 :: [] ∧ posted0.record = some 0x1000 ∧
    (pusher [] full16).me.bankQ = ⟨0, 0, none, [], false⟩ :: full16.tail := by decide +kernel

/-- A page of channel 0 from offset 0x10000, and a command that reads and writes there. -/
def page0 : BankPage := ⟨0, 0x10000, 0x10000, 0x10000, 64, 0, 0⟩
def bcmd : BankCmd := ⟨0, 0, 0, 0, 0, 0, 0, 0, 0, true, false, 0, [], 0, 0, 0, 0, [], 11, 1, 6, 1, false, 0, some page0, some page0⟩
def run0 : BankRun := ⟨bcmd, 3, 0, 0, none, none⟩
/-- Engine 0 at word 3 of that command, with registers, formats, loops, transfers and instruction words as given. -/
def engined (r : BankRun) (e : Map (BitVec 32)) (fa fb : BitVec 4) (loops : List (Nat × BitVec 32)) (xs : List Xfer) (ist : Map (BitVec 32)) : State :=
  s0.setEng 0 { Engine.reset with run := some r, e := e, fa := fa, fb := fb, fc := 6, rm := 1, loops := loops, xfers := xs, istore := ist }
/-- e1 = 0x10000, e2 = 1, e3 = 16, e4 = 0x10040, e5 = 0x10004, e6 = 1025, e7 = 0x8000, e8 = 64; e0 = 0. -/
def eregs : Map (BitVec 32) := [(1, 0x10000), (2, 1), (3, 16), (4, 0x10040), (5, 0x10004), (6, 1025), (7, 0x8000), (8, 64)]
def eng0 : State := engined run0 eregs 11 1 [] [] [(5, 0x80000000)]
theorem witness_BankScalarWords : (eng0.eng eng0.cur.ch).run = some run0 ∧ run0.ended = none ∧ ereg (eng0.eng 0) 1 % 64 = 0 ∧ ereg (eng0.eng 0) 5 % 64 ≠ 0 ∧
    3 + (2 : BitVec 10).toNat ≤ 1023 ∧ (eng0.eng 0).word 5 = 0x80000000 ∧ (eng0.eng 0).word 6 ≠ 0x80000000 ∧ ereg (eng0.eng 0) 0 = 0 ∧
    ereg (eng0.eng 0) 1 ≠ 0 ∧ (eng0.eng 0).loops.length < 4 ∧ ereg (eng0.eng 0) 0 + ereg (eng0.eng 0) 2 ≤ 1024 ∧
    1024 < ereg (eng0.eng 0) 0 + ereg (eng0.eng 0) 6 ∧ (eng0.eng 0).xfers = [] ∧ ereg (eng0.eng 0) 1 % 8 = 0 ∧ ereg (eng0.eng 0) 5 % 8 ≠ 0 ∧
    ereg (eng0.eng 0) 8 % 64 = 0 ∧ (eng0.eng 0).loops = [] := by decide +kernel
theorem witness_BankScalarWords_loops : ((engined run0 eregs 11 1 [(1, 1), (2, 2), (3, 3), (4, 4)] [] [(5, 0x80000000)]).eng 0).loops = (1, 1) :: [(2, 2), (3, 3), (4, 4)] ∧
    4 ≤ [(1, 1), (2, 2), (3, 3), ((4 : Nat), (4 : BitVec 32))].length := by decide +kernel
def xfering : State := engined run0 eregs 11 1 [] [.lda 0 2 0 1 (some 0x10000) [], .copy 1 0x10000 0x10040 64 []] []
theorem witness_BankScalarWords_waits : Awaited (xfering.eng 0) 4 0 ∧ Awaited (xfering.eng 0) 0 1 ∧ ¬Awaited (eng0.eng 0) 255 1 ∧ (xfering.eng 0).xfers ≠ [] := by
  refine ⟨⟨.lda 0 2 0 1 (some 0x10000) [], by decide +kernel, by decide⟩, ⟨.copy 1 0x10000 0x10040 64 [], by decide +kernel, rfl⟩, ?_, by decide +kernel⟩
  rintro ⟨x, h, _⟩
  rw [show (eng0.eng 0).xfers = [] by decide +kernel] at h
  exact absurd h List.not_mem_nil
theorem witness_BankScalarWords_sync : Writable eng0 bcmd 0x10000 ∧ ∀ p, bcmd.wr = some p → ¬InPage p (ereg (eng0.eng 0) 7) := by
  refine ⟨⟨page0, rfl, by unfold InPage; decide, ⟨by decide +kernel, by decide +kernel⟩⟩, fun p h => ?_⟩
  have : p = page0 := by simpa [bcmd] using h.symm
  subst this; unfold InPage; decide +kernel

theorem no_meta (ln : Nat) (key buf : Nat) : Plain eng0 ln key buf := by
  refine ⟨fun q h => ?_, fun _ q h => ?_⟩
  · rw [show eng0.lineMeta = [] by decide +kernel] at h; exact absurd h (by simp [mfind])
  · rw [show eng0.blk = [] by decide +kernel] at h; exact absurd h (by simp [mfind])
theorem readable0 (off : Nat) (h : 0x10000 ≤ off ∧ off < 0x20000) : Readable eng0 bcmd off := by
  refine ⟨⟨page0, by decide, h⟩, fun p _ _ => no_meta _ _ _, ?_⟩
  rw [show eng0.poison = [] by decide +kernel]; rfl
/-- SS4 with SB8 rows: K = e3 = 16 columns, A = e1, N = e2, R = e0. -/
theorem witness_BankRowWords : ((eng0.eng 0).fa.toNat, (eng0.eng 0).fb.toNat) ∈ rowKinds ∧ ereg (eng0.eng 0) 2 ≠ 0 ∧ ereg (eng0.eng 0) 0 + ereg (eng0.eng 0) 2 ≤ 1024 ∧
    1024 < ereg (eng0.eng 0) 0 + ereg (eng0.eng 0) 6 ∧ ereg (eng0.eng 0) 0 = 0 ∧
    (ereg (eng0.eng 0) 1 % 8 = 0 ∧ ereg (eng0.eng 0) 3 % 16 = 0 ∧ ereg (eng0.eng 0) 3 * fmtWidth (eng0.eng 0).fb.toNat / 8 ≤ 16384) ∧
    ereg (eng0.eng 0) 2 % 16 ≠ 0 ∧ (eng0.eng 0).scm = 0 ∧ ereg (eng0.eng 0) 3 * fmtWidth (eng0.eng 0).fa.toNat / 8 ≠ 0 ∧
    ereg (eng0.eng 0) 1 % (fmtWidth (eng0.eng 0).fc.toNat / 8) = 0 := by decide +kernel
theorem witness_BankRowWords_read : ∀ x, ereg (eng0.eng 0) 1 ≤ x → x < ereg (eng0.eng 0) 1 + ereg (eng0.eng 0) 2 * (ereg (eng0.eng 0) 3 * fmtWidth (eng0.eng 0).fa.toNat / 8) →
    Readable eng0 bcmd x := fun x h g => by
  rw [show ereg (eng0.eng 0) 1 = 0x10000 by decide +kernel] at h g
  rw [show ereg (eng0.eng 0) 2 * (ereg (eng0.eng 0) 3 * fmtWidth (eng0.eng 0).fa.toNat / 8) = 16 by decide +kernel] at g
  exact readable0 x ⟨h, by omega⟩
theorem witness_BankRowWords_outside : ∀ p ∈ bcmd.rd.toList ++ bcmd.wr.toList, ¬InPage p (ereg (eng0.eng 0) 7) := by
  unfold InPage; decide +kernel
theorem witness_BankRowWords_kinds : ((engined run0 eregs 2 1 [] [] []).eng 0).fa.toNat = 2 ∧ (2, 1) ∉ rowKinds := by decide +kernel
/-- One SS4 output of one column: 4 bits are no whole byte, so W is that of format 6: 4 bytes for one column and one row. -/
theorem witness_BankRowWords_write : ∀ x, 0x10000 ≤ x → x < 0x10000 + 4 → Writable eng0 bcmd x :=
  fun x h g => ⟨page0, rfl, ⟨h, show x < 0x20000 by omega⟩, no_meta _ _ _⟩

/-- A command of context 0 of core 0 on its way: four words, tag 5, 64 bytes to read and to write in the channel page. -/
def onWay (w0 w1 w2 w3 : Word) : BankCmd := { bcmd with w0 := w0, w1 := w1, w2 := w2, w3 := w3, valid := false, rd := none, wr := none }
def sent (c : BankCmd) : State := { pusher [] [⟨0, 0, none, [], false⟩] with bankCmds := [c] }
def cmdOk : BankCmd := onWay (64 * 2 ^ 32 + 64) 0x10000 0x10040 (5 * 2 ^ 32)
theorem clear_alone (c : BankCmd) (h : c.seq = 0) : Clear (sent c) c := by
  rintro b hb ⟨_, _, _, hs, _⟩
  rw [h] at hs; exact absurd hs (Nat.not_lt_zero _)
theorem witness_BankCommands_push : nth (sent cmdOk).bankCmds 0 = some cmdOk ∧ Clear (sent cmdOk) cmdOk ∧ cmdOk.valid = false ∧
    cmdOk.w3.toNat / 2 ^ 58 = 0 ∧ cmdOk.w0.toNat / 2 ^ 32 ≠ 0 ∧ cmdOk.w0.toNat % 2 ^ 32 ≠ 0 ∧
    (sent cmdOk).resolve 0 0 cmdOk.w1 0 1 1 false = .ok ⟨0x10000, 0x10000, 1, true, 0, 0⟩ ∧
    ((sent cmdOk).touchTlb 0 0 cmdOk.w1).resolve 0 0 cmdOk.w2 2 1 1 false = .ok ⟨0x10040, 0x10040, 1, true, 0, 0⟩ ∧
    (sent cmdOk).tlbOf 0 0 cmdOk.w1 = some chanEntry ∧ chanEntry.te1.toNat / 2 ^ 56 % 4 = 2 ∧ ((sent cmdOk).eng 0).fifo.length < 16 ∧
    ∀ m ∈ ((sent cmdOk).core 0).misses, m.ctx = 81 → m.failed = false := by
  refine ⟨by decide +kernel, clear_alone _ (by decide), ?_⟩
  decide +kernel
theorem witness_BankCommands_fits : (rangePage chanEntry 0x10000 64 ⟨0x10000, 0x10000, 1, true, 0, 0⟩).off + 64 ≤ 0x20000 ∧
    (rangePage chanEntry 0x10000 64 ⟨0x10000, 0x10000, 1, true, 0, 0⟩) = page0 ∧
    ¬((rangePage chanEntry 0x10000 0x10001 ⟨0x10000, 0x10000, 1, true, 0, 0⟩).off + 0x10001 ≤ 0x20000) := by decide +kernel
theorem witness_BankCommands_refused : (onWay 0 0 0 0).w0.toNat / 2 ^ 32 = 0 ∧ (onWay 0 0 0 (2 ^ 58)).w3.toNat / 2 ^ 58 ≠ 0 ∧
    (sent (onWay (2 ^ 32) (2 ^ 60) 0 0)).resolve 0 0 (2 ^ 60) 0 1 1 false = .fault 3 ∧ bcmd.valid = true := by decide +kernel
def fifoed : State := s0.setEng 0 { Engine.reset with fifo := [bcmd] }
theorem witness_BankCommands_start : (fifoed.eng 0).run = none ∧ (fifoed.eng 0).fifo = bcmd :: [] ∧ fifoed.gate 0 0 0 0 5 = true ∧
    (queued (placed 8) false).gate 0 0 1 1 5 = false := by decide +kernel
theorem witness_BankCommands_sample : (threads [(0, { ready0 [] 0 with windows := [⟨0, 0, .x 5, 0xFFFF, 3, false, .bkstat 0 7 true, none⟩] })]).winOf 0 0 0 =
    some ⟨0, 0, .x 5, 0xFFFF, 3, false, .bkstat 0 7 true, none⟩ := by decide +kernel
def loadRun : BankRun := { run0 with cmd := { bcmd with load := true, start := 4, words := [0x80000000, 0xE0000000] } }
theorem witness_BankCommands_load : ((engined loadRun [] 11 1 [] [] []).eng 0).run = some loadRun ∧ loadRun.cmd.load = true ∧ loadRun.ended = none ∧
    loadRun.cmd.start = 4 := by decide +kernel
theorem witness_BankCommands_watchdog : run0.startAt + 2 ^ 24 * 7 / 5 ≤ (23488102 : Word).toNat ∧ (23488101 : Word).toNat < run0.startAt + 2 ^ 24 * 7 / 5 := by
  decide
theorem witness_BankCommands_xfers : OneXfer (xfering.eng 0) 0 (.lda 0 2 0 1 (some 0x10000) []) ∧ OneXfer (xfering.eng 0) 1 (.copy 1 0x10000 0x10040 64 []) ∧
    (xfering.eng 0).run = some run0 ∧ 0x10040 % 64 = 0 ∧ 0x10000 + 64 ≤ 0x10040 ∧ run0.xferFault = none := by unfold OneXfer; decide +kernel
/-- Word 8 waits for the eight of the line below it; word 0 waits for none. -/
theorem witness_BankCommands_order : (0 : Nat) < 8 / 8 * 8 ∧ 0 ∉ ([] : List Nat) ∧ ¬(∃ j : Nat, j < 0 / 8 * 8) ∧ 0 < 64 / 8 := by
  refine ⟨by decide, by decide, fun ⟨j, h⟩ => absurd h (Nat.not_lt_zero j), by decide⟩
theorem witness_BankCommands_keys : ∀ p ∈ bcmd.rd.toList ++ bcmd.wr.toList, ∀ q ∈ bcmd.rd.toList ++ bcmd.wr.toList, p.key = q.key ∧ p.buf = q.buf := by
  decide
def endedRun : BankRun := { run0 with ended := some ⟨0, 0, 0⟩ }
theorem witness_BankCommands_post : ((engined endedRun [] 11 1 [] [] []).eng 0).run = some endedRun ∧ endedRun.ended = some ⟨0, 0, 0⟩ ∧
    ((engined endedRun [] 11 1 [] [] []).eng 0).xfers = [] := by decide +kernel

/-! ### Witnesses: launches -/

/-- A record: two threads at 0x100, class 1, radius 3, hint code 0, with completion address `ca`. -/
def rec2 (ca : Nat) : BitVec 512 := BitVec.ofNat 512 (0x100 + 2 * 2 ^ 128 + 1 * 2 ^ 160 + 3 * 2 ^ 162 + ca * 2 ^ 192)
/-- The same, co-resident. -/
def recCor2 : BitVec 512 := BitVec.ofNat 512 (0x100 + 2 * 2 ^ 128 + 3 * 2 ^ 162 + 2 ^ 167)
def launch0 (w : BitVec 512) (p : Phase) (next : Nat) : Launch := ⟨1, 0, 0, w, 0, 0, 1, next, p, false, false, 0, [], [], [], []⟩
def qrec (w : BitVec 512) : QRec := ⟨1, w, 0, 0⟩
/-- Controller 0 with this queue 0 and these launches. -/
def host0 (q : Queue) (c : Ctl) (ls : List Launch) : State := { s0 with ctl := mput s0.ctl 0 { c with queues := [(0, q)] }, launches := ls }
def queueWith (w : BitVec 512) : Queue := { Queue.reset with recs := [qrec w] }

theorem witness_LaunchRecords : (host0 Queue.reset Ctl.reset []).lidLive (nextLid (host0 Queue.reset Ctl.reset []) 0) = false ∧
    (List.replicate 64 (0 : Byte)).length = 64 ∧ ({ s0 with pkg := { s0.pkg with bootst := 4 } } : State).pkg.bootst = 4 ∧
    ({ s0 with pkg := { s0.pkg with bootst := 4 } } : State).lidLive (nextLid { s0 with pkg := { s0.pkg with bootst := 4 } } 0) = false := by
  decide +kernel
/-- Records that are full, malformed and good. -/
theorem witness_LaunchRecords_status : BadRecord 0 ∧ ¬BadRecord (rec2 0) ∧ BadRecord (rec2 4) ∧ ¬BadRecord recCor2 := by
  unfold BadRecord; decide +kernel
def devLaunch : OutMsg := ⟨0, 0, 1, 1, 0, 4, 0, some (0, scratchAt 0 + 64), ⟨0, 5, 0x40, 0, 0, 0, 0, 0, 0, 0, 0, 0, 0, [], [], []⟩⟩
def launching (pois : Map Bool) (n : Nat) : State :=
  { s0 with outs := [devLaunch], poison := pois, ctl := mput s0.ctl 0 { Ctl.reset with queues := [(8, { Queue.reset with recs := List.replicate n (qrec 0) })] } }
theorem witness_LaunchRecords_device : nth (launching [] 0).outs 0 = some devLaunch ∧ devLaunch.launch = some (0, scratchAt 0 + 64) ∧ devLaunch.dest = 0 ∧
    (launching [] 0).gate 0 0 1 1 4 = true ∧ anyPoison (launching [] 0).poison (scratchAt 0 + 64) 64 = false ∧
    ((launching [] 16).queueOf 0 8).recs.length = 16 ∧ anyPoison (launching [((scratchAt 0 + 64) / 8, true)] 0).poison (scratchAt 0 + 64) 64 = true ∧
    (launching [] 0).lidLive (nextLid (launching [] 0) 0) = false := by decide +kernel

/-- A launch waits at the head of queue 0, alone. -/
def queuedUp : State := host0 (queueWith (rec2 0)) Ctl.reset [launch0 (rec2 0) .queued 0]
/-- A head with no other comes first, a co-resident one where its assignment succeeds. -/
theorem first_alone (s : State) (r : QRec) (h : headOf s 0 0 = some r) (hc : r.words.getLsbD 167 = true → coresNow s 0 0 r ≠ none)
    (g : ∀ p, p < 12 → p ≠ 0 → headOf s 0 p = none) : First s 0 0 r := by
  refine ⟨⟨by decide, h, hc⟩, fun p r' hp q => ?_⟩
  have e := q.2.1; rw [g p q.1 hp] at e; exact nomatch e
theorem witness_LaunchDistribution_select : Unoccupied queuedUp 0 ∧ First queuedUp 0 0 (qrec (rec2 0)) ∧ (rec2 0).getLsbD 167 = false :=
  ⟨by unfold Unoccupied; decide +kernel, first_alone _ _ (by decide +kernel) (by decide +kernel) (by decide +kernel), by decide +kernel⟩
/-- An older class-0 record of another queue goes after a class-1 record; of one class the older goes first. -/
theorem witness_LaunchDistribution_order : (0 : BitVec 2) < 1 ∧ classNow queuedUp 0 0 (rec2 0) = 1 := by decide +kernel
def distributing0 : State := host0 Queue.reset Ctl.reset [launch0 (rec2 0) .distributing 0]
theorem witness_LaunchDistribution_emit : ¬Unoccupied distributing0 0 ∧ launch0 (rec2 0) .distributing 0 ∈ distributing0.launches ∧
    0 < threadsIn (launch0 (rec2 0) .distributing 0) ∧ ∀ l' ∈ distributing0.launches, l' = launch0 (rec2 0) .distributing 0 := by
  refine ⟨by unfold Unoccupied; decide +kernel, ?_⟩
  decide +kernel
theorem witness_LaunchDistribution_hint : HintIs distributing0 (rec2 0) 0 (some (coreOfCode 0)) :=
  ⟨0, by decide, by decide +kernel, ⟨by decide +kernel, by decide +kernel⟩, fun _ h => absurd h (Nat.not_lt_zero _)⟩
theorem no_hint_of (L : List Nat) (h : ∀ n, n < 512 → n ∈ L) :
    HintIs { s0 with pkg := { s0.pkg with retired := L } } (rec2 0) 0 none := by
  intro k _ g
  have : ∀ c, c < 512 → coreOfCode c < 512 := by decide +kernel
  exact g.1 (h _ (this _ (Nat.mod_lt _ (by decide))))
theorem witness_LaunchDistribution_no_hint : HintIs { s0 with pkg := { s0.pkg with retired := List.range 512 } } (rec2 0) 0 none :=
  no_hint_of _ fun _ h => List.mem_range.2 h
/-- A message for the core of the hint, at a place of its route, after it or held. -/
def moving (p : StartAt) (l : Launch) : State := { host0 Queue.reset Ctl.reset [l] with starts := [⟨0, 1, 0, 8, p⟩] }
def movedOn (cs : Nat → Core) : State := (moving (.route 0) (launch0 (rec2 0) .distributed 2)).setCore 8 (cs 8)
theorem witness_LaunchDistribution_message : nth (moving (.route 0) (launch0 (rec2 0) .distributed 2)).starts 0 = some ⟨0, 1, 0, 8, .route 0⟩ ∧
    (moving (.route 0) (launch0 (rec2 0) .distributed 2)).launchOf 1 = some (launch0 (rec2 0) .distributed 2) ∧ routeCore 0 8 0 = some 8 ∧
    (moving (.route 0) (launch0 (rec2 0) .distributed 2)).inboxReady 8 = false ∧ 8 ∉ s0.pkg.retired ∧ (s0.core 8).parked = false ∧
    hops 8 8 ≤ ((rec2 0).extractLsb' 162 5).toNat := by decide +kernel
theorem lowest0 (s : State) (n : Nat) (lid : BitVec 32) (cls : BitVec 2) (h : IdleNow s n 0) (g : s.heldFrom n 0 lid cls = false) :
    LowestIdle s n 0 lid cls := ⟨by decide, ⟨h, g⟩, fun _ h => absurd h (Nat.not_lt_zero _)⟩
theorem witness_LaunchDistribution_idle : LowestIdle (moving (.route 0) (launch0 (rec2 0) .distributed 2)) 8 0 1 1 :=
  lowest0 _ _ _ _ (by unfold IdleNow; decide +kernel) (by decide +kernel)
/-- Core 8 with every context taken, its inbox empty or with 16 thread-start messages, or parked. -/
def crowded (inbox : List InMsg) (parked : Bool) : Core := { s0.core 8 with ctxs := (List.range 64).map fun i => (i, ready0 [] 0), inbox := inbox, parked := parked }
def start0 : InMsg := ⟨0, 9, 0, 0, 0, 0, 0, 0, 0, 0, 0, 0, 0, [], [], []⟩
theorem none_idle (b : Bool) (l : List InMsg) (lid : BitVec 32) (cls : BitVec 2) : NoneIdle (movedOn fun _ => crowded l b) 8 lid cls := by
  intro j h g
  have : ∀ j, j < 64 → (mget Ctx.reset ((List.range 64).map fun i => (i, ready0 [] 0)) j).run ≠ .idle := by decide +kernel
  refine absurd ?_ (this j h)
  replace g := g.1
  have e : (movedOn fun _ => crowded l b).core 8 = crowded l b := by
    show ((moving _ _).setCore 8 _).core 8 = _
    rw [State.core_setCore]; exact if_pos rfl
  have : (movedOn fun _ => crowded l b).ctx 8 j = mget Ctx.reset ((movedOn fun _ => crowded l b).core 8).ctxs j := rfl
  rw [this, e] at g; exact g
theorem witness_LaunchDistribution_waits : ((movedOn fun _ => crowded [] false).core 8).inbox.countP (fun e => decide (e.kind = 0)) < 16 ∧
    16 ≤ ((movedOn fun _ => crowded (List.replicate 16 start0) false).core 8).inbox.countP (fun e => decide (e.kind = 0)) ∧
    ((movedOn fun _ => crowded [] true).core 8).parked = true ∧ (movedOn fun _ => crowded [] false).inboxReady 8 = false := by decide +kernel
theorem witness_LaunchDistribution_back : nth (moving .returned (launch0 (rec2 0) .distributed 2)).starts 0 = some ⟨0, 1, 0, 8, .returned⟩ ∧
    nth (moving (.timed 0) (launch0 (rec2 0) .distributed 2)).starts 0 = some ⟨0, 1, 0, 8, .timed 0⟩ ∧
    nth (moving (.held 0) (launch0 (rec2 0) .distributed 2)).starts 0 = some ⟨0, 1, 0, 8, .held 0⟩ ∧
    (moving (.held 0) (launch0 (rec2 0) .distributed 2)).stopped 1 = false ∧
    0 + 256 ≤ (256 : Word).toNat ∧ ¬(0 + 256 ≤ (255 : Word).toNat) := by decide +kernel
def corWaits : State := host0 (queueWith recCor2) Ctl.reset [launch0 recCor2 .queued 0]
theorem witness_LaunchDistribution_coresident : headOf corWaits 0 0 = some (qrec recCor2) ∧ corWaits.launchOf 1 = some (launch0 recCor2 .queued 0) ∧
    recCor2.getLsbD 167 = true ∧ threadsIn (launch0 recCor2 .queued 0) = 2 ∧ (corWaits.corAssign recCor2 (fun _ => 64) [] 0 2).isSome = true ∧
    (coresNow corWaits 0 0 (qrec recCor2)).isSome = true := by
  decide +kernel
theorem witness_LaunchDistribution_coresident_first : First corWaits 0 0 (qrec recCor2) := by
  have h : (coresNow corWaits 0 0 (qrec recCor2)).isSome = true := witness_LaunchDistribution_coresident.2.2.2.2.2
  exact first_alone _ _ (by decide +kernel) (fun _ e => by rw [e] at h; exact nomatch h) (by decide +kernel)
theorem witness_LaunchDistribution_unoccupied : Unoccupied corWaits 0 := by unfold Unoccupied; decide +kernel

/-- A spawn message from context 0 of core 0 to core 8. -/
def spawn0 : OutMsg := ⟨0, 0, 1, 1, 0, 4, 8, none, ⟨1, 5, 0x40, 0, 0, 0, 0, 0, 0, 0, 0, 0, 0, [], [], []⟩⟩
def spawning (c : Core) : State := { s0.setCore 8 c with outs := [spawn0] }
theorem witness_SpawnMessages : nth (spawning (s0.core 8)).outs 0 = some spawn0 ∧ spawn0.launch = none ∧ (spawning (s0.core 8)).gate 0 0 1 1 4 = true ∧
    (spawning (s0.core 8)).inboxReady 8 = false ∧ ((spawning (s0.core 8)).core 8).parked = false ∧ (8, 0) ≠ (spawn0.core, spawn0.ctx) ∧
    ((spawning (crowded [] true)).core 8).parked = true ∧ ((spawning (crowded [] false)).core 8).inbox.countP (fun e => decide (e.kind ≠ 0)) < 16 ∧
    16 ≤ ((spawning (crowded (List.replicate 16 spawn0.msg) false)).core 8).inbox.countP (fun e => decide (e.kind ≠ 0)) := by decide +kernel
theorem witness_SpawnMessages_idle : LowestIdle (spawning (s0.core 8)) 8 0 5 0 ∧ CanLand (spawning (s0.core 8)) 8 0 spawn0.msg :=
  ⟨lowest0 _ _ _ _ (by unfold IdleNow; decide +kernel) (by decide +kernel), fun h => absurd h (by decide)⟩
theorem witness_SpawnMessages_queued : ((spawning { s0.core 8 with inbox := [spawn0.msg] }).core 8).inbox = spawn0.msg :: [] ∧
    (spawning { s0.core 8 with inbox := [spawn0.msg] }).stopped spawn0.msg.lid = false ∧
    LowestIdle (spawning { s0.core 8 with inbox := [spawn0.msg] }) 8 0 5 0 := by
  refine ⟨by decide +kernel, by decide +kernel, lowest0 _ _ _ _ (by unfold IdleNow; decide +kernel) (by decide +kernel)⟩
/-- A payload of 256 bytes that no context watches. -/
def sent0 : InMsg := { spawn0.msg with kind := 2, payload := List.replicate 256 7 }
theorem witness_SpawnMessages_payload : CanLand (spawning (s0.core 8)) 8 0 sent0 := by
  refine fun _ => ⟨by decide +kernel, fun e h => ?_⟩
  rw [show (spawning (s0.core 8)).waiting = [] by decide +kernel] at h
  exact absurd h List.not_mem_nil

/-- A launch whose two threads are gone. -/
def finished (ca : Nat) : State := host0 Queue.reset Ctl.reset [launch0 (rec2 ca) .distributed 2]
theorem nothing_left : ∀ ca ∈ [0, 4, 2 ^ 60], NothingLeft (finished ca) 1 ∧ (finished ca).engines = [] ∧ (finished ca).bankCmds = [] ∧
    ∀ e ∈ (finished ca).cores, ∀ r ∈ e.2.copyFifo, r.lid ≠ 1 := by
  unfold NothingLeft; decide +kernel
theorem witness_LaunchCompletion : (finished 0).launchOf 1 = some (launch0 (rec2 0) .distributed 2) ∧ threadsIn (launch0 (rec2 0) .distributed 2) ≤ 2 ∧
    (rec2 0).extractLsb' 192 64 = 0 ∧ ((rec2 4).extractLsb' 192 64).toNat % 8 ≠ 0 ∧ ((rec2 (2 ^ 60)).extractLsb' 192 64).toNat / 2 ^ 60 ≠ 0 := by
  decide +kernel
/-- Its record goes to a page of host memory. -/
def hostEntry : TlbEntry := ⟨BitVec.ofNat 64 0x10000, BitVec.ofNat 64 (2 ^ 63 + 2 ^ 62 + 2 ^ 61 + 2 * 2 ^ 58 + 1)⟩
def recorded : State :=
  let s := (finished 0x10008).setCore 1024 { s0.core 1024 with tlb := [hostEntry] }
  { s with pkg := { s.pkg with linkUp := true } }
def hostAcc (va : Nat) : Acc := ⟨BitVec.ofNat 64 va, hostAt + va, 8, false, 0, 0⟩
theorem witness_LaunchCompletion_record : recorded.launchOf 1 = some (launch0 (rec2 0x10008) .distributed 2) ∧ recorded.pkg.linkUp = true ∧
    recorded.resolve 1024 0 0x10008 1 8 1 false = .ok (hostAcc 0x10008) ∧ isHost (hostAcc 0x10008).loc = true ∧ (hostAcc 0x10008).loc % 8 = 0 ∧
    (recorded.touchTlb 1024 0 0x10008).resolve 1024 0 (0x10008 + 8) 1 8 1 false = .ok (hostAcc 0x10010) ∧ (hostAcc 0x10010).loc % 8 = 0 := by
  decide +kernel
theorem witness_LaunchCompletion_nothing : NothingLeft recorded 1 ∧ NoCommands recorded 1 := by
  refine ⟨by unfold NothingLeft; decide +kernel, by decide +kernel, by decide +kernel, fun e h => ?_⟩
  rw [show recorded.engines = [] by decide +kernel] at h
  exact absurd h List.not_mem_nil
theorem witness_LaunchCompletion_ending : (host0 Queue.reset Ctl.reset [launch0 (rec2 0) (.ending 5) 2]).launchOf 1 = some (launch0 (rec2 0) (.ending 5) 2) := by
  decide +kernel

/-! ### Witnesses: pre-emption -/

/-- Controller 0 with these registers, a launch of two threads in a phase, a global region of one channel, and region words. -/
def preempt (c : Ctl) (q : Queue) (l : Launch) (mem : Map Byte) : State :=
  let s := host0 q c [l]
  { s with mem := mem, pkg := { s.pkg with order := [0], usable := 2 ^ 28, iglim := 64, keys := mput s.pkg.keys 0 (genKey 0) } }
def sized (n : Nat) : Ctl := { Ctl.reset with lsize := BitVec.ofNat 64 n }
theorem witness_LaunchCommands_turned_away : ({ Ctl.reset with busy := true } : Ctl).busy = true ∧ (preempt Ctl.reset Queue.reset (launch0 (rec2 0) .saved 2) []).launchOf 2 = none ∧
    (launch0 (rec2 0) .saved 2).phase ≠ .distributing ∧ (launch0 (rec2 0) .saved 2).phase ≠ .distributed ∧ (launch0 (rec2 0) .saved 2).phase ≠ .queued := by
  decide +kernel
theorem witness_LaunchCommands_preempt : (preempt (sized 0x10000) Queue.reset (launch0 (rec2 0) .distributed 2) []).launchOf 1 = some (launch0 (rec2 0) .distributed 2) ∧
    ((preempt (sized 0x10000) Queue.reset (launch0 (rec2 0) .distributed 2) []).ctlOf 0).busy = false ∧
    windowsOf (preempt (sized 0x10000) Queue.reset (launch0 (rec2 0) .distributed 2) []) 0 = some [] ∧
    (preempt (sized 0x10000) Queue.reset (launch0 (rec2 0) .distributed 2) []).saveNeed 1 [] = 4096 ∧ 4096 ≤ (sized 0x10000).lsize.toNat ∧
    ¬(4096 ≤ (sized 0xFFF).lsize.toNat) ∧
    ((preempt (sized 0x10000) Queue.reset (launch0 (rec2 0) .distributed 2) []).globalLoc 0).isSome = true ∧
    ((preempt (sized 0x10000) Queue.reset (launch0 (rec2 0) .distributed 2) []).globalLoc (0 + 4096 - 1)).isSome = true := by decide +kernel
/-- A window list that is misaligned is not read; a window of 32 bytes is none. -/
theorem witness_LaunchCommands_windows : windowsOf (preempt { Ctl.reset with lwin := 8 } Queue.reset (launch0 (rec2 0) .distributed 2) []) 0 = none ∧
    windowsOf (preempt { Ctl.reset with lwin := 64 } Queue.reset (launch0 (rec2 0) .distributed 2) [(64, 1), (84, 32)]) 0 = some [(0, 0, 32)] ∧
    (preempt { Ctl.reset with lmap := 8 } Queue.reset (launch0 (rec2 0) .saved 2) []).readMap 8 = none ∧
    (preempt Ctl.reset Queue.reset (launch0 (rec2 0) .saved 2) []).readMap 0 = some [] := by decide +kernel
theorem witness_LaunchCommands_head : AtHead queuedUp (launch0 (rec2 0) .queued 0) := by
  refine ⟨rfl, qrec (rec2 0), ?_⟩; decide +kernel
/-- A region whose first word names launch 1, with nothing saved. -/
def headed : State := preempt Ctl.reset Queue.reset (launch0 (rec2 0) .saved 2) [(0, 1), (7, 0x80)]
theorem witness_LaunchCommands_resume : headed.regionVal (savePlace headed 0) = 2 ^ 63 + 1 ∧ headed.launchOf 1 = some (launch0 (rec2 0) .saved 2) ∧
    (headed.savedCtxs 0).map (·.1) ++ (headed.savedMats 0).map (·.1) = [] ∧
    (preempt Ctl.reset Queue.reset (launch0 (rec2 0) .saved 2) []).regionVal 0 ≠ 2 ^ 63 + 1 := by decide +kernel

/-- A halting launch with thread 0 ready in context 0 of core 0. -/
def halting0 : State := { host0 Queue.reset Ctl.reset [launch0 (rec2 0) .halting 2] with cores := [(0, { s0.core 0 with ctxs := [(0, { ready0 [] 0x40 with lid := 1 })] })] }
theorem witness_PreemptionEvents_halt : Tables halting0 ∧ halting0.launchOf 1 = some (launch0 (rec2 0) .halting 2) ∧ HoldsThread halting0 0 0 1 := by
  unfold Tables HoldsThread; decide +kernel
theorem witness_PreemptionEvents_moving : NoneMoving halting0 1 ∧
    ¬NoneMoving { halting0 with starts := [⟨0, 1, 0, 8, .route 0⟩] } 1 := by
  refine ⟨⟨fun m h => ?_, fun o h => ?_⟩, fun h => ?_⟩
  · rw [show halting0.starts = [] by decide +kernel] at h; exact absurd h List.not_mem_nil
  · rw [show halting0.outs = [] by decide +kernel] at h; exact absurd h List.not_mem_nil
  · exact h.1 ⟨0, 1, 0, 8, .route 0⟩ (List.mem_singleton.2 rfl) rfl 0 rfl
theorem witness_PreemptionEvents_haltable : ∀ n i, HoldsThread halting0 n i 1 → Haltable halting0 n i := by
  intro n i ⟨_, h⟩
  have hc : ∀ m, m ≠ 0 → halting0.core m = Core.reset := by
    intro m hm
    show mget Core.reset [(0, _)] m = Core.reset
    simp [mget, hm]
  by_cases hn : n = 0
  · subst hn
    by_cases hi : i = 0
    · subst hi
      refine ⟨by decide +kernel, by decide +kernel, by decide +kernel, by decide +kernel, by decide +kernel, by decide +kernel, by decide +kernel,
        by decide +kernel, by decide +kernel, by decide +kernel, fun a l p d dl q g => ?_⟩
      rw [show (halting0.ctx 0 0).run = .ready by decide +kernel] at g; exact nomatch g
    · have : halting0.ctx 0 i = Ctx.reset := by
        show mget Ctx.reset [(0, _)] i = Ctx.reset
        simp [mget, hi]
      rw [this] at h; exact absurd rfl h
  · have : halting0.ctx n i = Ctx.reset := by
      show mget Ctx.reset (halting0.core n).ctxs i = _
      rw [hc n hn]; rfl
    rw [this] at h; exact absurd rfl h
def halted0 : State := preempt Ctl.reset Queue.reset (launch0 (rec2 0) .halted 2) []
theorem witness_PreemptionEvents_save : Tables halted0 ∧ halted0.launchOf 1 = some (launch0 (rec2 0) .halted 2) ∧ (halted0.globalLoc 0).isSome = true := by
  unfold Tables; decide +kernel
theorem witness_PreemptionEvents_no_commands : NoCommands halted0 1 := by
  refine ⟨by decide +kernel, by decide +kernel, fun e h => ?_⟩
  rw [show halted0.engines = [] by decide +kernel] at h; exact absurd h List.not_mem_nil
/-- A copy command of the launch still waits. -/
def engaged : State := halted0.setCore 3 { s0.core 3 with copyFifo := [{ cmd0 0 0 0 false 0 with lid := 1 }] }
theorem witness_PreemptionEvents_commands : ¬NoCommands engaged 1 := by
  intro h
  have : ∃ e ∈ engaged.cores, ∃ r ∈ e.2.copyFifo, r.lid = 1 := by decide +kernel
  obtain ⟨e, he, r, hr, g⟩ := this
  exact h.1 e he r hr g
def resuming0 (waitq restored : Bool) (mem : Map Byte) (sv : List SavedCtx) : State :=
  preempt Ctl.reset Queue.reset { launch0 (rec2 0) .resuming 2 with waitq := waitq, restored := restored, saved := sv } mem
theorem witness_PreemptionEvents_waited : (resuming0 true false [] []).launchOf 1 = some { launch0 (rec2 0) .resuming 2 with waitq := true } := by decide +kernel
/-- One saved context of core 0: word 3 is 1, word 4 names the directory at 0x1000, whose first word names the record at 0x2000. -/
def oneSaved : State := resuming0 false false [(24, 1), (33, 0x10), (0x1001, 0x20)] [⟨(0, 0), none, [], [], false, [], [], []⟩]
theorem witness_PreemptionEvents_restore : oneSaved.regionVal (8 * 3) = 1 ∧ oneSaved.regionVal (8 * 6) = 0 ∧ oneSaved.regionVal (8 * 8) = 0 ∧
    oneSaved.regionVal (8 * 10) = 0 ∧ oneSaved.regionVal (8 * 4) / 8 = 0x200 ∧ oneSaved.regionVal (8 * 0x200) = 0x2000 ∧
    imageOf [] (coordCore (BitVec.ofNat 64 (oneSaved.regionVal (8 * 0x201)))) = 0 ∧ oneSaved.ownedBy 1 = [] ∧ (oneSaved.core 0).mx.owner ≠ some 0 ∧
    Tables oneSaved := by unfold Tables; decide +kernel
theorem witness_PreemptionEvents_restore_at : LowestIdle oneSaved 0 0 1 1 := lowest0 _ _ _ _ (by unfold IdleNow; decide +kernel) (by decide +kernel)
theorem witness_PreemptionEvents_gangs : (resuming0 false true [] []).stoppedGangs 1 = [] := by decide +kernel
/-- Core 0's slice is owned by a thread whose gang stopped before its operation. -/
def gangStopped : State := (resuming0 false true [] []).setCore 0 { s0.core 0 with
  ctxs := [(0, { ready0 [] 0 with lid := 1, mxprog := BitVec.ofNat 64 (4 * 2 ^ 60) })], mx := { Slice.reset with owner := some 0 } }
theorem witness_PreemptionEvents_gang : gangStopped.stoppedGangs 1 = [(0, 0)] ∧ (gangStopped.core 0).mx.form = none := by decide +kernel
def later : State := host0 Queue.reset { Ctl.reset with resumed := [1] } [launch0 (rec2 0) .distributed 1]
theorem witness_PreemptionEvents_distribution : (later.ctlOf 0).resumed = 1 :: [] ∧ ∀ k ∈ later.launches, ¬(k.base = 0 ∧ k.phase = .distributing) := by
  decide +kernel

/-! ### Witnesses: mesh, links, host -/

/-- A packet of the core at (3, 5) to the core at (4, 5), heading east, with a turn list, its run and the access it carries. -/
def packet (turns : BitVec 112) (left : Nat) (fresh : Bool) (rem : BitVec 4) (kind : BitVec 5) (own : Option Own) : Packet :=
  ⟨nodeAt 0 3 5, 0, rem, turns, false, left, fresh, kind, nodeAt 0 3 5, nodeAt 0 4 5, 0, 0, 0, [], 0, [], 1, own⟩
def meshed (p : Packet) : State := { loading with packets := [p] }
/-- In a run; at a turn: straight on with 2 nodes more; an ejection; no turn left; a west turn (15 R213). -/
theorem witness_MeshRouting : linkFrom 3 5 0 false = some (4, 5) ∧ (packet 0 2 false 1 0 none).rem ≠ 0 ∧
    nodeX (packet 0 2 false 1 0 none).node = 3 ∧ nodeRow (packet 0 2 false 1 0 none).node = 5 ∧
    (entryNow (packet 2 1 true 0 0 none)).left ≠ 0 ∧ (entryNow (packet 2 1 true 0 0 none)).turns.toNat % 2 ^ 7 / 2 ^ 5 = 0 ∧
    (entryNow (packet (96 * 2 ^ 7) 2 false 0 0 none)).turns.toNat % 2 ^ 7 / 2 ^ 5 = 3 ∧ (entryNow (packet 0 1 false 0 0 none)).left = 0 ∧
    (entryNow (packet 32 1 true 0 0 none)).turns.toNat % 2 ^ 7 / 2 ^ 5 = 1 ∧ nodeServes (nodeAt 0 4 5) 0 = true ∧
    (∀ n ∈ (packet 2 1 true 0 0 none).routers, ((meshed (packet 2 1 true 0 0 none)).core n).routerGated = false) := by decide +kernel
/-- Its turn: alone in its buffer, with credit for the next, and the only one of its output. A packet behind the flits of another has none. -/
theorem witness_MeshRouting_turn :
    (let s := meshed (packet 2 1 true 0 0 none); s.ready (packet 2 1 true 0 0 none) = true ∧ s.chosen (packet 2 1 true 0 0 none) = true) ∧
    (let p := packet 0 2 false 1 0 none; (meshed p).ready p = true ∧ (meshed p).chosen p = true) ∧
    (let p := packet 96 1 true 0 0 none; (meshed p).ready p = true ∧ (meshed p).chosen p = true) ∧
    (let p := packet 2 1 true 0 0 none; let q := { packet 2 1 true 0 0 none with ord := 1 }
      ({ meshed p with packets := [p, q] } : State).ready q = false) := by decide +kernel
/-- Two packets for one output: the requests of input 0 and of the injection port; a reply goes first where a request went last. -/
theorem witness_MeshRouting_arbiter :
    (let p := packet 2 1 true 0 0 none; let q := { packet 0 2 false 1 0 none with ord := 1, rest := 0, chain := [(bufKey 3 5 0 false, 1)] }
      let s : State := { meshed p with packets := [p, q] }
      s.ready p = true ∧ s.ready q = true ∧ p.output = q.output ∧ s.chosen q = true ∧ s.chosen p = false) := by decide +kernel
/-- It runs off the mesh at the last column; a skip link leaves column 0 of a chiplet and no other column. -/
theorem witness_MeshRouting_edges : linkFrom 31 5 0 false = none ∧ linkFrom 0 5 2 false = none ∧ linkFrom 16 5 0 true = some (20, 5) ∧
    linkFrom 12 5 0 true = none ∧ linkFrom 5 0 0 false = none ∧ linkFrom 5 17 1 false = none := by decide
theorem witness_MeshRouting_here : nodeX { (packet 96 1 true 0 0 none) with node := nodeAt 0 4 5 }.node = nodeX (nodeAt 0 4 5) ∧
    nodeX (packet 96 1 true 0 0 none).node ≠ nodeX (nodeAt 0 4 5) ∧ nodeExists (nodeAt 0 3 5) = true ∧
    (packet 2 1 true 0 0 none).reply = false ∧ (packet 2 1 true 0 7 none).reply = true := by decide
/-- Route-error replies: for the load that is pending in context 0's first window, for a store, and a payload of kind 11. -/
theorem witness_MeshRouting_lost : (∃ w a sg acq l, loading.winOf 0 0 0 = some w ∧ w.pend = .load a sg acq l) ∧
    (packet 96 1 true 0 7 (some (.window 0 0 0))).own = some (.window 0 0 0) ∧ nodeServes (nodeAt 0 4 5) 7 = true ∧
    (queued (placed 8) false).entryOf 0 0 = some (entry (placed 8) false) ∧ (entry (placed 8) false).unlock = false ∧
    nodeServes (nodeAt 0 4 5) 11 = true ∧ nodeServes (nodeAt 0 4 5) 10 = true ∧ nodeServes (sliceNode 0 0) 17 = true := by
  refine ⟨⟨(loading.winOf 0 0 0).get (by decide +kernel), _, _, _, _, by decide +kernel, rfl⟩, ?_⟩
  decide +kernel
/-- A router that idles, one with a packet at it, and one gated that is offered one. -/
theorem witness_MeshRouting_power : (s0.core 0).routerGated = false ∧ s0.packets = [] ∧ (routerOf 3 5).isSome = true ∧
    (packet 2 1 true 0 0 none).routers ≠ [] ∧ 8 * 4 < 2 ^ 40 ∧ isDram (4 / 4 * 32) = true := by decide +kernel
/-- The load of context 0's first window and the store at the head of the queue are not in the mesh; after a boot every source has its
entries, before one it has none. -/
theorem witness_MeshRequests : loading.inMesh (.window 0 0 0) = false ∧ (loading.winOf 0 0 0).isSome = true ∧
    (queued (placed 8) false).inMesh (.store 0 0 0) = false ∧ (queued (placed 8) false).entryOf 0 0 = some (entry (placed 8) false) ∧
    (entry (placed 8) false).written = false ∧ (meshed (packet 2 1 true 0 0 (some (.window 0 0 0)))).inMesh (.window 0 0 0) = true ∧
    s0.turnEntry (coreNode 0) (coreNode 1) = none ∧
    ((({ s0 with pkg := { s0.pkg with ttBoot := true } } : State).turnEntry (coreNode 0) (coreNode 1)).map TurnEntry.valid) = some true := by
  decide +kernel
/-- 15 R215, 01 R13: a dimension-order route leads to its node, also over skip links and the bridge. -/
theorem test_dimension_order : (let s : State := { s0 with pkg := { s0.pkg with ttBoot := true } }
    (s.packetOf (coreNode 0) (coreNode 511) 0 0 0 0 [] none).fate 300 = .home ∧
    (s.packetOf (coreNode 100) (sliceNode 1 20) 0 0 0 0 [] none).fate 300 = .home ∧
    (s.packetOf (transNode 2) (coreNode 77) 16 0 0 0 [] none).fate 300 = .home) := by decide +kernel


/-- Etgus port 3 in the state given, at a cycle. -/
def etgused (e : Etgus) (now : Word) : State := { s0 with etgus := [(3, e)], clock := now }
def flit0 : EtgusFlit := ⟨1, 0, 0, 0, 0, [], true, true⟩
theorem witness_LinkEvents : ((etgused Etgus.reset 0).port 3).down = false ∧ ((etgused Etgus.reset 0).port 3).training = false ∧ flit0.typ = 1 ∧ flit0.fecOk = true ∧
    flit0.crcOk = true ∧ flit0.seq = ((etgused Etgus.reset 0).port 3).expect ∧ flit0.seq ≠ ((etgused { Etgus.reset with expect := 1 } 0).port 3).expect ∧
    ((etgused Etgus.reset 0).port 3).resends < 16 ∧ (13999 : Word).toNat < ((etgused Etgus.reset 13999).port 3).lastValid + 14000 ∧
    ((etgused Etgus.reset 14000).port 3).lastValid + 14000 ≤ (14000 : Word).toNat ∧ 16 ≤ ((etgused { Etgus.reset with resends := 16 } 0).port 3).resends := by
  decide +kernel
theorem witness_LinkEvents_training : ((etgused { Etgus.reset with training := true, trainFails := 1 } 0).port 3).trainFails < 2 ∧
    2 ≤ ((etgused { Etgus.reset with training := true, trainFails := 2 } 0).port 3).trainFails ∧
    ((etgused { Etgus.reset with training := true, trainFails := 2 } 0).port 3).training = true := by decide +kernel
theorem witness_LinkEvents_tables : Tables (etgused { Etgus.reset with training := true, trainFails := 2 } 0) := by unfold Tables; decide +kernel
/-- Another package's access to core (1, 0)'s scratch at 64, and one that names package 5. -/
def podVa (pkg : Nat) : Word := BitVec.ofNat 64 (12 * 2 ^ 56 + pkg * 2 ^ 50 + 2 ^ 45 + 64)
theorem witness_PodWindowRequests : (podVa 0).toNat / 2 ^ 56 % 2 ^ 4 = 12 ∧ (podVa 0).toNat / 2 ^ 50 % 2 ^ 6 = s0.pkg.pkgnum.toNat ∧
    (podVa 5).toNat / 2 ^ 50 % 2 ^ 6 ≠ s0.pkg.pkgnum.toNat ∧ (∀ kind ∈ [0, 1, 2], s0.resolve 4096 0 (podVa 0) kind 8 8 true = .ok ⟨podVa 0, scratchAt 1 + 64, 8, false, 0, 0⟩) ∧
    isScratch (scratchAt 1 + 64) = true ∧ s0.lockHeld (scratchAt 1 + 64) = false ∧ anyPoison s0.poison (scratchAt 1 + 64) 8 = false ∧
    s0.waiting = [] ∧ s0.resolve 4096 0 (podVa 0 + 4) 0 8 8 false = .fault 2 := by decide +kernel

theorem witness_QueueRegisters : (0 : Nat) < 2 ∧ 11 < 12 ∧ (1 : Word) ≠ 0 ∧ ¬(8 < 8) := by decide
theorem witness_ParkingAndDebug : Tables s0 ∧ Tables handled := by unfold Tables; decide +kernel
theorem witness_ParkingAndDebug_holds : HoldsNothing s0 (blockCore 1 255) ∧ ¬HoldsNothing handled 0 := by
  refine ⟨⟨by decide +kernel, fun j => ?_⟩, fun h => ?_⟩
  · rw [show s0.ctx (blockCore 1 255) j = Ctx.reset by rfl]; rfl
  · exact absurd (h.2 0) (by decide +kernel)
/-- A context stopped at a HALT. -/
def stopped0 : State := threads [(0, { ready0 [] 0 with run := .stopped })]
theorem witness_ParkingAndDebug_continue : (2 ^ 60 : Word).toNat / 2 ^ 60 = 1 ∧ coreNamed (2 ^ 60) % 32 / 16 = 0 ∧ (stopped0.ctx (coreNamed (2 ^ 60)) 0).run = .stopped ∧
    stopped0.stopped (stopped0.ctx 0 0).lid = false ∧ (s0.ctx 0 0).run ≠ .stopped := by decide +kernel
/-- One channel of 256 MiB: 4,096 regions of 64 KiB, 65,536 granules. -/
def laid (lock : Bool) : State := { s0 with pkg := { s0.pkg with order := [0], usable := 2 ^ 28, layLock := lock } }
theorem witness_LayoutAndCaps : (∃ c ∈ (laid false).pkg.order, (laid false).usableOf c / 2 ^ 16 = 4096) ∧ (∀ c ∈ (laid false).pkg.order, 4096 ≤ (laid false).usableOf c / 2 ^ 16) ∧
    (laid false).pkg.layLock = false ∧ (65535 + 1) * 4096 ≤ 4096 * 65536 ∧ ¬((65536 + 1) * 4096 ≤ 4096 * 65536) ∧ (laid true).pkg.layLock = true := by decide +kernel
theorem witness_LayoutAndCaps_turns : s0.launches = [] ∧ nodeExists (nodeAt 0 3 5) = true ∧ nodeExists (nodeAt 0 3 0) = false := by decide +kernel
theorem witness_HostRegisterWrites : 64 ≤ (64 : Word).toNat % 2 ^ 16 ∧ (63 : Word).toNat % 2 ^ 16 < 64 ∧ (4 : Nat) % 8 ≠ 0 := by decide
def keyed (idx : BitVec 6) (busy : Option (Nat × BitVec 384)) (vb : Bool) : State :=
  { s0 with pkg := { s0.pkg with keyIdx := idx, keyBusy := busy, vbBusy := vb, keys := [] } }
theorem witness_KeysAndVersions : (1 : Word).getLsbD 0 = true ∧ (keyed 1 none false).pkg.keyIdx ≠ 0 ∧ (keyed 1 none false).pkg.keyBusy = none ∧
    (keyed 1 (some (1, 5)) false).pkg.keyBusy = some (1, 5) ∧ (keyed 1 none true).pkg.vbBusy = true ∧ (keyed 0 none false).pkg.keyIdx = 0 := by decide +kernel
/-- Channel 0 of 256 MiB under a key; its first line is in its slice. -/
def window4 (ls : Map Line) : State :=
  { s0 with lines := ls, pkg := { s0.pkg with usable := 2 ^ 28, keys := [(0, 1)] } }
theorem witness_HostWindowOfDram : Bar4Serves (window4 [(0, ⟨5, 0, false, 0, 0⟩)]) 0 ∧ mfind (window4 [(0, ⟨5, 0, false, 0, 0⟩)]).lines 0 = some ⟨5, 0, false, 0, 0⟩ ∧
    ¬Bar4Serves (keyed 0 none false) 0 ∧ ¬Bar4Serves (window4 []) (1920 * 2 ^ 28) ∧ (window4 [(0, ⟨5, 0, false, 0, 0⟩)]).waiting = [] := by
  unfold Bar4Serves; decide +kernel
def image0 (signed : Bool) (sv : Nat) : FwImage := ⟨1, 2, sv, signed⟩
theorem witness_FirmwareAndAttestation : ({ s0 with pkg := { s0.pkg with bootst := 2 } } : State).pkg.bootst = 2 ∧ Verifies s0 (image0 true s0.pkg.fusedMin) ∧
    ¬Verifies s0 (image0 false 9) ∧ s0.pkg.bootst ≠ 2 := by unfold Verifies; decide +kernel
theorem witness_ScrubbingKeepsData : s0.pkg.scrub ≠ 0 ∧ (0 : Nat) ∉ s0.pkg.retiredCh ∧
    mfind ({ s0 with pkg := { s0.pkg with scrubHold := [(0, (0, 0))] } } : State).pkg.scrubHold 0 = some (0, 0) := by decide +kernel

/-! ### Witnesses: more forms of the statements above -/

/-- ADD takes no format, and a prefix is pending; the cache has room. -/
theorem witness_IllegalWordsTrap_prefix : ({ s0 with cores := [] }.putMe { s0.me with latchOn := true }).me.latchOn = true ∧
    encode (.add 3 1 2) = some 0x00611010 ∧ isBankCode (.add 3 1 2) = false ∧ takesFormat (.add 3 1 2) = false ∧ takesFormat (.vadd 3 1 2 0 0) = true := by
  decide +kernel
theorem witness_FetchReadsMemory_room : (page.core 0).icache.length < 16384 := by decide +kernel
/-- An instruction answers a given next state, decided by its outcome. -/
theorem next_of (o : Host.Outcome State Fault Refusal) (t : State)
    (h : (match o with | .next u => decide (u = t) | _ => false) = true) : o = .next t := by
  cases o <;> simp_all
/-- LD64 x3, 0(x1) behind an acquire that waits for its value: the context is left stalled. -/
def stallPage : State :=
  let s := s0.withFetchWord 32 ((encode (.ld64 3 1 0 0)).getD 0).toNat
  s.setCtx 0 0 { s.ctx 0 0 with windows := [⟨0, 0, .x 5, 0xFFFF, 15, false, .load (placed 8) false (some 5) false, none⟩], seq := 1 }
def stallIssue : State := { stallPage with tape := [] }
theorem witness_StepRunsDecoded_stalls : stallPage.tape = .issue 0 0 :: [] ∧ stallIssue.mayIssue 0 0 = true ∧ stallIssue.pick 0 0 [] = some (0, 0) ∧
    (∀ w ∈ (stallIssue.ctx 0 0).windows, w.left ≠ 0 ∨ w.held = true) ∧
    FetchesDram (stallIssue.setCtx 0 0 (stallIssue.ctx 0 0)) 0 (stallIssue.ctx 0 0).space (stallIssue.ctx 0 0).pc (placed 4) ∧
    decode (wordAt stallIssue (placed 4).loc) = some (.ld64 3 1 0 0) ∧ stallIssue.endYields 0 0 [] = stallIssue ∧
    (stallIssue.ctx 0 0).todo = none ∧ stallIssue.inMesh (.fetch 0 0) = false ∧ (stallIssue.ctx 0 0).regErr = [] ∧
    (let f := ((stallIssue.setCtx 0 0 (stallIssue.ctx 0 0)).fetch 0 (stallIssue.ctx 0 0).space (stallIssue.ctx 0 0).pc).2
      let v := { f with cur := { f.cur with core := 0, ctx := 0, word := wordAt stallIssue (placed 4).loc } }
      exec (.ld64 3 1 0 0) v = .next (after (.ld64 3 1 0 0) v) ∧ ((after (.ld64 3 1 0 0) v).ctx 0 0).run = .stalled) := by
  refine ⟨by decide +kernel, by decide +kernel, by decide +kernel, by decide +kernel, by unfold FetchesDram; decide +kernel, by decide +kernel,
    by decide +kernel, by decide +kernel, by decide +kernel, by decide +kernel, after_of _ _ (by decide +kernel), by decide +kernel⟩

/-- The thread has 4,095 stores pending at the level of the page. -/
def brimful : State :=
  let s := (pageAt 0x10000).putMe { (pageAt 0x10000).me with seq := 1 }
  s.setCore 0 { s.core 0 with storeQ := List.replicate 4095 (entry (placed 8) false), nextStore := 4095 }
theorem witness_WholeVectorAccess_brimful : Passes brimful 1 64 (effAddr brimful 1 0 64) false (placed 64) ∧ brimful.me.todo = none ∧
    ¬Counts brimful (vecWord (placed 64) 0) := by
  refine ⟨by unfold Passes; decide +kernel, by decide +kernel, by unfold Counts Room; decide +kernel⟩
/-- The slice has room for the line; a bank command runs whose write range holds it. -/
def engineWrites : State :=
  (queued (placed 8) false).setEng 0 { Engine.reset with run := some ⟨{ bcmd with wr := some page0 }, 3, 0, 0, none, none⟩ }
theorem witness_StoreReachesSlice_room : (queued (placed 8) false).bankWrites (placed 8).loc = false ∧ SliceRoom (queued (placed 8) false) (placed 8).loc ∧
    SliceRoom (queued (placed 8) true) (placed 8).loc := by unfold SliceRoom; decide +kernel
theorem witness_StoreReachesSlice_range : engineWrites.entryOf 0 0 = some (entry (placed 8) false) ∧ engineWrites.storeWay 0 (entry (placed 8) false) = true ∧
    engineWrites.mayWrite 0 (entry (placed 8) false) = true ∧ engineWrites.bankWrites (placed 8).loc = true ∧ mfind engineWrites.lines ((placed 8).loc / 64) = none := by
  decide +kernel
theorem witness_HeldRequestReachesRing_link : ({ holding with pkg := { holding.pkg with linkUp := true } } : State).pkg.linkUp = true ∧
    ({ holding with pkg := { holding.pkg with linkUp := false } } : State).pkg.linkUp = false ∧ holding.heldReqs = req0 :: [] := by decide +kernel
/-- A register in error: read by ADD, and by TLBW on a compute core, which is illegal first (13 R181). -/
def inError : State := threads [(0, { ready0 [] 0x40 with regErr := [.x 1] })]
theorem witness_ReturnAndTrapEvents_illegal : RegName.x 1 ∈ (Instr.tlbw 3 1 2).reads ∧ RegName.x 1 ∈ (inError.ctx 0 0).regErr ∧
    exec (.tlbw 3 1 2) inError = .next inError.illegal ∧ RegName.x 1 ∈ (Instr.add 3 1 2).reads ∧ exec (.add 3 1 2) inError ≠ .next inError.illegal := by
  refine ⟨by decide +kernel, by decide +kernel, next_of _ _ (by decide +kernel), by decide +kernel, fun h => ?_⟩
  have : (match exec (.add 3 1 2) inError with | .next u => decide (u.me.ecause = 1) | _ => false) = false := by decide +kernel
  rw [h] at this; exact absurd this (by decide +kernel)
/-- A number that is no CSR, one that is read-only, and SCOPECOST once firmware has written its table. -/
theorem witness_ControlRegisters_numbers : (0x00F : BitVec 12) ∉ csrNumbers ∧ (0x101 : BitVec 12) ∈ csrReadOnly ∧ (1 : BitVec 2) ≠ 0 ∧
    ({ s0 with pkg := { s0.pkg with scopeBoot := true } } : State).pkg.scopeBoot = true ∧
    ∀ l < 6, activeInstances s0 l + s0.pkg.podCounts.getD l 0 < 2 ^ 18 := by decide +kernel
/-- The core has given out a context in this cycle to a message, or to nothing; an acquire waits. -/
theorem witness_SplitInstruction_turn : (splits 3 1 0x40 false).handedPast 0 1 = false ∧
    ((splits 3 1 0x40 false).setCore 0 { (splits 3 1 0x40 false).core 0 with handAt := some (0, 2) }).handedPast 0 1 = true := by decide +kernel
def acquires : State := s0.putMe { s0.me with qtb := 0x10, windows := [⟨0, 0, .x 5, 0xFFFF, 15, false, .load (placed 8) false (some 5) false, none⟩], seq := 1 }
theorem witness_QueueInitAndCount_waits : 0x1000 + strideOf acquires ≤ 0xFC000 ∧ slotAt acquires 0 = 0x1000 ∧ ¬UnitActs acquires false [(0x1000, strideOf acquires)] ∧
    ¬UnitActs acquires true [(0x1000, strideOf acquires)] ∧ ¬UnitActs acquires true [] := by unfold UnitActs; decide +kernel
/-- A group of 32 K steps of a gang of one core, its rows in its own scratch. -/
theorem witness_GangOperations_reads : (∀ k, mget false (ganged none (some op0)).poison k = false) ∧
    (∀ x y q, (ganged none (some op0)).misrouted x y q = false) ∧ (∀ m c, (((ganged none (some op0)).core m).chan c).bound = none) := by
  refine ⟨fun k => rfl, fun x y q => ?_, fun m c => ?_⟩
  · rw [show (ganged none (some op0)).misrouted x y q = s0.misrouted x y q from rfl]; exact clean_reset.1 x y q
  · have h : ∀ n, ((ganged none (some op0)).core n).chans = [] := by
      intro n; unfold ganged; rw [State.core_setCore]; split <;> rfl
    unfold Core.chan; rw [h]; rfl
theorem witness_GangOperations_rows : (∀ i, i < 64 → 64 * i + 144 ≤ 2 ^ 20 ∧
    op0.w0 + BitVec.ofNat 64 (i * op0.w1.toNat + 0 * fmtWidth op0.fa.toNat / 8) = ownVa (64 * i)) ∧
    ∀ x, x < 32 → 0x2000 + 64 * x + 144 ≤ 2 ^ 20 ∧ op0.w2 + BitVec.ofNat 64 ((0 + x) * (op0.w3.toNat % 2 ^ 32)) = ownVa (0x2000 + 64 * x) := by
  decide +kernel
/-- A slice over the cap that computes, and one that has an operation and lacks its grant's wake. -/
theorem witness_PowerEvents_revoke_computing :
    (∀ r, InBlock 1 0 r → r = 1) ∧ (let m := ((twoHold.setCore 1 { s0.core 1 with mx := { Slice.reset with grant := true, awake := true, op := some op0 } }).core 1).mx
      m.op ≠ none ∧ m.grant = true ∧ m.awake = true ∧ m.revoking = false ∧ m.g.toNat = 0) := by
  refine ⟨fun r h => by obtain ⟨h1, h2, h3⟩ := h; omega, by decide +kernel⟩
/-- A queued message that may start stands before one that arrives; the core has given out a context in this cycle. -/
theorem witness_LaunchDistribution_behind : ({ moving (.route 0) (launch0 (rec2 0) .distributed 2) with
    cores := [(8, { s0.core 8 with inbox := [spawn0.msg] })] } : State).inboxReady 8 = true ∧ routeCore 0 8 0 = some 8 := by decide +kernel
theorem witness_SpawnMessages_behind : (spawning { s0.core 8 with inbox := [spawn0.msg] }).inboxReady 8 = true ∧
    (spawning { s0.core 8 with inbox := [spawn0.msg] }).handedPast 8 2 = false ∧
    (spawning { s0.core 8 with inbox := [spawn0.msg], handAt := some (0, 3) }).handedPast 8 2 = true ∧
    MayStart (spawning { s0.core 8 with inbox := [spawn0.msg] }) 8 spawn0.msg := by
  refine ⟨by decide +kernel, by decide +kernel, by decide +kernel, by decide +kernel, 0,
    lowest0 _ _ _ _ (by unfold IdleNow; decide +kernel) (by decide +kernel)⟩

/-- A launch that ends has a thread with every result landed, or one with a load on its way. -/
def endingWith (w : List Window) : State :=
  { host0 Queue.reset Ctl.reset [launch0 (rec2 0) (.ending 5) 2] with
    cores := [(0, { s0.core 0 with ctxs := [(0, { ready0 [] 0x40 with lid := 1, windows := w })] })] }
def inFlight : Window := ⟨0, 0, .x 5, 0xFFFF, 15, false, .load (placed 8) false none false, none⟩
theorem ending_mine (w : List Window) (n i : Nat) (h : ((endingWith w).ctx n i).lid = 1 ∧ ((endingWith w).ctx n i).run ≠ .idle) : n = 0 ∧ i = 0 := by
  have hc : ∀ m, m ≠ 0 → (endingWith w).core m = Core.reset := by
    intro m hm
    show mget Core.reset [(0, _)] m = Core.reset
    simp [mget, hm]
  by_cases hn : n = 0
  · subst hn
    refine ⟨rfl, ?_⟩
    by_cases hi : i = 0
    · exact hi
    · have : (endingWith w).ctx 0 i = Ctx.reset := by
        show mget Ctx.reset [(0, _)] i = Ctx.reset
        simp [mget, hi]
      rw [this] at h; exact absurd rfl h.2
  · have : (endingWith w).ctx n i = Ctx.reset := by
      show mget Ctx.reset ((endingWith w).core n).ctxs i = _
      rw [hc n hn]; rfl
    rw [this] at h; exact absurd rfl h.2
theorem witness_LaunchCompletion_landed : (endingWith []).launchOf 1 = some (launch0 (rec2 0) (.ending 5) 2) ∧ Tables (endingWith []) ∧
    NoCommands (endingWith []) 1 ∧ (rec2 0).extractLsb' 192 64 = 0 ∧
    ∀ n i, ((endingWith []).ctx n i).lid = 1 ∧ ((endingWith []).ctx n i).run ≠ .idle → Landed (endingWith []) n i ∧
      ∀ o, ((endingWith []).core n).mx.op = some o → o.ctx ≠ i := by
  refine ⟨by decide +kernel, by unfold Tables; decide +kernel, ⟨by decide +kernel, by decide +kernel, fun e h => ?_⟩, by decide +kernel, fun n i h => ?_⟩
  · rw [show (endingWith []).engines = [] by decide +kernel] at h
    exact absurd h List.not_mem_nil
  · obtain ⟨rfl, rfl⟩ := ending_mine [] n i h
    refine ⟨⟨by decide +kernel, fun w hw => ?_, by decide +kernel⟩, fun o ho => ?_⟩
    · rw [show ((endingWith []).ctx 0 0).windows = [] by decide +kernel] at hw
      exact absurd hw List.not_mem_nil
    · rw [show ((endingWith []).core 0).mx.op = none by decide +kernel] at ho; exact nomatch ho
theorem witness_LaunchCompletion_not_landed : ((endingWith [inFlight]).ctx 0 0).lid = 1 ∧ ((endingWith [inFlight]).ctx 0 0).run ≠ .idle ∧
    Tables (endingWith [inFlight]) ∧ ¬Landed (endingWith [inFlight]) 0 0 := by
  refine ⟨by decide +kernel, by decide +kernel, by unfold Tables; decide +kernel, fun h => ?_⟩
  have hw : inFlight ∈ ((endingWith [inFlight]).ctx 0 0).windows := by decide +kernel
  rcases h.2.1 _ hw with h | ⟨r, h⟩ <;> exact absurd h (by simp [inFlight])

/-- A pre-emption of launch 1 is in progress. -/
def preempting : State := host0 Queue.reset { Ctl.reset with busy := true, cmdLid := 1 } [launch0 (rec2 0) .halting 2]
theorem witness_LaunchCommands_terminate : (preempting.ctlOf 0).busy = true ∧ (preempting.ctlOf 0).cmdLid = 1 ∧
    preempting.launchOf 1 = some (launch0 (rec2 0) .halting 2) ∧ (preempting.ctlOf 0).cmdLid ≠ 2 ∧
    (host0 Queue.reset Ctl.reset [launch0 (rec2 0) (.ending 5) 2]).launchOf 1 = some (launch0 (rec2 0) (.ending 5) 2) := by decide +kernel

/-- Launch 1 is halted with one thread, in context 0 of core 0, that waited for nothing and has a window whose load faulted. -/
def haltedOne : State :=
  { preempt Ctl.reset Queue.reset (launch0 (rec2 0) .halted 2) [] with
    cores := [(0, { s0.core 0 with ctxs := [(0, { ready0 [(1, 7)] 0x40 with
      lid := 1, run := .halted none, windows := [⟨0, 0, .x 5, 0xFFFF, 3, false, .none, some (.fault 3 0 9)⟩] })] })] }
theorem halted_mine (n i : Nat) : (n, i) ∈ [((0 : Nat), (0 : Nat))] ↔ HoldsThread haltedOne n i 1 := by
  constructor
  · intro h
    obtain ⟨rfl, rfl⟩ : n = 0 ∧ i = 0 := by simpa using h
    unfold HoldsThread; decide +kernel
  · intro h
    have hc : ∀ m, m ≠ 0 → haltedOne.core m = Core.reset := by
      intro m hm
      show mget Core.reset [(0, _)] m = Core.reset
      simp [mget, hm]
    by_cases hn : n = 0
    · subst hn
      by_cases hi : i = 0
      · simp [hi]
      · have : haltedOne.ctx 0 i = Ctx.reset := by
          show mget Ctx.reset [(0, _)] i = Ctx.reset
          simp [mget, hi]
        rw [HoldsThread, this] at h; exact absurd rfl h.2
    · have : haltedOne.ctx n i = Ctx.reset := by
        show mget Ctx.reset (haltedOne.core n).ctxs i = _
        rw [hc n hn]; rfl
      rw [HoldsThread, this] at h; exact absurd rfl h.2
/-- Its region: 4,096 bytes of header, 64 of index, 2,688 of record and 320 of queues. -/
theorem witness_SaveContents : Tables haltedOne ∧ haltedOne.launchOf 1 = some (launch0 (rec2 0) .halted 2) ∧
    NoCommands haltedOne 1 ∧ (∀ n i, (n, i) ∈ [((0 : Nat), (0 : Nat))] ↔ HoldsThread haltedOne n i 1) ∧
    (∀ n, n ∈ ([] : List Nat) ↔ ∃ i, (haltedOne.core n).mx.owner = some i ∧ HoldsThread haltedOne n i 1) ∧
    4096 + to64 16 + recordBytes (haltedOne.ctx 0 0) + to64 272 = 7168 := by
  refine ⟨by unfold Tables; decide +kernel, by decide +kernel, ⟨by decide +kernel, by decide +kernel, fun e h => ?_⟩, halted_mine, fun n => ?_, by decide +kernel⟩
  · rw [show haltedOne.engines = [] by decide +kernel] at h
    exact absurd h List.not_mem_nil
  · refine ⟨fun h => absurd h List.not_mem_nil, fun ⟨i, h, g⟩ => ?_⟩
    obtain ⟨rfl, rfl⟩ : n = 0 ∧ i = 0 := by simpa using (halted_mine n i).2 g
    rw [show (haltedOne.core 0).mx.owner = none by decide +kernel] at h; exact nomatch h
theorem witness_SaveContents_region : RegionFits haltedOne 0 (7168 / 8) := by
  refine ⟨by decide, fun k => 8 * k, fun k hk => ?_⟩
  have h : ∀ k, k < 896 → haltedOne.globalLoc (0 + 8 * k) = some (8 * k) ∧ isDram (8 * k) = true := by decide +kernel
  exact ⟨(h k hk).1, Nat.mul_mod_right 8 k, (h k hk).2, fun j _ e => Nat.eq_of_mul_eq_mul_left (by decide : 0 < 8) e⟩
theorem witness_SaveContents_context : ((haltedOne.ctx 0 0).copyQ.length ≤ 16 ∧ (haltedOne.ctx 0 0).bankQ.length ≤ 16) ∧
    ∀ q ∈ (haltedOne.ctx 0 0).windows, q.left < 16 ∧ q.res = some (.fault 3 0 9) := by decide +kernel
/-- With no poison, no cached line and no tags, no word of the save region is bad. -/
theorem region_clean (s : State) (hp : s.poison = []) (hl : s.lines = []) (ht : s.pkg.tagsOn = false) (off : Nat) : s.regionBad off = false := by
  have room : ∀ ln, s.sliceRoom ln = s := by
    intro ln
    have : s.sliceSet ln = [] := by simp [State.sliceSet, hl]
    unfold State.sliceRoom; rw [this]
  have pois : ∀ ln, (s.dramLine ln 0 0).1.pois = 0 := by
    intro ln
    have h : ∀ b : Bool, (if (s.pkg.tagsOn && b) = true then s.failTag (ln / 4) else s) = s := by simp [ht]
    have z : BitVec.ofNat 8 (State.dramLine.joinBits ((List.range 8).map fun i => mget false s.poison (ln * 8 + i))) = 0 := by
      simp [hp, mget, List.range, List.range.loop, State.dramLine.joinBits]
    unfold State.dramLine
    simp only [h, z]
    split <;> (try split) <;> rfl
  have line : ∀ ln k, (s.sliceLine ln 0 0 k).1.pois = 0 := by
    intro ln k
    have hm : mfind s.lines ln = none := by rw [hl]; rfl
    unfold State.sliceLine
    simp only [hm, room, ite_self]
    exact pois ln
  unfold State.regionBad State.regionRead State.regionAcc
  cases s.globalLoc off with
  | none => rfl
  | some loc =>
    simp only [Option.map_some, Option.getD_some, State.homeRead]
    split
    · simp [line]
    · simp [anyPoison, hp, mget]
theorem witness_PreemptionEvents_clean : ∀ k, oneSaved.regionBad (0 + 8 * k) = false :=
  fun _ => region_clean _ (by decide +kernel) (by decide +kernel) (by decide +kernel) _

/-- A package reached by port 3, which port 5 also reaches, and one that only port 3 does. -/
def podded (down : Bool) : State :=
  { etgused { Etgus.reset with training := true, trainFails := 2 } 0 with
    etgus := [(3, { Etgus.reset with training := true, trainFails := 2 }), (5, { Etgus.reset with down := down })]
    pkg := { s0.pkg with podmap := 0xFF, route := 0x0303, podPorts := [(1, 5)] } }
theorem witness_LinkEvents_routes : Tables (podded false) ∧ (podded false).otherPort 3 1 = some 5 ∧ (podded false).otherPort 3 0 = none ∧
    (podded true).otherPort 3 1 = none ∧ (podded false).pkg.route.toNat / 2 ^ 8 % 2 ^ 8 = 3 ∧ ((podded false).port 3).trainFails = 2 := by
  unfold Tables; decide +kernel
/-- Package 5 is in the pod by port 2, or is not; an access meets a word whose lock bit is held. -/
def forwards (m : BitVec 64) : State := { s0 with pkg := { s0.pkg with podmap := m, route := 2 <<< 40 } }
def heldWord : State := s0.setCore 1 { s0.core 1 with lockBits := [⟨lockBank (scratchAt 1 + 64), lockIdx (scratchAt 1 + 64), 1, 0⟩] }
theorem witness_PodWindowRequests_forward : (forwards 0x20).pkg.podmap.getLsbD 5 = true ∧ (forwards 0x20).routePort 5 < 12 ∧
    (forwards 0).pkg.podmap.getLsbD 5 = false ∧ s0.podWaits ⟨0, .atomic, podVa 0, 8, 0, 1, 0, none, 0⟩ ⟨podVa 0, scratchAt 1 + 64, 8, false, 0, 0⟩ = false ∧
    heldWord.podWaits ⟨0, .atomic, podVa 0, 8, 0, 1, 0, none, 0⟩ ⟨podVa 0, scratchAt 1 + 64, 8, false, 0, 0⟩ = true := by
  decide +kernel
/-- A write of PODMAP that takes package 5 away, and one that does not; the MSI-X table with a pending masked vector. -/
theorem witness_HostRegisterWrites_gone : (forwards 0x20).pkg.podmap.getLsbD 5 = true ∧ (0 : Word).getLsbD 5 = false ∧ Tables (forwards 0x20) ∧
    (∀ q, q < 64 → ¬((forwards 0x20).pkg.podmap.getLsbD q = true ∧ (0xFF : Word).getLsbD q = false)) ∧ (12 : Nat) % 8 ≠ 0 := by
  unfold Tables; decide +kernel
theorem witness_HostWindowOfDram_ways : ∀ k, (window4 []).misrouted hostNode (homeNode 0) k = false := by
  intro k; rw [show (window4 []).misrouted hostNode (homeNode 0) k = s0.misrouted hostNode (homeNode 0) k from rfl]; exact clean_reset.1 _ _ _
theorem witness_PodWindowRequests_ways : ∀ x y c, s0.misrouted x y c = false := clean_reset.1
theorem witness_KeysAndVersions_dies : (11 : Nat) < 12 ∧ (11 : Nat) ∉ (keyed 1 none true).pkg.vbDone := by decide +kernel
/-- A thread whose fetch at its pc is lost, with a handler; and one that waits on a word beyond the host link, alone. -/
theorem witness_MeshRouting_fetch : let u := handled.ctx 0 0
    u.pc = 0x104 ∧ u.run = .ready ∧ NoneDue u ∧ CanEnter u ⟨3, 3, 0x104, u.pc, false, false, 0⟩ := by
  unfold NoneDue CanEnter; decide +kernel
def hostWaits : State := threads [(0, { ready0 [] 0x40 with run := .waiting (.word 8 hostAt 0 7) })]
theorem witness_LinkEvents_waits : let u := hostWaits.ctx 0 0
    u.run = .waiting (.word 8 hostAt 0 7) ∧ (fun a : Acc => isHost a.loc) ⟨8, hostAt, 8, false, 0, 0⟩ = true ∧ u.windows = [] ∧
    CanEnter u ⟨3, 0, 8, u.pc, false, false, 0⟩ := by
  unfold CanEnter; decide +kernel
theorem witness_LinkEvents_one : ∀ m j, WaitLost (hostWaits.ctx m j).run (fun a => isHost a.loc) → (m, j) = (0, 0) := by
  intro m j h
  match m, j with
  | 0, 0 => rfl
  | 0, _ + 1 => exact h.elim
  | _ + 1, _ => exact h.elim

/-! ### Witnesses: the hypotheses that name what is in progress -/

/-- The controller of `distributing0` has sent no message in this cycle, or it has. -/
theorem witness_LaunchDistribution_cycle : (distributing0.ctlOf 0).emitAt ≠ some distributing0.clock.toNat ∧
    ((host0 Queue.reset { Ctl.reset with emitAt := some 0 } []).ctlOf 0).emitAt = some (host0 Queue.reset Ctl.reset []).clock.toNat := by decide +kernel
/-- No instruction of the threads that a status goes to has issued past a due result. -/
theorem witness_LaunchRecords_answered : ((launching [] 0).ctx devLaunch.core devLaunch.ctx).past = [] ∧
    ((spawning (s0.core 8)).ctx spawn0.core spawn0.ctx).past = [] := by decide +kernel
theorem witness_LaunchCompletion_ways : (∀ x y q, recorded.misrouted x y q = false) ∧ (∀ m ∈ (recorded.core (1024 + 0)).misses, m.ctx = 82 → m.failed = false) ∧
    (hostAcc 0x10008).loc ≠ (hostAcc 0x10010).loc := by
  refine ⟨fun x y q => ?_, by decide +kernel, by decide +kernel⟩
  rw [show recorded.misrouted x y q = s0.misrouted x y q from rfl]; exact clean_reset.1 x y q

/-- A save region over one channel lies in that channel as it stands. -/
theorem region_channel (c : Ctl) (q : Queue) (l : Launch) (m : Map Byte) (a x : Nat) (h : (preempt c q l m).globalLoc a = some x) : x = a := by
  have : (preempt c q l m).globalLoc a = stripe [0] 64 0 a := rfl
  rw [this] at h
  unfold stripe at h
  simp only [List.length_singleton, Nat.one_mul, Nat.div_one, Nat.mod_one] at h
  split at h
  · exact nomatch h
  · have e : 0 * chanSize + (0 + a / 4096) * 4096 + a % 4096 = x := Option.some.inj h
    omega
/-- The region of a launch that waited: one window of 8 bytes at the start of core 0's scratch. -/
def waitedWindow : State := resuming0 true false [(48, 1), (57, 0x10), (0x100C, 8), (0x1010, 7)] []
theorem witness_PreemptionEvents_windows : (resuming0 true false [] []).regionVal (0 + 48) = 0 ∧ waitedWindow.regionVal (0 + 48) = 1 ∧
    waitedWindow.regionVal (8 * 7) = 0x1000 ∧ 0x1000 % 8 = 0 ∧ imageOf [] (coreNamed (BitVec.ofNat 64 (waitedWindow.regionVal (8 * (0x1000 / 8))))) = 0 ∧
    waitedWindow.regionVal (8 * (0x1000 / 8 + 1)) = 8 * 2 ^ 32 ∧ waitedWindow.regionVal (8 * (0x1000 / 8 + 2)) = 7 ∧
    waitedWindow.launchOf 1 = some { launch0 (rec2 0) .resuming 2 with waitq := true } := by decide +kernel
theorem witness_PreemptionEvents_places : ∀ k a, waitedWindow.globalLoc (0 + 8 * k) = some a → isDram a = true ∧ a % 8 = 0 := by
  intro k a h
  have e := region_channel _ _ _ _ _ _ h
  have b : a < 64 * 4096 := by
    have h' : stripe [0] 64 0 (0 + 8 * k) = some a := h
    unfold stripe at h'
    simp only [List.length_singleton, Nat.one_mul] at h'
    split at h'
    · exact nomatch h'
    · omega
  refine ⟨by unfold isDram; exact decide_eq_true (by omega), by omega⟩
theorem witness_LaunchCommands_clean : (∀ k, headed.regionBad (savePlace headed 0 + 8 * k) = false) ∧
    ({ headed with poison := [(0, true)] } : State).regionBad (savePlace headed 0) = true :=
  ⟨fun _ => region_clean _ (by decide +kernel) (by decide +kernel) (by decide +kernel) _, by decide +kernel⟩
theorem witness_SaveContents_order : (haltedOne.ctx 0 0).windows.Pairwise (fun p q => p.seq < q.seq) ∧ (haltedOne.ctx 0 0).past = [] ∧
    (haltedOne.ctx 0 0).todo = none := by decide +kernel

/-- A request that its list ejects here: at its destination, elsewhere, and at a unit that does not serve its kind; one with no way. -/
theorem witness_MeshRouting_ejects :
    (let p := { packet 96 1 true 0 0 (some (.group 0 0 5)) with dst := nodeAt 0 3 5 };
      (entryNow p).left ≠ 0 ∧ (entryNow p).turns.toNat % 2 ^ 7 / 2 ^ 5 = 3 ∧ nodeAt (nodePort p.dst) (nodeX p.node) (nodeRow p.node) = p.dst ∧
      nodeServes p.dst p.kind.toNat = true ∧ p.reply = false ∧ (meshed p).ready p = true ∧ (meshed p).chosen p = true) ∧
    (let p := packet 96 1 true 0 0 (some (.group 0 0 5));
      nodeAt (nodePort p.dst) (nodeX p.node) (nodeRow p.node) ≠ p.dst ∧ nodeServes (nodeAt 0 3 5) p.kind.toNat = true ∧
      p.own = some (.group 0 0 5) ∧ nodeRow p.node ≤ 17) ∧
    nodeServes (nodeAt 0 3 5) 17 = false ∧ (entryNow (packet 0 1 false 0 0 none)).left = 0 ∧ nodeRow (packet 0 1 false 0 0 none).node ≤ 17 := by decide +kernel
/-- Replies that carry a load's value and a fault, for the load that is pending in context 0's first window. -/
theorem witness_MeshRouting_replies : (packet 96 1 true 0 5 (some (.window 0 0 0))).reply = true ∧ (packet 96 1 true 0 8 (some (.window 0 0 0))).reply = true ∧
    nodeServes (nodeAt 0 3 5) 5 = true ∧ nodeServes (nodeAt 0 3 5) 8 = true ∧ (loading.ctx 0 0).past = [] ∧
    (loading.winOf 0 0 0).map (·.pend) = some (.load (placed 8) false none false) ∧ (placed 8).size = 8 := by decide +kernel
theorem witness_LinkEvents_past : (∀ n i, ((podded false).ctx n i).past = []) ∧ (∀ n i, ¬WaitLost ((podded false).ctx n i).run (fun a => isRemote a.loc)) ∧
    (hostWaits.ctx 0 0).past = [] := by
  refine ⟨fun n i => ?_, fun n i => ?_, by decide +kernel⟩
  · rw [show (podded false).ctx n i = Ctx.reset from rfl]; rfl
  · rw [show (podded false).ctx n i = Ctx.reset from rfl]; exact id
/-- Each kind of request that waits for nothing, and a copy engine's that a watermark would hold. -/
theorem witness_PodWindowRequests_kinds : (∀ k ∈ [PodKind.load, .store, .engineLoad, .engineStore, .accumulate, .atomic],
      s0.podWaits ⟨0, k, podVa 0, 8, 0, 1, 0, none, 0⟩ ⟨podVa 0, scratchAt 1 + 64, 8, false, 0, 0⟩ = false) ∧
    (let s := s0.setCore 1 { s0.core 1 with chans := [(0, bound0 0)] };
      s.podWaits ⟨0, .load, podVa 0, 8, 0, 1, 0, none, 0⟩ ⟨podVa 0, scratchAt 1 + 64, 8, false, 0, 0⟩ = true ∧
      s.podWaits ⟨0, .engineLoad, podVa 0, 8, 0, 1, 0, none, 0⟩ ⟨podVa 0, scratchAt 1 + 64, 8, false, 0, 0⟩ = false) := by decide +kernel
theorem witness_ParkingAndDebug_excuse : ((s0.setCore 0 { s0.core 0 with excuseDue := some true }).core 0).excuseDue ≠ none ∧
    (0 : Nat) < 256 := by decide +kernel
theorem witness_ControlRegisters_cycles : Tables s0 ∧ 1 ≤ 1 := by unfold Tables; decide +kernel

/-! ### One step each; the expected values are computed by hand from the rules cited -/

/-- A thread with x1 = a and x2 = b. -/
def with12 (a b : Word) : State := threads [(0, ready0 [(1, a), (2, b)] 0x40)]
/-- x[3] after an instruction on them. -/
def x3 (i : Instr) (a b : Word) : Word := (after i (with12 a b)).me.rx 3
/-- Lane 0 of v[3] after an instruction on lanes 0 of v1 = a, v2 = b, v3 = c. -/
def lane3 (i : Instr) (a b c : Nat) : Nat :=
  (((after i (threads [(0, { ready0 [] 0x40 with v := [(1, BitVec.ofNat 512 a), (2, BitVec.ofNat 512 b), (3, BitVec.ofNat 512 c)] })])).me.rv 3).extractLsb' 0 32).toNat

/-- 12 R156: addition wraps; the high product of −1 and −1 is 0 signed and 2^64 − 2 unsigned. -/
theorem test_add_wraps : x3 (.add 3 1 2) 0xFFFFFFFFFFFFFFFF 2 = 1 := by decide +kernel
theorem test_mulh : x3 (.mulh 3 1 2) (-1) (-1) = 0 ∧ x3 (.mulhu 3 1 2) (-1) (-1) = 0xFFFFFFFFFFFFFFFE := by decide +kernel
/-- 12 R156: a shift amount is taken mod 64. -/
theorem test_shift_amount : x3 (.sll 3 1 2) 1 65 = 2 ∧ x3 (.sra 3 1 2) 0x8000000000000000 63 = 0xFFFFFFFFFFFFFFFF := by decide +kernel
theorem test_sub_operands : x3 (.sub 3 1 2) 3 5 = 0xFFFFFFFFFFFFFFFE ∧ x3 (.andn 3 1 2) 0xF 3 = 0xC := by decide +kernel
theorem test_slt : x3 (.slt 3 1 2) (-1) 0 = 1 ∧ x3 (.sltu 3 1 2) (-1) 0 = 0 := by decide +kernel
theorem test_clz_zero : x3 (.clz 3 1) 0 0 = 64 ∧ x3 (.ctz 3 1) 8 0 = 3 ∧ x3 (.popc 3 1) 0xFF 0 = 8 := by decide +kernel
/-- 11 R127: x0 reads 0 after a write to it. -/
theorem test_x0 : (after (.add 0 1 2) (with12 1 2)).me.rx 0 = 0 ∧ (after (.add 0 1 2) (with12 1 2)).me.pc = 4 := by decide +kernel
theorem test_addi_signed : x3 (.addi 3 1 0xFFFF) 5 0 = 4 ∧ x3 (.shiRor 3 1 4) 0x1F 0 = 0xF000000000000001 := by decide +kernel
/-- 12 R160, R161: a taken branch adds four times its immediate; JALR clears nothing and links pc + 4. -/
theorem test_branch : (after (.blt 1 2 0xFFFF) (with12 (-1) 0)).me.pc = -4 ∧ (after (.bltu 1 2 0xFFFF) (with12 (-1) 0)).me.pc = 4 := by decide +kernel
theorem test_jalr : (after (.jalr 3 1 8) (with12 0x100 0)).me.pc = 0x108 ∧ x3 (.jalr 3 1 8) 0x100 0 = 4 := by decide +kernel
/-- 12: SCOPE of 0x555 and 0x551 is 3 (the spec's example). -/
theorem test_scope : x3 (.scope 3 1 2) 0x555 0x551 = 3 := by decide +kernel
/-- 13 R182: a trap saves the pc past TRAP, and goes to the handler. -/
theorem test_trap : (after (.trap 1) (with12 7 0)).me.pc = 0x40 ∧ (after (.trap 1) (with12 7 0)).me.etval = 7 ∧
    (after (.trap 1) (with12 7 0)).me.inh = true := by decide +kernel
theorem test_eret : (after .eret (threads [(0, { ready0 [] 0x40 with inh := true, epc := 0x88 })])).me.pc = 0x88 ∧
    (after .eret (threads [(0, { ready0 [] 0x40 with inh := true, epc := 0x88 })])).me.inh = false := by decide +kernel
/-- 13 R180: a read-only CSR is not written by CSRW; the old value of vflg0 is read before it is cleared by CSRC. -/
theorem test_csr : (after (.csrs 3 1 0x005) (with12 5 0)).me.rx 3 = (with12 5 0).me.vflg0 := by decide +kernel

/-- 17 R239: the spec's VDOT4 example after FMT a=ds8, b=i8: lane 0 holds 366. -/
theorem test_vdot4 : (((after (.vdot4 3 1 2 0 0) (after (.fmt 11 1 0 0 0 0) (threads [(0, { ready0 [] 0x40 with v := [(1, 0x00770A1D), (2, 0x036404F9)] })]))).me.rv 3).extractLsb' 0 32) = 366 := by
  decide +kernel
/-- 17 R227: each 32-bit lane alone: a carry does not reach the next. -/
theorem test_vadd : ((after (.vadd 3 1 2 0 0) (threads [(0, { ready0 [] 0x40 with v := [(1, 0x2FFFFFFFF), (2, 1)] })])).me.rv 3).extractLsb' 0 64 = 0x200000000 := by
  decide +kernel
/-- 17 R229, 06 R71: FP32 1.5 + 2.25 = 3.75, 3 × −2 = −6, 2 × 3 + 1 = 7. -/
theorem test_vfadd : lane3 (.vfadd 3 1 2 0 0) 0x3FC00000 0x40100000 0 = 0x40700000 ∧ lane3 (.vfmul 3 1 2 0 0) 0x40400000 0xC0000000 0 = 0xC0C00000 ∧
    lane3 (.vfma 3 1 2 0 0) 0x40000000 0x40400000 0x3F800000 = 0x40E00000 := by decide +kernel
/-- 1 / 3 to nearest is 0x3EAAAAAB; the square root of 2 is 0x3FB504F3. -/
theorem test_vfdiv : lane3 (.vfdiv 3 1 2 0 0) 0x3F800000 0x40400000 0 = 0x3EAAAAAB ∧ lane3 (.vfsqrt 3 1 0 0) 0x40000000 0 0 = 0x3FB504F3 := by decide +kernel
/-- 17 R240: KLEN clamps at 16; k0 reads as all ones. -/
theorem test_klen : (after (.klen 2 1 0) (with12 3 0)).me.rk 2 = 7 ∧ (after (.klen 2 1 0) (with12 99 0)).me.rk 2 = 0xFFFF ∧
    (after (.klen 2 1 0) (with12 (-1) 0)).me.rk 2 = 0 := by decide +kernel
/-- 17 R238: lanes 7, 3, 5 of a VSORT over three lanes; the others are all ones. -/
theorem test_vsort : ((after (.vsort 3 1 0 1) (threads [(0, { ready0 [] 0x40 with k := [(1, 7)], v := [(1, 5 * 2 ^ 64 + 3 * 2 ^ 32 + 7)] })])).me.rv 3).extractLsb' 0 128 = 0xFFFFFFFF000000070000000500000003 := by
  decide +kernel
/-- 12 R163, 04: a store waits in the queue, and its thread reads it back before it is written. -/
theorem test_store_forwards : (after (.st64 2 1 0) (with12 (own 8) 0x1122)).myCore.storeQ.length = 1 ∧
    (after (.ld64 3 1 0 0) (after (.st64 2 1 0) (with12 (own 8) 0x1122))).me.windows.length = 1 := by decide +kernel
/-- 08 R107, 13 R182: a misaligned load is CAUSE 2, KIND 0, with the address in etval. -/
theorem test_misaligned : (after (.ld64 3 1 0 0) (with12 (own 4) 0)).me.etval = own 4 ∧ (after (.ld64 3 1 0 0) (with12 (own 4) 0)).me.pc = 0x40 ∧
    (after (.ld64 3 1 0 0) (with12 (own 4) 0)).me.ecause % 16 = 2 := by decide +kernel
/-- 26 R339, R340: e3 = 5 · 2^4; BADD adds a signed immediate; BHALT ends with status 0. -/
theorem test_bset : ereg ((after (.bset 3 4 5) eng0).eng 0) 3 = 80 ∧ ereg ((after (.badd 3 3 0xFFFFF) eng0).eng 0) 3 = 15 := by decide +kernel
theorem test_bhalt : ((after .bhalt eng0).eng 0).run.map (·.ended) = some (some ⟨0, 0, 0⟩) := by decide +kernel
/-- The last cycle of each word: step runs ADD x3, x1, x2 at 0x10000. -/
theorem test_step : (match step (page.putMe ((page.me.wx 1 3).wx 2 4)) with
    | .next t => (t.ctx 0 0).rx 3
    | .fault _ | .refused _ => 0) = 7 := by decide +kernel

/-! ### Witnesses by the statement's own name, for those whose hypotheses a shared witness meets -/

theorem witness_RegisterArithmetic : s0.me.latchOn = false := witness_no_prefix
theorem witness_BitCounts : s0.me.latchOn = false := witness_no_prefix
theorem witness_ImmediateForms : s0.me.latchOn = false := witness_no_prefix
theorem witness_ConditionalBranches : s0.me.latchOn = false := witness_no_prefix
theorem witness_ScopeOfTwoPlaces : s0.me.latchOn = false := witness_no_prefix
theorem witness_PrefetchIsAHint : s0.me.latchOn = false := witness_no_prefix
theorem witness_PredicateInstructions : s0.me.latchOn = false := witness_no_prefix
theorem witness_ControlRegisters : s0.me.latchOn = false := witness_no_prefix
theorem witness_MembershipInstructions : s0.me.latchOn = false := witness_no_prefix
theorem witness_VectorIntegers : Governed s0 vintFmt := witness_Governed.2.1
theorem witness_VectorCompares : Governed s0 vcmpFmt := witness_Governed.2.2.1
theorem witness_VectorFloats : Governed s0 vfltFmt := witness_Governed.2.2.2.1
theorem witness_VectorFloatCompares : Governed s0 vfltFmt := witness_Governed.2.2.2.1
theorem witness_ElementMoves : Governed s0 vmoveFmt ∧ Governed s0 vbcastFmt := ⟨witness_Governed.2.2.2.2.1, witness_Governed.2.2.2.2.2.1⟩
theorem witness_SortAndCompress : Governed s0 vmoveFmt := witness_Governed.2.2.2.2.1
theorem witness_IntegerReductions : Governed s0 vredFmt := witness_Governed.2.2.2.2.2.2.1
theorem witness_IntegerScans : Governed s0 vredFmt := witness_Governed.2.2.2.2.2.2.1
theorem witness_FloatReductions : Governed s0 vredfFmt := witness_Governed.2.2.2.2.2.2.2.1
theorem witness_FloatScan : Governed s0 vredfFmt := witness_Governed.2.2.2.2.2.2.2.1
theorem witness_DotProducts : Governed s0 vdot4Fmt ∧ Governed s0 vfdotFmt :=
  ⟨witness_Governed.2.2.2.2.2.2.2.2.1, witness_Governed.2.2.2.2.2.2.2.2.2.1⟩
theorem witness_Conversions : Governed s0 vcvtFmt ∧ Governed s0 vpackFmt ∧ Governed s0 vunpkFmt := witness_Governed.2.2.2.2.2.2.2.2.2.2
theorem witness_QueueMerge : (qState 0 (9 * 2 ^ 32 + 3) []).me.latchOn = false ∧ Runs (qState 0 (9 * 2 ^ 32 + 3) []) ∧
    QueueOk (qState 0 (9 * 2 ^ 32 + 3) []) true 8 0x1000 ∧ UnitActs (qState 0 (9 * 2 ^ 32 + 3) []) true [(0x1000 + 64, 8 * 4)] :=
  ⟨witness_QueueOk.1, witness_QueueOk.2.1, witness_QueueOk.2.2.2.1 true, witness_QueueOk.2.2.2.2.2.1⟩
theorem witness_CurveVectors : Shaped (curve []) 2 4 := witness_CurveCodes.1

end Sys2Proof.Tests

end
end

section
/-! SUPPORT. Chapter 12 on words: what the operations of R156 and R157 compute, with no machine state in them. -/

open Sys2Proof Sys2Proof.Machine Sys2Proof.Claims

namespace Sys2Proof.Laws

/-! ### Logic and shifts -/

/-- The complement of a word is taken within its 64 bits. -/
theorem getLsbD_and_not (a b : Word) (j : Nat) (hj : j < 64) :
    (a &&& ~~~b).getLsbD j = (a.getLsbD j && !b.getLsbD j) := by
  simp [hj]

theorem toNat_shiftLeft_eq_mul (a : Word) (n : Nat) : (a <<< n).toNat = a.toNat * 2 ^ n % 2 ^ 64 := by
  rw [BitVec.toNat_shiftLeft, Nat.shiftLeft_eq]

theorem toNat_ushiftRight_eq_div (a : Word) (n : Nat) : (a >>> n).toNat = a.toNat / 2 ^ n := by
  rw [BitVec.toNat_ushiftRight, Nat.shiftRight_eq_div_pow]

theorem toInt_sshiftRight_eq_div (a : Word) (n : Nat) : (a.sshiftRight n).toInt = a.toInt / 2 ^ n := by
  rw [BitVec.toInt_sshiftRight, Int.shiftRight_eq_div_pow]; norm_cast

/-- Bit j of a rotation is bit j + n, counted around the word. -/
theorem getLsbD_rotateRight_mod (a : Word) {n j : Nat} (hn : n < 64) (hj : j < 64) :
    (a.rotateRight n).getLsbD j = a.getLsbD ((j + n) % 64) := by
  rw [BitVec.getLsbD_rotateRight, Nat.mod_eq_of_lt hn]
  by_cases hw : j < 64 - n
  · have e : n + j = (j + n) % 64 := by omega
    simp [hw, e]
  · have e : j - (64 - n) = (j + n) % 64 := by omega
    simp [hw, hj, e]

/-! ### Comparisons -/

theorem flag_slt (a b : Word) : flag (a.slt b) = if a.toInt < b.toInt then 1 else 0 := by
  simp [flag, BitVec.slt_iff_toInt_lt]

theorem flag_ult (a b : Word) : flag (a.ult b) = if a.toNat < b.toNat then 1 else 0 := by
  simp [flag, BitVec.ult_eq_decide]

theorem toInt_minS (a b : Word) : (if b.slt a then b else a).toInt = min a.toInt b.toInt := by
  by_cases h : b.toInt < a.toInt
  · rw [if_pos (BitVec.slt_iff_toInt_lt.2 h)]; omega
  · rw [if_neg (mt BitVec.slt_iff_toInt_lt.1 h)]; omega

theorem toInt_maxS (a b : Word) : (if a.slt b then b else a).toInt = max a.toInt b.toInt := by
  by_cases h : a.toInt < b.toInt
  · rw [if_pos (BitVec.slt_iff_toInt_lt.2 h)]; omega
  · rw [if_neg (mt BitVec.slt_iff_toInt_lt.1 h)]; omega

theorem toNat_minU (a b : Word) : (if b.ult a then b else a).toNat = min a.toNat b.toNat := by
  by_cases h : b.toNat < a.toNat
  · rw [if_pos (BitVec.ult_iff_lt.2 h)]; omega
  · rw [if_neg (mt BitVec.ult_iff_lt.1 h)]; omega

theorem toNat_maxU (a b : Word) : (if a.ult b then b else a).toNat = max a.toNat b.toNat := by
  by_cases h : a.toNat < b.toNat
  · rw [if_pos (BitVec.ult_iff_lt.2 h)]; omega
  · rw [if_neg (mt BitVec.ult_iff_lt.1 h)]; omega

/-! ### High halves of products -/

/-- The signed product lies within ±2^126, so that its high half is a word. -/
theorem toInt_mulHigh (a b : Word) : (mulHigh a b).toInt = a.toInt * b.toInt / 2 ^ 64 := by
  have hi : a.toInt * b.toInt ≤ 2 ^ 126 := BitVec.toInt_mul_toInt_le
  have lo : -2 ^ 126 ≤ a.toInt * b.toInt := BitVec.le_toInt_mul_toInt
  exact BitVec.toInt_ofInt_eq_self (by decide) (by omega) (by omega)

theorem toNat_mulHighU (a b : Word) : (mulHighU a b).toNat = a.toNat * b.toNat / 2 ^ 64 := by
  have h : a.toNat * b.toNat < 2 ^ 64 * 2 ^ 64 := Nat.mul_lt_mul'' a.isLt b.isLt
  rw [mulHighU, BitVec.toNat_ofNat, Nat.mod_eq_of_lt (Nat.div_lt_of_lt_mul h)]

/-! ### Bit counts -/

/-- With n leading zeros a word is below 2^(64 - n), and its bit 63 - n is set unless it is zero. -/
theorem clz_bounds (a : Word) :
    (clz a).toNat ≤ 64 ∧ a.toNat < 2 ^ (64 - (clz a).toNat) ∧ ((clz a).toNat < 64 → 2 ^ (63 - (clz a).toNat) ≤ a.toNat) := by
  unfold clz
  split
  case isTrue h => subst h; decide
  case isFalse h =>
    have h0 : a.toNat ≠ 0 := fun e => h (BitVec.eq_of_toNat_eq e)
    have hlog : a.toNat.log2 < 64 := (Nat.log2_lt h0).2 a.isLt
    have e : (BitVec.ofNat 64 (63 - a.toNat.log2)).toNat = 63 - a.toNat.log2 := by
      rw [BitVec.toNat_ofNat]; omega
    rw [e, show 64 - (63 - a.toNat.log2) = a.toNat.log2 + 1 by omega, show 63 - (63 - a.toNat.log2) = a.toNat.log2 by omega]
    exact ⟨by omega, Nat.lt_log2_self, fun _ => Nat.log2_self_le h0⟩

/-- With n trailing zeros the bits below n are zeros, and bit n is set unless the word is zero. -/
theorem ctz_bits (a : Word) :
    (ctz a).toNat ≤ 64 ∧ (∀ j < (ctz a).toNat, a.getLsbD j = false) ∧ ((ctz a).toNat < 64 → a.getLsbD (ctz a).toNat = true) := by
  unfold ctz
  cases h : (List.range 64).find? fun i => a.getLsbD i with
  | none =>
    have zeros := List.find?_range_eq_none.1 h
    exact ⟨Nat.le_refl 64, fun j hj => by simpa using zeros j hj, fun hj => absurd hj (Nat.lt_irrefl 64)⟩
  | some i =>
    obtain ⟨one, hi, zeros⟩ := List.find?_range_eq_some.1 h
    have lt : i < 64 := List.mem_range.1 hi
    have e : (BitVec.ofNat 64 i).toNat = i := Nat.mod_eq_of_lt (by omega)
    rw [Option.getD_some, e]
    exact ⟨Nat.le_of_lt lt, fun j hj => by simpa using zeros j hj, fun _ => one⟩

theorem toNat_popc (a : Word) : (popc a).toNat = (List.range 64).countP fun j => a.getLsbD j := by
  have le : ((List.range 64).countP fun j => a.getLsbD j) ≤ 64 := List.countP_le_length
  rw [popc, ← List.countP_eq_length_filter, BitVec.toNat_ofNat]; omega

/-! ### Divisions (12 R157) -/

theorem divU_quotientU (a b : Word) : quotientU a b (divU a b) := by
  unfold quotientU divU; split
  · rfl
  · exact BitVec.toNat_udiv

theorem remU_remainderU (a b : Word) : remainderU a b (remU a b) := by
  unfold remainderU remU; split
  · rfl
  · exact BitVec.toNat_umod

/-- The one signed division whose quotient is no word. -/
theorem toInt_overflow {a b : Word} (h : a.toInt = -2 ^ 63 ∧ b.toInt = -1) : a = BitVec.intMin 64 ∧ b = -1 :=
  ⟨BitVec.toInt_inj.1 h.1, BitVec.toInt_inj.1 h.2⟩

theorem divS_quotient (a b : Word) : quotient a b (divS a b) := by
  unfold quotient divS; split
  · rfl
  · split
    case isTrue h =>
      obtain ⟨rfl, rfl⟩ := toInt_overflow h
      decide
    case isFalse h =>
      refine BitVec.toInt_sdiv_of_ne_or_ne a b ?_
      by_cases ha : a = BitVec.intMin 64
      · refine .inr fun hb => h ?_
        subst ha hb
        decide
      · exact .inl ha

theorem remS_remainder (a b : Word) : remainder a b (remS a b) := by
  unfold remainder remS; split
  · rfl
  · split
    case isTrue h =>
      obtain ⟨rfl, rfl⟩ := toInt_overflow h
      decide
    case isFalse => exact BitVec.toInt_srem a b

end Sys2Proof.Laws
end

section
/-! SUPPORT. The statement about chapter 12's register arithmetic (R156, R157). -/

open Sys2Proof Sys2Proof.Machine Sys2Proof.Claims Sys2Proof.Laws

namespace Sys2Proof.Proofs

theorem registerArithmetic : RegisterArithmetic := by
  intro s d a b h A B n
  have hn : n < 64 := Nat.mod_lt _ (by decide)
  exact ⟨ends_such h rfl (BitVec.toNat_add A B),
    ends_such h rfl BitVec.toInt_sub,
    ends_such h rfl fun _ => BitVec.getLsbD_and,
    ends_such h rfl fun _ => BitVec.getLsbD_or,
    ends_such h rfl fun _ => BitVec.getLsbD_xor,
    ends_such h rfl (getLsbD_and_not A B),
    ends_such h rfl (toNat_shiftLeft_eq_mul A n),
    ends_such h rfl (toNat_ushiftRight_eq_div A n),
    ends_such h rfl (toInt_sshiftRight_eq_div A n),
    ends_such h rfl fun _ => getLsbD_rotateRight_mod A hn,
    flag_slt A B ▸ ends_alu h rfl,
    flag_ult A B ▸ ends_alu h rfl,
    ends_such h rfl (toInt_minS A B),
    ends_such h rfl (toInt_maxS A B),
    ends_such h rfl (toNat_minU A B),
    ends_such h rfl (toNat_maxU A B),
    ends_such h rfl (BitVec.toNat_mul A B),
    ends_such h rfl (toInt_mulHigh A B),
    ends_such h rfl (toNat_mulHighU A B)⟩

theorem bitCounts : BitCounts := by
  intro s d a h A
  exact ⟨ends_such h rfl (clz_bounds A), ends_such h rfl (ctz_bits A), ends_such h rfl (toNat_popc A)⟩

/-- Closing the window of a result for x[d] writes it (11 R134). -/
theorem deliver_x_rx (t : Ctx) (d r : BitVec 5) (m : Mask) (v : Word) :
    (t.deliver (.x d) m (v.setWidth 512)).rx r = if r = d ∧ r ≠ 0 then v else t.rx r := by
  have e : (v.setWidth 512).setWidth 64 = v := by
    rw [BitVec.setWidth_setWidth_of_le _ (by decide), BitVec.setWidth_eq]
  rw [Ctx.deliver, Ctx.rx_wx, e]

/-- A division issues with its result in its window, which has changed no register. -/
theorem division_ends {i : Instr} {s : State} {d : BitVec 5} {l : BitVec 4} {v : Word} {P : Word → Prop} (h : s.me.latchOn = false)
    (e : exec i s = s.division d l v) (hp : P v) :
    Ends i s fun t => ∃ v : Word, P v ∧ Opened s t (.x d) 0xFFFF l .none (some (.val (v.setWidth 512))) ∧
      ∀ r, (t.me.deliver (.x d) 0xFFFF (v.setWidth 512)).rx r = if r = d ∧ r ≠ 0 then v else s.me.rx r := by
  have o := openedOk s (.x d) 0xFFFF l .none (xRes v)
  refine ⟨_, by rw [e, State.division, plain_off h], v, hp, o, fun r => ?_⟩
  rw [deliver_x_rx, o.2]; rfl

theorem division : Division := by
  intro s d a b l h Divides
  exact ⟨division_ends h rfl (divS_quotient ..), division_ends h rfl (divU_quotientU ..),
    division_ends h rfl (remS_remainder ..), division_ends h rfl (remU_remainderU ..)⟩

/-- Settles O30: each operation of R156 and R157 is one law of words, written by the one rule of the arithmetic unit or of the divider. -/
theorem scalarArithmetic : Obligations.ScalarArithmetic :=
  ⟨registerArithmetic, bitCounts, division⟩

end Sys2Proof.Proofs
end

section
/-! SUPPORT. The fences of 12 R172 and SCOPE of 12 R174: what passing a fence does to the core, and the scope that two words name. -/

open Sys2Proof Sys2Proof.Machine Sys2Proof.Claims

namespace Sys2Proof.Laws

/-! ### Fences -/

/-- A register names the scope of its bits 2:0, or sys where a higher bit is set (04 R42). -/
theorem scopeReg_eq_scopeCode (w : Word) : scopeReg w = scopeCode w := by
  unfold scopeReg scopeCode
  by_cases h : w.toNat < 8
  · rw [if_pos h, if_pos (by omega), Nat.mod_eq_of_lt h]
  · rw [if_neg h, if_neg (by omega)]

/-- A state is what passing a fence that acquires nothing leaves of it. -/
theorem fenced_refl (s : State) : Fenced s s false 0 s.me :=
  ⟨rfl, ⟨⟨rfl, fun _ => rfl⟩, fun _ _ => rfl⟩, rfl, rfl, fun _ _ => rfl, rfl⟩

/-- An acquire clears the executing core's L1 above lane scope, and changes nothing else (04 R48). -/
theorem fenced_acquired (s : State) (S : Nat) : Fenced s (s.acquired S) true S s.me := by
  unfold State.acquired
  split
  case isTrue h => exact ⟨rfl, ⟨⟨rfl, fun _ => rfl⟩, fun _ _ => rfl⟩, by simp [l1After, h, State.myCore], rfl, fun _ _ => rfl, rfl⟩
  case isFalse h =>
    have core : (s.l1Clear s.cur.core).core s.cur.core = { s.myCore with l1 := [] } := State.core_setCore_same ..
    have ctx (j : Nat) : (s.l1Clear s.cur.core).ctx s.cur.core j = s.ctx s.cur.core j := by rw [State.ctx, core]; rfl
    exact ⟨rfl, onlyCore_setCore .., by simp [l1After, core, h], by rw [core]; rfl, fun j _ => ctx j, ctx _⟩

theorem fenced_me {s t : State} {acq : Bool} {S : Nat} {u : Ctx} (f : Fenced s t acq S u) : t.me = u := by
  obtain ⟨-, -, -, -, -, hme⟩ := f
  exact hme

/-- The passing thread's context may be replaced after a fence. -/
theorem fenced_putMe {s t : State} {acq : Bool} {S : Nat} {u : Ctx} (f : Fenced s t acq S u) (v : Ctx) :
    Fenced s (t.putMe v) acq S v := by
  obtain ⟨hcur, honly, hl1, hcore, hctx, -⟩ := f
  obtain ⟨pcur, pcores, pcore, pctx⟩ := onlyMe t v
  rw [hcur] at pcores pcore pctx
  have hl : ((t.putMe v).core s.cur.core).l1 = (t.core s.cur.core).l1 := (congrArg Core.l1 pcore :)
  have hc := congrArg (fun c : Core => { c with l1 := [] }) pcore
  exact ⟨pcur.trans hcur, OnlyCore.trans honly pcores, hl.trans hl1, hc.trans hcore, fun j hj => (pctx j hj).trans (hctx j hj),
    State.me_putMe ..⟩

/-- A fence numbers no store. -/
theorem fenced_nextStore_eq {s t : State} {acq : Bool} {S : Nat} {u : Ctx} (f : Fenced s t acq S u) :
    t.myCore.nextStore = s.myCore.nextStore := by
  obtain ⟨hcur, -, -, hcore, -, -⟩ := f
  rw [State.myCore, hcur]
  exact (congrArg Core.nextStore hcore :)

/-- Going on at the next word after a fence. -/
theorem fenced_ends {i : Instr} {s t : State} {acq : Bool} {S : Nat} {u : Ctx} (f : Fenced s t acq S u)
    (e : exec i s = t.finish t.me) : Ends i s (Fenced s · acq S (issued u (u.pc + 4))) := by
  rw [State.finish, fenced_me f] at e
  exact ⟨_, e, fenced_putMe f _⟩

/-- A release fence joins those that hold the thread's later stores. -/
theorem fenced_addFence {s t : State} {acq : Bool} {S : Nat} (f : Fenced s t acq S s.me) (R : Nat) :
    Fenced s (t.addFence R) acq S { s.me with fences := s.me.fences ++ [⟨s.me.seq, s.myCore.nextStore, R⟩], seq := s.me.seq + 1 } := by
  rw [State.addFence, fenced_nextStore_eq f, fenced_me f]
  exact fenced_putMe f _

section
variable {i : Instr} {s : State} {S : Nat} (h : s.me.latchOn = false)
include h

theorem fenceA_ends (e : exec i s = s.fenceA S) (loads : s.me.loadsDone s.me.seq = true) :
    Ends i s (Fenced s · true S (issued s.me (s.me.pc + 4))) :=
  fenced_ends (fenced_acquired s S) (by rw [e, State.fenceA, plain_off h, State.loadsIn, if_pos loads])

theorem fenceR_ends (e : exec i s = s.fenceR S) : Ends i s (Fenced s · false 0 (fenceAdded s S)) :=
  fenced_ends (fenced_addFence (fenced_refl s) S) (by rw [e, State.fenceR, plain_off h])

theorem fenceAR_ends (e : exec i s = s.fenceAR S) (loads : s.me.loadsDone s.me.seq = true) :
    Ends i s (Fenced s · true S (fenceAdded s S)) :=
  fenced_ends (fenced_addFence (fenced_acquired s S) S) (by rw [e, State.fenceAR, plain_off h, State.loadsIn, if_pos loads])

theorem fenceSC_ends (e : exec i s = s.fenceSC S) (loads : s.me.loadsDone s.me.seq = true)
    (gate : s.gate s.cur.core s.cur.ctx s.me.seq s.myCore.nextStore S = true) :
    Ends i s (Fenced s · true S (issued s.me (s.me.pc + 4))) :=
  fenced_ends (fenced_acquired s S) (by rw [e, State.fenceSC, plain_off h, State.loadsIn, loads, gate]; rfl)

variable (loads : ¬s.me.loadsDone s.me.seq = true)
include loads

theorem fenceA_stalls : s.fenceA S = .next s.stall := by
  rw [State.fenceA, plain_off h, State.loadsIn, if_neg loads]

theorem fenceAR_stalls : s.fenceAR S = .next s.stall := by
  rw [State.fenceAR, plain_off h, State.loadsIn, if_neg loads]

theorem fenceSC_stalls : s.fenceSC S = .next s.stall := by
  rw [State.fenceSC, plain_off h, State.loadsIn, Bool.eq_false_iff.2 loads]; rfl

end

/-! ### Scopes -/

/-- A coordinate word's core has the X and Y of the word (12 R174). -/
theorem coordCore_xy (w : Word) : coreX (coordCore w) = w.toNat / 2 ^ 2 % 32 ∧ coreY (coordCore w) = w.toNat / 2 ^ 7 % 16 := by
  unfold coreX coreY coordCore coreNo bits; omega

/-- Two coordinate words name one core just when their X and Y agree. -/
theorem coordCore_ne_iff (a b : Word) : coordCore a ≠ coordCore b ↔
    a.toNat / 2 ^ 2 % 32 ≠ b.toNat / 2 ^ 2 % 32 ∨ a.toNat / 2 ^ 7 % 16 ≠ b.toNat / 2 ^ 7 % 16 := by
  unfold coordCore coreNo bits; omega

/-- SCOPE answers the lowest scope that encloses the places of its two words (04 R41). -/
theorem scopeWord_eq_scopeOfWords (a b : Word) : scopeWord a b = scopeOfWords a b := by
  have g (w : Word) : bits w 0 2 = w.toNat % 4 := by unfold bits; omega
  simp only [scopeWord, scopeOf, chipletOf, baseOf, coordCore_xy, coordCore_ne_iff, g]
  rfl

end Sys2Proof.Laws
end

section
/-! SUPPORT. The statement about the fences and SCOPE (12 R172, R174; 04 R41, R42, R48). -/

open Sys2Proof Sys2Proof.Machine Sys2Proof.Claims Sys2Proof.Laws

namespace Sys2Proof.Proofs

theorem fences : Fences := by
  intro s c a h In Gate R next
  have reg : scopeReg (s.me.rx a) = R := scopeReg_eq_scopeCode _
  exact ⟨fenceA_ends h rfl, reg ▸ fenceA_ends h rfl, fenceR_ends h rfl, reg ▸ fenceR_ends h rfl,
    fenceAR_ends h rfl, reg ▸ fenceAR_ends h rfl, fenceSC_ends h rfl, reg ▸ fenceSC_ends h rfl,
    fun loads => ⟨fenceA_stalls h loads, fenceA_stalls h loads, fenceAR_stalls h loads, fenceAR_stalls h loads,
      fenceSC_stalls h loads, fenceSC_stalls h loads⟩⟩

theorem scopeOfTwoPlaces : ScopeOfTwoPlaces := by
  intro s d a b h A B P Y X G chiplet
  have e : exec (.scope d a b) s = s.alu d (BitVec.ofNat 64 (scopeWord A B)) := rfl
  rw [scopeWord_eq_scopeOfWords, scopeOfWords] at e
  simp only [apply_ite (BitVec.ofNat 64)] at e
  exact ends_alu h e

/-- Settles O33: each fence is an acquire of the L1, a release fence added, or both, behind its guard; SCOPE reads the place of each word. -/
theorem fencesAndScopes : Obligations.FencesAndScopes :=
  ⟨fences, scopeOfTwoPlaces⟩

end Sys2Proof.Proofs
end

section
/-! SUPPORT. Taking a trap that enters its handler at once (13 R180, R181, R183), and the return from it (13 R183, 14 R201). -/

open Sys2Proof Sys2Proof.Machine Sys2Proof.Claims

namespace Sys2Proof.Laws

/-- Reading a table whose every entry has been changed, by a change that leaves the unlisted value alone. -/
theorem mget_map {α : Type} {d : α} (f : Nat → α → α) (hd : ∀ q, f q d = d) (m : Map α) (q : Nat) :
    mget d (m.map fun e => (e.1, f e.1 e.2)) q = f q (mget d m q) := by
  induction m with
  | nil => exact (hd q).symm
  | cons e t ih =>
    by_cases h : q = e.1
    · simp [mget, h]
    · simp [mget, h, ih]

/-! ### What a trap leaves as it was -/

/-- Only the lock bits, the retries and the misses of cores may have changed: no context has. -/
def OnlyLocks (s t : State) : Prop :=
  OnlyCores s t ∧ ∀ m, { t.core m with lockBits := [], lockWait := [], misses := [] } =
    { s.core m with lockBits := [], lockWait := [], misses := [] }

theorem onlyLocks_ctx {s t : State} (h : OnlyLocks s t) (m j : Nat) : t.ctx m j = s.ctx m j :=
  congrArg (·.ctx j) (h.2 m)

theorem onlyLocks_setCore {s : State} {o : Nat} {c : Core}
    (h : { c with lockBits := [], lockWait := [], misses := [] } = { s.core o with lockBits := [], lockWait := [], misses := [] }) :
    OnlyLocks s (s.setCore o c) := by
  refine ⟨onlyCores_setCore .., fun m => ?_⟩
  by_cases hm : m = o
  · rw [hm, State.core_setCore_same, h]
  · rw [State.core_setCore_ne _ _ hm]

theorem onlyCores_cores (s : State) (cs : Map Core) : OnlyCores s { s with cores := cs } :=
  ⟨rfl, fun _ => rfl⟩

theorem onlyLocks_lockForget (s : State) (n i : Nat) : OnlyLocks s (s.lockForget n i) := by
  refine ⟨onlyCores_cores .., fun m => ?_⟩
  have e : (s.lockForget n i).core m = { s.core m with lockWait := (s.core m).lockWait.filter fun b => !(b.core == n && b.ctx == i) } :=
    mget_map (d := Core.reset) (fun _ (c : Core) => { c with lockWait := c.lockWait.filter fun b => !(b.core == n && b.ctx == i) }) (fun _ => rfl) s.cores m
  rw [e]

theorem onlyLocks_dropWaits (s : State) (n i : Nat) : OnlyLocks s (s.dropWaits n i) :=
  onlyLocks_setCore rfl

theorem trapFrame_of_onlyLocks {s t : State} (h : OnlyLocks s t) (n i : Nat) : TrapFrame s t n i :=
  ⟨h.1, fun m j _ => onlyLocks_ctx h m j, fun m => congrArg (fun c : Core => { c with ctxs := [] }) (h.2 m)⟩

theorem trapFrame_trans {s t u : State} {n i : Nat} (h : TrapFrame s t n i) (g : TrapFrame t u n i) : TrapFrame s u n i := by
  obtain ⟨hcores, hctx, hcore⟩ := h
  obtain ⟨gcores, gctx, gcore⟩ := g
  exact ⟨OnlyCores.trans hcores gcores, fun m j hj => (gctx m j hj).trans (hctx m j hj), fun m => (gcore m).trans (hcore m)⟩

theorem trapFrame_setCtx (s : State) (n i : Nat) (u : Ctx) : TrapFrame s (s.setCtx n i u) n i := by
  obtain ⟨⟨cores, others⟩, own, -⟩ := onlyCtx_setCtx s n i u
  refine ⟨cores, fun m j hj => ?_, fun m => ?_⟩
  · rw [State.ctx_setCtx, if_neg (by simpa using hj)]
  · by_cases hm : m = n
    · rw [hm]
      exact congrArg (fun c : Core => { c with lockBits := [], lockWait := [], misses := [] }) own
    · rw [others m hm]

/-- Freeing a thread's lock clears its lock register, and drops at most a lock bit (12 R178). -/
theorem freeLock_leaves (s : State) (n i : Nat) :
    TrapFrame s (s.freeLock n i) n i ∧ (s.freeLock n i).ctx n i = { s.ctx n i with lock := none } := by
  have cleared (t : State) (h : OnlyLocks s t) : TrapFrame s (t.setCtx n i { t.ctx n i with lock := none }) n i ∧
      (t.setCtx n i { t.ctx n i with lock := none }).ctx n i = { s.ctx n i with lock := none } :=
    ⟨trapFrame_trans (trapFrame_of_onlyLocks h n i) (trapFrame_setCtx ..), by rw [State.ctx_setCtx_same, onlyLocks_ctx h]⟩
  have same : OnlyLocks s s := ⟨⟨rfl, fun _ => rfl⟩, fun _ => rfl⟩
  unfold State.freeLock
  split
  case h_1 h => exact ⟨trapFrame_of_onlyLocks same n i, by rw [← h]⟩
  case h_2 k _ =>
    cases k.taken with
    | false => exact cleared s same
    | true => exact cleared _ (onlyLocks_setCore rfl)

/-! ### Entering the handler -/

/-- With no write due, the walk over the windows changes nothing. -/
theorem applyDue_of_noneDue (t : Ctx) (late : List Dest) (ws : List Window) (h : ∀ w ∈ ws, w.left ≠ 0 ∨ w.held = true) :
    applyDue t late ws = (t, ws, none) := by
  induction ws with
  | nil => rfl
  | cons w r ih =>
    obtain ⟨hw, hr⟩ := List.forall_mem_cons.1 h
    rw [applyDue, if_neg (by rintro ⟨left, held⟩; simp [left, held] at hw), ih hr]

/-- With no write due and a handler that can be entered, a trap enters it at once. -/
theorem trap_enters {s : State} {n i : Nat} {p : PendTrap} (due : NoneDue (s.ctx n i)) (can : CanEnter (s.ctx n i) p) :
    (s.trap n i p).ctx n i = entered (s.ctx n i) p ∧ TrapFrame s (s.trap n i p) n i := by
  obtain ⟨landed, handler, fetch⟩ := can
  let s1 := s.setCtx n i (s.ctx n i)
  let s2 := s1.freeLock n i
  let s3 := (s2.lockForget n i).dropWaits n i
  have e : s.trap n i p = s3.setCtx n i ((s3.ctx n i).enterTrap p) := by
    rw [State.trap, if_pos landed, State.enterTrap, applyDue_of_noneDue _ _ _ due, if_neg (not_or.2 ⟨handler, fetch⟩)]
    rfl
  obtain ⟨freed, ctx2⟩ := freeLock_leaves s1 n i
  have forgot : OnlyLocks s2 (s2.lockForget n i) := onlyLocks_lockForget ..
  have dropped : OnlyLocks (s2.lockForget n i) s3 := onlyLocks_dropWaits ..
  have ctx : s3.ctx n i = { s.ctx n i with lock := none } := by
    rw [onlyLocks_ctx dropped, onlyLocks_ctx forgot, ctx2, State.ctx_setCtx_same]
  have frame : TrapFrame s s3 n i :=
    trapFrame_trans (trapFrame_setCtx ..) (trapFrame_trans freed
      (trapFrame_trans (trapFrame_of_onlyLocks forgot n i) (trapFrame_of_onlyLocks dropped n i)))
  rw [e, State.ctx_setCtx_same, ctx]
  exact ⟨rfl, trapFrame_trans frame (trapFrame_setCtx ..)⟩

/-- An aligned address keeps its value when its two low bits are cleared. -/
theorem and_not_three_of_aligned {w : Word} (h : w.toNat % 4 = 0) : w &&& ~~~3 = w := by
  refine BitVec.eq_of_getLsbD_eq fun i hi => ?_
  have three : (3 : Word).getLsbD i = decide (i < 2) := Nat.testBit_two_pow_sub_one 2 i
  rw [BitVec.getLsbD_and, BitVec.getLsbD_not, three]
  by_cases low : i < 2
  · have zero : (w.toNat % 2 ^ 2).testBit i = false := by rw [show w.toNat % 2 ^ 2 = 0 from h, Nat.zero_testBit]
    rw [Nat.testBit_mod_two_pow, BitVec.testBit_toNat] at zero
    simpa [low] using zero.symm
  · simp [low, hi]

/-! ### Returning from it -/

/-- ERET goes on at epc, out of the handler. -/
theorem eret_ends {s : State} {p : Word} (h : s.me.latchOn = false) (epc : s.me.epc = p) :
    Ends .eret s fun q => q.me.pc = p ∧ q.me.inh = false := by
  have me : (s.putMe s.me.eret).me = s.me.eret := State.me_putMe ..
  exact ⟨_, plain_off h, (congrArg Ctx.pc me).trans epc, congrArg Ctx.inh me⟩

end Sys2Proof.Laws
end

section
/-! SUPPORT. The statement about TRAP and the two returns from it (14 R200, R201). -/

open Sys2Proof Sys2Proof.Machine Sys2Proof.Claims Sys2Proof.Laws

namespace Sys2Proof.Proofs

/-- The trap that TRAP takes (14 R200). -/
def trapOf (s : State) (a : BitVec 5) : PendTrap :=
  ⟨6, 0, s.me.rx a, s.me.pc, false, false, 0⟩

theorem exec_trap {s : State} (a : BitVec 5) (h : s.me.latchOn = false) :
    exec (.trap a) s = .next (s.trap s.cur.core s.cur.ctx (trapOf s a)) :=
  plain_off h

theorem ecause_entered_trapOf (s : State) (a : BitVec 5) : (entered s.me (trapOf s a)).ecause.toNat = 6 + s.me.inh.toNat * 2 ^ 13 := by
  have inh := Bool.toNat_lt s.me.inh
  simp only [entered, trapOf, Bool.toNat_false, BitVec.toNat_ofNat]
  omega

/-- Settles O11: the trap of a TRAP enters the handler, and ERET goes on at the epc that the handler leaves it. -/
theorem trapInstruction : Obligations.TrapInstruction := by
  intro s a latch due landed handler aligned
  have can : CanEnter s.me (trapOf s a) := ⟨landed, handler, fun ⟨_, _, kind⟩ => Nat.noConfusion kind⟩
  obtain ⟨ctx, frame⟩ := trap_enters due can
  generalize ht : s.trap s.cur.core s.cur.ctx (trapOf s a) = t at ctx frame
  have ⟨⟨cores, _⟩, _⟩ := frame
  have cur : t.cur = s.cur := (congrArg State.cur cores :)
  have me : t.me = entered s.me (trapOf s a) := by rw [State.me, cur]; exact ctx
  have epc : t.me.epc = s.me.pc := by rw [me]; exact and_not_three_of_aligned aligned
  have latched : t.me.latchOn = false := by rw [me]; rfl
  have past : (t.putMe { t.me with epc := t.me.epc + 4 }).me = { t.me with epc := t.me.epc + 4 } := State.me_putMe ..
  exact ⟨t, ht ▸ exec_trap a latch, frame, cur, me ▸ ecause_entered_trapOf s a, me ▸ rfl, epc, me ▸ rfl, me ▸ rfl,
    me ▸ fun _ => rfl, me ▸ fun _ => rfl, me ▸ fun _ => rfl,
    eret_ends latched epc, eret_ends (by rw [past]; exact latched) (by rw [past]; exact congrArg (· + 4) epc)⟩

end Sys2Proof.Proofs
end

section
/-! SUPPORT. Who issues (02 R30, 14 R196): the contexts a lane group chooses among, the YIELDs that are over, and what an issue moves on. -/

open Sys2Proof Sys2Proof.Machine Sys2Proof.Claims

namespace Sys2Proof.Laws

/-! ### The contexts of a lane group -/

/-- The contexts of a lane group are those whose number divided by 16 is its own. -/
theorem mem_laneGroup (lg i : Nat) : i ∈ (List.range 16).map (fun k => 16 * lg + k) ↔ i / 16 = lg := by
  simp only [List.mem_map, List.mem_range]
  exact ⟨fun ⟨k, hk, e⟩ => by omega, fun h => ⟨i % 16, by omega, by omega⟩⟩

theorem mem_issuable (s : State) (n lg : Nat) (tried : List Nat) (p : Nat) :
    p ∈ s.issuable n lg tried ↔ p / 16 = lg ∧ s.canIssue n p = true ∧ p ∉ tried := by
  simp [State.issuable, List.mem_filter, mem_laneGroup]

theorem mem_choices (s : State) (n lg c : Nat) (tried : List Nat) (i : Nat) : i ∈ s.choices n lg c tried ↔
    (i / 16 = lg ∧ s.canIssue n i = true ∧ (s.ctx n i).cls.toNat = c ∧ i ∉ tried) ∧ (s.ctx n i).yieldFor = none := by
  simp only [State.choices, List.mem_filter, mem_issuable, decide_eq_true_eq]
  constructor
  · rintro ⟨⟨group, issues, untried⟩, cls, yielded⟩
    exact ⟨⟨group, issues, cls, untried⟩, yielded⟩
  · rintro ⟨⟨group, issues, cls, untried⟩, yielded⟩
    exact ⟨⟨group, issues, untried⟩, cls, yielded⟩

/-- A YIELD is over just when each other context of its class on its lane group that may issue has been seen to issue (14 R196). -/
theorem yieldOver_iff {s : State} {n i : Nat} {seen : List Nat} (tried : List Nat) (h : (s.ctx n i).yieldFor = some seen) :
    s.yieldOver n i tried = true ↔
      ∀ p, p / 16 = i / 16 ∧ s.canIssue n p = true ∧ (s.ctx n p).cls.toNat = (s.ctx n i).cls.toNat ∧ p ∉ tried → p = i ∨ p ∈ seen := by
  simp only [State.yieldOver, h, List.all_eq_true, mem_issuable, groupOf, Bool.or_eq_true, decide_eq_true_eq, List.contains_iff_mem,
    BitVec.toNat_inj]
  constructor
  · rintro all p ⟨group, issues, cls, untried⟩
    exact (all p ⟨group, issues, untried⟩).resolve_right (not_not_intro cls)
  · rintro all p ⟨group, issues, untried⟩
    by_cases cls : (s.ctx n p).cls = (s.ctx n i).cls
    · exact .inl (all p ⟨group, issues, cls, untried⟩)
    · exact .inr cls

theorem yieldOver_of_none {s : State} {n i : Nat} (tried : List Nat) (h : (s.ctx n i).yieldFor = none) : s.yieldOver n i tried = false := by
  rw [State.yieldOver, h]

/-! ### Ending the YIELDs that are over -/

/-- A context's YIELD ends if it is over: one turn of `endYields`. -/
def endYield (n : Nat) (tried : List Nat) (s : State) (i : Nat) : State :=
  if s.yieldOver n i tried then s.setCtx n i { s.ctx n i with yieldFor := none } else s

theorem endYields_eq_foldl (s : State) (n lg : Nat) (tried : List Nat) :
    s.endYields n lg tried = ((List.range 16).map fun k => 16 * lg + k).foldl (endYield n tried) s := rfl

/-- What a context is once its YIELD has ended, if it is over. -/
def yieldEnded (s : State) (n : Nat) (tried : List Nat) (j : Nat) : Ctx :=
  if s.yieldOver n j tried then { s.ctx n j with yieldFor := none } else s.ctx n j

theorem ctx_endYield_same (s : State) (n : Nat) (tried : List Nat) (i : Nat) : (endYield n tried s i).ctx n i = yieldEnded s n tried i := by
  unfold endYield yieldEnded
  split
  · exact State.ctx_setCtx_same ..
  · rfl

theorem ctx_endYield_ne (s : State) (n : Nat) (tried : List Nat) {i j : Nat} (h : j ≠ i) : (endYield n tried s i).ctx n j = s.ctx n j := by
  unfold endYield
  split
  · rw [State.ctx_setCtx, if_neg (by simp [h])]
  · rfl

/-- Ending a YIELD changes nothing else of a context. -/
theorem ctx_endYield (s : State) (n : Nat) (tried : List Nat) (i j : Nat) :
    { (endYield n tried s i).ctx n j with yieldFor := none } = { s.ctx n j with yieldFor := none } := by
  by_cases h : j = i
  · rw [h, ctx_endYield_same, yieldEnded]
    split <;> rfl
  · rw [ctx_endYield_ne s n tried h]

/-- Whether a context may issue does not depend on who yielded. -/
theorem canIssue_endYield (s : State) (n : Nat) (tried : List Nat) (i j : Nat) : (endYield n tried s i).canIssue n j = s.canIssue n j := by
  have frame : (endYield n tried s i).launches = s.launches ∧ ((endYield n tried s i).core n).misses = (s.core n).misses := by
    unfold endYield
    split
    · simp [State.setCtx]
    · exact ⟨rfl, rfl⟩
  obtain ⟨launches, misses⟩ := frame
  have ctx := ctx_endYield s n tried i j
  have run := congrArg Ctx.run ctx
  have trapPend := congrArg Ctx.trapPend ctx
  have lid := congrArg Ctx.lid ctx
  have todo := congrArg Ctx.todo ctx
  have gen := congrArg Ctx.gen ctx
  dsimp only at run trapPend lid todo gen
  simp only [State.canIssue, State.stopped, State.launchOf, State.awaits, launches, misses, run, trapPend, lid, todo, gen]

/-- Whether another context's YIELD is over does not depend on this one's. -/
theorem yieldOver_endYield_ne (s : State) (n : Nat) (tried : List Nat) {i j : Nat} (h : j ≠ i) :
    (endYield n tried s i).yieldOver n j tried = s.yieldOver n j tried := by
  have cls (p : Nat) : ((endYield n tried s i).ctx n p).cls = (s.ctx n p).cls := (congrArg Ctx.cls (ctx_endYield s n tried i p) :)
  simp only [State.yieldOver, State.issuable, canIssue_endYield, cls, ctx_endYield_ne s n tried h]

theorem yieldOver_endYield_same (s : State) (n : Nat) (tried : List Nat) (i : Nat) : (endYield n tried s i).yieldOver n i tried = false := by
  cases h : s.yieldOver n i tried with
  | true => exact yieldOver_of_none tried (by rw [ctx_endYield_same, yieldEnded, if_pos h])
  | false => rw [endYield, h]; exact h

/-- One pass over a list of contexts ends just the YIELDs that were over before it. -/
theorem ctx_foldl_endYield (n : Nat) (tried l : List Nat) (j : Nat) (s : State) :
    (l.foldl (endYield n tried) s).ctx n j = if j ∈ l then yieldEnded s n tried j else s.ctx n j := by
  induction l generalizing s with
  | nil => rfl
  | cons i l ih =>
    rw [List.foldl_cons, ih]
    by_cases h : j = i
    · subst h
      simp [yieldEnded, yieldOver_endYield_same, ctx_endYield_same]
    · simp [yieldEnded, yieldOver_endYield_ne s n tried h, ctx_endYield_ne s n tried h, h]

theorem ctx_endYields (s : State) (n lg : Nat) (tried : List Nat) (j : Nat) :
    (s.endYields n lg tried).ctx n j = if j / 16 = lg then yieldEnded s n tried j else s.ctx n j := by
  simp only [endYields_eq_foldl, ctx_foldl_endYield, mem_laneGroup]

/-! ### The context that a lane group turns to -/

/-- A fold that keeps its value or takes the element at hand ends with its first value or an element. -/
theorem mem_of_foldl_eq_some {α : Type} {f : Option α → α → Option α} (hf : ∀ r a, f r a = some a ∨ f r a = r) (l : List α)
    {r : Option α} {x : α} (h : l.foldl f r = some x) : r = some x ∨ x ∈ l := by
  induction l generalizing r with
  | nil => exact .inl h
  | cons a l ih =>
    rcases ih h with e | m
    · rcases hf r a with t | k
      · have ax : a = x := Option.some.inj (t.symm.trans e)
        exact .inr (ax ▸ List.mem_cons_self)
      · exact .inl (k.symm.trans e)
    · exact .inr (List.mem_cons_of_mem a m)

theorem mem_of_nextAfter {last i : Nat} {cs : List Nat} (h : nextAfter last cs = some i) : i ∈ cs := by
  refine (mem_of_foldl_eq_some (fun r a => ?_) cs h).resolve_left nofun
  cases r with
  | none => exact .inl rfl
  | some j =>
    dsimp only
    split
    · exact .inl rfl
    · exact .inr rfl

theorem mem_choices_of_pickFrom {s : State} {n lg : Nat} {tried : List Nat} {g : IssueSlot} {k start slot i : Nat}
    (h : s.pickFrom n lg tried g start k = some (slot, i)) : i ∈ s.choices n lg (slotClasses.getD slot 0) tried := by
  induction k generalizing start with
  | zero => cases h
  | succ k ih =>
    rw [State.pickFrom] at h
    split at h
    case h_1 j found => cases h; exact mem_of_nextAfter found
    case h_2 => exact ih h

/-! ### What an issue moves on -/

theorem slotOf_advance (s : State) (n slot i : Nat) : ((s.advance n slot i).core n).slotOf (i / 16) =
    ⟨(slot + 1) % 15, setNth ((s.core n).slotOf (i / 16)).last (slotClasses.getD slot 0) (i % 16), some s.clock.toNat⟩ := by
  rw [State.advance, State.core_setCore_same, Core.slotOf, groupOf, mget_mput, if_pos rfl]

theorem ctx_advance (s : State) (n slot i j : Nat) :
    (s.advance n slot i).ctx n j = if j = i then s.ctx n j else (s.ctx n j).sawIssue i := by
  have pairs (e : Nat × Ctx) : (if e.1 = i then e else (e.1, e.2.sawIssue i)) = (e.1, if e.1 = i then e.2 else e.2.sawIssue i) := by
    split <;> rfl
  rw [State.advance, State.ctx, State.core_setCore_same, Core.ctx]
  simp only [pairs]
  exact mget_map (fun q (u : Ctx) => if q = i then u else u.sawIssue i) (fun q => by split <;> rfl) _ j

theorem sawIssue_eq (u : Ctx) (i : Nat) :
    u.sawIssue i = { u with yieldFor := u.yieldFor.map fun seen => if i ∈ seen then seen else seen ++ [i] } := by
  simp [Ctx.sawIssue]

end Sys2Proof.Laws
end

section
/-! SUPPORT. The statement about YIELD and the round-robin that passes its context over (14 R196, 02 R30). -/

open Sys2Proof Sys2Proof.Machine Sys2Proof.Claims Sys2Proof.Laws

namespace Sys2Proof.Proofs

theorem yield_ends {s : State} (h : s.me.latchOn = false) :
    Ends .yield s fun t => OnlyMe s t ∧ t.me = { issued s.me (s.me.pc + 4) with yieldFor := some [] } :=
  ⟨_, plain_off h, onlyMe .., State.me_putMe ..⟩

/-- Settles O13: one pass over a lane group ends just the YIELDs that are over, the choice passes the others over, and an issue is seen by
those that still wait. -/
theorem yieldPassesOver : Obligations.YieldPassesOver := by
  intro s
  refine ⟨yield_ends, fun n lg c tried i => ⟨mem_choices .., fun group cls seen yielded => ?_, fun h => ?_⟩,
    fun n lg tried slot i h _ => mem_choices_of_pickFrom h, fun n slot i j => ⟨slotOf_advance .., ?_⟩⟩
  · have ended := yieldOver_iff tried yielded
    rw [group, cls] at ended
    rw [ctx_endYields, if_pos group, yieldEnded]
    exact ⟨fun h => if_pos (ended.2 h), fun h => if_neg (mt ended.1 h)⟩
  · rw [ctx_endYields, yieldEnded]
    rcases h with group | ready
    · exact if_neg group
    · simp [yieldOver_of_none tried ready]
  · rw [ctx_advance, sawIssue_eq]
    split
    case isTrue h => rw [h]
    case isFalse => rfl

end Sys2Proof.Proofs
end

section
/-! SUPPORT. Vectors as rows of elements (06 R71, 17 R223): what an element reads after elements are written, and how an instruction
that its FMT governs ends. -/

open Sys2Proof Sys2Proof.Machine Sys2Proof.Claims

namespace Sys2Proof.Laws

/-! ### Writing one element -/

theorem el_lt (v : Vec) (w i : Nat) : el v w i < 2 ^ w :=
  Nat.mod_lt _ (Nat.two_pow_pos w)

theorem testBit_el (v : Vec) (w i b : Nat) : (el v w i).testBit b = (decide (b < w) && v.getLsbD (w * i + b)) := by
  rw [el, Nat.testBit_mod_two_pow, Nat.testBit_div_two_pow, BitVec.testBit_toNat, Nat.add_comm]

/-- The elements of a vector lie within its 512 bits. -/
theorem mul_add_le_of_lt_div {w i : Nat} (hi : i < 512 / w) : w * i + w ≤ 512 :=
  Nat.le_trans (Nat.mul_le_mul_left w hi) (Nat.mul_div_le 512 w)

/-- Bit b of element i lies in element j just when i = j. -/
theorem within_el_iff {w i j b : Nat} (hb : b < w) : (w * j ≤ w * i + b ∧ w * i + b - w * j < w) ↔ i = j := by
  rcases Nat.lt_trichotomy i j with h | rfl | h
  · have below : w * i + w ≤ w * j := Nat.mul_le_mul_left w h
    omega
  · omega
  · have above : w * j + w ≤ w * i := Nat.mul_le_mul_left w h
    omega

/-- Bit n of a field moved up to bit p of a vector. -/
theorem getLsbD_field (x p : Nat) {n : Nat} (hn : n < 512) :
    (BitVec.ofNat 512 x <<< p).getLsbD n = (decide (p ≤ n) && x.testBit (n - p)) := by
  have hsub : n - p < 512 := by omega
  rw [BitVec.getLsbD_shiftLeft, BitVec.getLsbD_ofNat]
  simp only [hn, hsub, decide_true, Bool.true_and, ← decide_not, Nat.not_lt]

theorem getLsbD_elPut (v : Vec) (w j x : Nat) {n : Nat} (hn : n < 512) : (elPut v w j x).getLsbD n =
    if w * j ≤ n ∧ n - w * j < w then x.testBit (n - w * j) else v.getLsbD n := by
  rw [elPut, BitVec.getLsbD_or, BitVec.getLsbD_and, BitVec.getLsbD_not, decide_eq_true hn, Bool.true_and, getLsbD_field _ _ hn,
    getLsbD_field _ _ hn, Nat.testBit_two_pow_sub_one, Nat.testBit_mod_two_pow, ← Bool.and_assoc, ← Bool.decide_and]
  split
  case isTrue h => rw [decide_eq_true h, Bool.not_true, Bool.and_false, Bool.false_or, Bool.true_and]
  case isFalse h => rw [decide_eq_false h, Bool.not_false, Bool.and_true, Bool.false_and, Bool.or_false]

/-- A written element reads as its low w bits, and every other as before. -/
theorem el_elPut (v : Vec) (w j x : Nat) {i : Nat} (hi : i < 512 / w) :
    el (elPut v w j x) w i = if i = j then x % 2 ^ w else el v w i := by
  have fits := mul_add_le_of_lt_div hi
  refine Nat.eq_of_testBit_eq fun b => ?_
  rw [testBit_el]
  by_cases hb : b < w
  · rw [getLsbD_elPut v w j x (by omega)]
    simp only [within_el_iff hb]
    split
    case isTrue h => subst h; rw [Nat.testBit_mod_two_pow, Nat.add_sub_cancel_left]
    case isFalse => rw [testBit_el]
  · rw [decide_eq_false hb, Bool.false_and]
    split
    · rw [Nat.testBit_mod_two_pow, decide_eq_false hb, Bool.false_and]
    · rw [testBit_el, decide_eq_false hb, Bool.false_and]

/-! ### Writing a list of elements -/

theorem mapEls_fst (w : Nat) (els : List Nat) (old : Vec) (f : Nat → Nat × Flags5) :
    (mapEls w els old f).1 = els.foldl (fun v i => elPut v w i (f i).1) old :=
  (List.foldl_hom Prod.fst fun _ _ => rfl).symm

/-- Each listed element is written by the function of its number, and every other reads as before. -/
theorem el_mapEls (w : Nat) (els : List Nat) (old : Vec) (f : Nat → Nat × Flags5) {i : Nat} (hi : i < 512 / w) :
    el (mapEls w els old f).1 w i = if i ∈ els then (f i).1 % 2 ^ w else el old w i := by
  rw [mapEls_fst]
  induction els generalizing old with
  | nil => rfl
  | cons j els ih =>
    rw [List.foldl_cons, ih, el_elPut _ _ _ _ hi]
    by_cases h : i = j
    · subst h; simp
    · simp [h]

theorem mem_activeEls (w : Nat) (m : Mask) (i : Nat) : i ∈ activeEls w m ↔ i < 512 / w ∧ m.getLsbD (lane w i) = true := by
  rw [activeEls, List.mem_filter, List.mem_range]; rfl

/-- A packed vector holds its list from element 0 on and the fill after it. -/
theorem el_packEls (w : Nat) (xs : List Nat) (fill : Nat) {i : Nat} (hi : i < 512 / w) :
    el (packEls w xs fill) w i = xs.getD i fill % 2 ^ w := by
  rw [packEls, el_mapEls w _ 0 _ hi, if_pos (List.mem_range.2 hi)]

/-- Where the list and the fill fit the width, packing changes none of them. -/
theorem el_packEls_of_lt {w fill : Nat} {xs : List Nat} (hxs : ∀ x ∈ xs, x < 2 ^ w) (hfill : fill < 2 ^ w) {i : Nat} (hi : i < 512 / w) :
    el (packEls w xs fill) w i = xs.getD i fill := by
  have fits : xs.getD i fill < 2 ^ w := by
    rw [List.getD_eq_getElem?_getD]
    cases h : xs[i]? with
    | none => exact hfill
    | some x => exact hxs x (List.mem_of_getElem? h)
  rw [el_packEls w xs fill hi, Nat.mod_eq_of_lt fits]

/-! ### An element as a scalar -/

/-- Sign extension to 64 bits keeps the signed value of a w-bit pattern. -/
theorem sextNat_eq_sgn {w x : Nat} (hw : 0 < w) (hx : x < 2 ^ w) : sextNat x w = BitVec.ofInt 64 (sgn w x) := by
  obtain ⟨n, rfl⟩ : ∃ n, w = n + 1 := ⟨w - 1, by omega⟩
  rw [Nat.pow_succ] at hx
  have top : x / 2 ^ n % 2 = 1 ↔ ¬2 * x < 2 ^ n * 2 := by
    rw [Nat.mod_eq_of_lt (Nat.div_lt_of_lt_mul hx), Nat.div_eq_iff (Nat.two_pow_pos n)]
    omega
  rw [sextNat, sgn, BitVec.toInt_eq_toNat_cond, BitVec.toNat_ofNat, Nat.pow_succ, Nat.mod_eq_of_lt hx, Nat.add_sub_cancel]
  simp only [top, ite_not]
  norm_cast

/-- An element becomes a scalar by its sign under INT32, and by its bits under the other codes (17 R235). -/
theorem extendEl_eq (c : Nat) {x : Nat} (hx : x < 2 ^ fmtWidth c) :
    extendEl c (fmtWidth c) x = if c = 4 then BitVec.ofInt 64 (sgn (fmtWidth c) x) else BitVec.ofNat 64 x := by
  unfold extendEl
  split
  case isTrue h => subst h; exact sextNat_eq_sgn (by decide) hx
  case isFalse => rfl

/-! ### Sorting (17 R238) -/

theorem perm_insertUp (x : Nat) (l : List Nat) : (insertUp x l).Perm (x :: l) := by
  induction l with
  | nil => exact .refl _
  | cons y l ih =>
    rw [insertUp]
    split
    · exact .refl _
    · exact (ih.cons y).trans (.swap x y l)

theorem pairwise_insertUp (x : Nat) {l : List Nat} (hl : l.Pairwise (· ≤ ·)) : (insertUp x l).Pairwise (· ≤ ·) := by
  induction l with
  | nil => exact List.pairwise_singleton ..
  | cons y l ih =>
    obtain ⟨least, sorted⟩ := List.pairwise_cons.1 hl
    rw [insertUp]
    split
    case isTrue h =>
      exact List.pairwise_cons.2 ⟨List.forall_mem_cons.2 ⟨h, fun z hz => Nat.le_trans h (least z hz)⟩, hl⟩
    case isFalse h =>
      refine List.pairwise_cons.2 ⟨fun z hz => ?_, ih sorted⟩
      rcases List.mem_cons.1 ((perm_insertUp x l).mem_iff.1 hz) with rfl | old
      · exact Nat.le_of_not_le h
      · exact least z old

theorem perm_sortUp (l : List Nat) : (sortUp l).Perm l := by
  induction l with
  | nil => exact .refl _
  | cons x l ih => exact (perm_insertUp x (sortUp l)).trans (ih.cons x)

theorem pairwise_sortUp (l : List Nat) : (sortUp l).Pairwise (· ≤ ·) := by
  induction l with
  | nil => exact .nil
  | cons x l ih => exact pairwise_insertUp x ih

/-! ### Predicates (17 R240) -/

/-- KLEN's mask: c clamped to 0 to 16, as so many low ones. -/
theorem getLsbD_lowOnes (c : Int) {l : Nat} (hl : l < 16) :
    (BitVec.ofNat 16 (2 ^ (if c < 0 then 0 else if 16 < c then 16 else c.toNat) - 1)).getLsbD l = decide ((l : Int) < c) := by
  rw [BitVec.getLsbD_ofNat, Nat.testBit_two_pow_sub_one, decide_eq_true hl, Bool.true_and, decide_eq_decide]
  split
  · omega
  · split <;> omega

/-- The ones of a predicate, counted in a word, are those of its 16 bits. -/
theorem popc_mask (m : Mask) : popc (m.setWidth 64) = BitVec.ofNat 64 ((List.range 16).countP fun l => m.getLsbD l) := by
  have low (l : Nat) (hl : l ∈ List.range 64) : (m.setWidth 64).getLsbD l = m.getLsbD l := by
    rw [BitVec.getLsbD_setWidth, decide_eq_true (List.mem_range.1 hl), Bool.true_and]
  have high : (List.range 48).countP ((fun l => m.getLsbD l) ∘ (16 + ·)) = 0 :=
    List.countP_eq_zero.2 fun l _ => by simp
  have cut : List.range 64 = List.range 16 ++ (List.range 48).map (16 + ·) := List.range_add (n := 16) (m := 48)
  rw [popc, ← List.countP_eq_length_filter, List.countP_congr fun l hl => by rw [low l hl], cut, List.countP_append, List.countP_map, high,
    Nat.add_zero]

/-! ### How an instruction ends that writes one register -/

/-- An instruction goes ahead when the governing FMT satisfies its row (17 R224). -/
theorem accepts_governed {s : State} {row : Pfx → Bool} (h : Governed s row) (k : Pfx → Out) : s.accepts row k = k s.me.pfx := by
  obtain ⟨legal, fits⟩ := h
  rw [State.accepts, legal, fits]; rfl

section
variable {i : Instr} {s : State}

theorem finish_wx_ends {d : BitVec 5} {v : Word} (e : exec i s = s.finish (s.me.wx d v)) : Ends i s (WroteX s · d v) :=
  ⟨_, e, wroteX' ..⟩

theorem finish_wk_ends {d : BitVec 3} {m : Mask} {P : Mask → Prop} (e : exec i s = s.finish (s.me.wk d m)) (hm : P m) :
    Ends i s fun t => ∃ km, WroteK s t d km ∧ P km :=
  ⟨_, e, m, wroteK .., hm⟩

theorem finish_wv_ends {d : BitVec 5} {v : Vec} {w : Nat} {f : Nat → Nat} (e : exec i s = s.finish (s.me.wv d v))
    (hv : ∀ j, j < 512 / w → el v w j = f j) : Ends i s (EachEl s · d w f) :=
  ⟨_, e, v, wroteV .., hv⟩

/-- Computing the active elements of v[d] one by one leaves the others as they were. -/
theorem mapEls_ends {d : BitVec 5} {k : BitVec 3} {w : Nat} {f : Nat → Nat × Flags5} {g : Nat → Nat}
    (e : exec i s = s.finish (s.me.wv d (mapEls w (activeEls w (s.me.rk k)) (s.me.rv d) f).1)) (hf : ∀ j, (f j).1 % 2 ^ w = g j) :
    Ends i s (EachActive s · d k w g) :=
  ⟨_, e, _, wroteV .., fun j hj => by simp only [el_mapEls w _ _ f hj, mem_activeEls, hj, true_and, hf]⟩

end

end Sys2Proof.Laws
end

section
/-! SUPPORT. The statements of chapter 17 on element moves, sorting and compression (R235, R238) and on predicates (R240). -/

open Sys2Proof Sys2Proof.Machine Sys2Proof.Claims Sys2Proof.Laws

namespace Sys2Proof.Proofs

theorem elementMoves : ElementMoves := by
  intro s d a b q k c w n
  refine ⟨fun h => ?perm, fun h => ?bcast, fun h => ?extr, fun h => ?insr⟩
  case perm => exact mapEls_ends (accepts_governed h _ : execVperm d a b q k s = _) fun _ => Nat.mod_eq_of_lt (el_lt ..)
  case bcast => exact mapEls_ends (accepts_governed h _ : execVbcast d a q k s = _) fun _ => Nat.mod_mod ..
  case extr =>
    have e : exec (.vextr d a b q) s = _ := (accepts_governed h _ : execVextr d a b q s = _)
    have scalar := extendEl_eq c (el_lt (s.me.rv a) w ((s.me.rx b).toNat % n))
    exact finish_wx_ends (e.trans (congrArg (fun v => s.finish (s.me.wx d v)) scalar))
  case insr => exact finish_wv_ends (accepts_governed h _ : execVinsr d a b q s = _) fun _ hj => el_elPut _ _ _ _ hj

theorem sortAndCompress : SortAndCompress := by
  intro s d a q k h w xs
  have small : ∀ x ∈ xs, x < 2 ^ w := List.forall_mem_map.2 fun i _ => el_lt (s.me.rv a) w i
  have ones : 2 ^ w - 1 < 2 ^ w := Nat.sub_lt (Nat.two_pow_pos w) Nat.one_pos
  have perm := perm_sortUp xs
  refine ⟨⟨_, (accepts_governed h _ : execVsort d a q k s = _), sortUp xs, perm, pairwise_sortUp xs, _, wroteV .., fun i hi => ?_⟩,
    finish_wv_ends (accepts_governed h _ : execVcompr d a q k s = _) fun i hi => el_packEls_of_lt small (Nat.two_pow_pos w) hi⟩
  exact el_packEls_of_lt (fun x hx => small x (perm.mem_iff.1 hx)) ones hi

/-- Settles O41: a vector written element by element reads back element by element, and inserting in order sorts. -/
theorem elementMovesAndSort : Obligations.ElementMovesAndSort :=
  ⟨elementMoves, sortAndCompress⟩

/-- Settles O10: each predicate instruction acts on the bits of its operands alone. -/
theorem predicateInstructions : Obligations.PredicateInstructions := by
  refine ⟨by decide, ?_⟩
  intro s d a b x y q h K
  refine ⟨?_, ?_, ?_, ?_, ?_, ?_⟩
  · exact finish_wk_ends (plain_off h) fun l _ => BitVec.getLsbD_and
  · exact finish_wk_ends (plain_off h) fun l _ => BitVec.getLsbD_or
  · exact finish_wk_ends (plain_off h) fun l _ => BitVec.getLsbD_xor
  · exact finish_wk_ends (plain_off h) fun l hl => by rw [BitVec.getLsbD_not, decide_eq_true hl, Bool.true_and]
  · exact finish_wk_ends (plain_off h) fun l hl => getLsbD_lowOnes _ hl
  · exact popc_mask (s.me.rk a) ▸ finish_wx_ends (plain_off h)

end Sys2Proof.Proofs
end

section
/-! SUPPORT. Membership sets (20 R272): which indices a set holds after each change of it, and what its lowest member and its words are. -/

open Sys2Proof Sys2Proof.Machine Sys2Proof.Claims

namespace Sys2Proof.Laws

/-! ### Counting and listing the members -/

theorem popCount_eq_ones (q : BitVec 256) : popCount 256 q.toNat = ones q :=
  List.countP_eq_length_filter.symm

/-- A member's index is below 2^32, so a lane holds it whole. -/
theorem lt_two_pow_of_mem_membersFrom {q : BitVec 256} {c i : Nat} (h : i ∈ membersFrom q c) : i < 2 ^ 32 :=
  Nat.lt_trans (List.mem_range.1 (List.mem_filter.1 h).1) (by decide)

/-- The lanes of QIDX: the members in order, and all ones after the last. -/
theorem el_packEls_membersFrom (q : BitVec 256) (c : Nat) {l : Nat} (hl : l < 16) :
    el (packEls 32 ((membersFrom q c).take 16) 0xFFFFFFFF) 32 l = (membersFrom q c).getD l 0xFFFFFFFF := by
  have fits : ∀ i ∈ (membersFrom q c).take 16, i < 2 ^ 32 := fun i hi => lt_two_pow_of_mem_membersFrom (List.mem_of_mem_take hi)
  rw [el_packEls_of_lt fits (by decide) hl, List.getD_eq_getElem?_getD, List.getD_eq_getElem?_getD, List.getElem?_take_of_lt hl]

/-! ### The set of one index -/

/-- The low n bits of a word, as a number. -/
theorem bits_zero (x : Word) (n : Nat) : bits x 0 n = x.toNat % 2 ^ n := by
  rw [bits, Nat.pow_zero, Nat.div_one]

theorem bits_index (x : Word) : bits x 0 8 = x.toNat % 256 :=
  bits_zero x 8

theorem bits_word (x : Word) : bits x 0 2 = x.toNat % 4 :=
  bits_zero x 2

theorem getLsbD_one_shiftLeft (i : Nat) {j : Nat} (hj : j < 256) : ((1 : BitVec 256) <<< i).getLsbD j = decide (j = i) := by
  have pow : (1 : BitVec 256) <<< i = BitVec.twoPow 256 i := (BitVec.twoPow_eq 256 i).symm
  rw [pow, BitVec.getLsbD_twoPow, ← Bool.decide_and, decide_eq_decide]
  omega

theorem getLsbD_and_not_one_shiftLeft (q : BitVec 256) (i : Nat) {j : Nat} (hj : j < 256) :
    (q &&& ~~~((1 : BitVec 256) <<< i)).getLsbD j = (q.getLsbD j && decide (j ≠ i)) := by
  rw [BitVec.getLsbD_and, BitVec.getLsbD_not, decide_eq_true hj, Bool.true_and, getLsbD_one_shiftLeft i hj, decide_not]

theorem getLsbD_or_oneOf (q : BitVec 256) (x : Word) {j : Nat} (hj : j < 256) :
    (q ||| oneOf x).getLsbD j = (q.getLsbD j || decide (j = x.toNat % 256)) := by
  rw [BitVec.getLsbD_or, oneOf, getLsbD_one_shiftLeft _ hj, bits_index]

theorem getLsbD_and_not_oneOf (q : BitVec 256) (x : Word) {j : Nat} (hj : j < 256) :
    (q &&& ~~~oneOf x).getLsbD j = (q.getLsbD j && decide (j ≠ x.toNat % 256)) := by
  rw [oneOf, getLsbD_and_not_one_shiftLeft _ _ hj, bits_index]

/-! ### The lowest member -/

/-- The words that QPOP returns tell the indices of a set apart. -/
theorem ofNat_eq_ofNat_iff {i j : Nat} (hi : i < 256) (hj : j < 256) : BitVec.ofNat 64 j = BitVec.ofNat 64 i ↔ j = i := by
  rw [← BitVec.toNat_inj, BitVec.toNat_ofNat, BitVec.toNat_ofNat, Nat.mod_eq_of_lt (by omega), Nat.mod_eq_of_lt (by omega)]

theorem head?_membersFrom_eq_none {q : BitVec 256} : (membersFrom q 0).head? = none ↔ q = 0 := by
  rw [membersFrom, List.head?_filter, List.find?_range_eq_none]
  simp only [Nat.zero_le, decide_true, Bool.and_true, Bool.not_eq_true']
  exact ⟨fun zeros => BitVec.eq_of_getLsbD_eq fun i hi => (zeros i hi).trans BitVec.getLsbD_zero.symm, fun e i _ => e ▸ BitVec.getLsbD_zero⟩

theorem head?_membersFrom_eq_some {q : BitVec 256} {i : Nat} :
    (membersFrom q 0).head? = some i ↔ q.getLsbD i = true ∧ i < 256 ∧ ∀ j < i, q.getLsbD j = false := by
  rw [membersFrom, List.head?_filter, List.find?_range_eq_some]
  simp only [Nat.zero_le, decide_true, Bool.and_true, Bool.not_eq_true', List.mem_range]

theorem isLowest_lowest (q : BitVec 256) : IsLowest q (lowest q) := by
  unfold lowest
  cases h : (membersFrom q 0).head? with
  | none => exact ⟨fun _ => rfl, fun ne => absurd (head?_membersFrom_eq_none.1 h) ne⟩
  | some i =>
    obtain ⟨mem, lt, below⟩ := head?_membersFrom_eq_some.1 h
    have ne : q ≠ 0 := fun e => nomatch (head?_membersFrom_eq_none.2 e).symm.trans h
    exact ⟨fun e => absurd e ne, fun _ => ⟨i, lt, rfl, mem, below⟩⟩

/-- QPOP takes out the lowest member and no other. -/
theorem getLsbD_dropLowest (q : BitVec 256) {j : Nat} (hj : j < 256) :
    (dropLowest q).getLsbD j = (q.getLsbD j && decide (BitVec.ofNat 64 j ≠ lowest q)) := by
  unfold dropLowest lowest
  cases h : (membersFrom q 0).head? with
  | none =>
    have empty : q.getLsbD j = false := head?_membersFrom_eq_none.1 h ▸ BitVec.getLsbD_zero
    exact empty.trans (empty ▸ (Bool.false_and _).symm)
  | some i =>
    obtain ⟨-, lt, -⟩ := head?_membersFrom_eq_some.1 h
    simp only [getLsbD_and_not_one_shiftLeft q i hj, ne_eq, ofNat_eq_ofNat_iff lt hj]

/-! ### The words of a set -/

theorem setWord_eq (q : BitVec 256) (x : Word) : setWord q (bits x 0 2) = (q >>> (64 * (x.toNat % 4))).setWidth 64 := by
  rw [BitVec.setWidth_ushiftRight_eq_extractLsb, setWord, bits_word]

/-- A word moved up to its place in a set: its bits stand there, and zeros elsewhere. -/
theorem getLsbD_setWidth_shiftLeft (v : Word) (w : Nat) {j : Nat} (hj : j < 256) :
    (v.setWidth 256 <<< (64 * w)).getLsbD j = (decide (j / 64 = w) && v.getLsbD (j % 64)) := by
  rw [BitVec.getLsbD_shiftLeft, BitVec.getLsbD_setWidth, decide_eq_true hj, Bool.true_and]
  by_cases h : j / 64 = w
  · have place : j - 64 * w = j % 64 := by omega
    have above : ¬j < 64 * w := by omega
    have low : j % 64 < 256 := by omega
    rw [place, decide_eq_true h, decide_eq_false above, decide_eq_true low, Bool.not_false, Bool.true_and]
  · have out : j < 64 * w ∨ 64 ≤ j - 64 * w := by omega
    rw [decide_eq_false h, Bool.false_and]
    rcases out with below | past
    · rw [decide_eq_true below, Bool.not_true, Bool.false_and]
    · rw [BitVec.getLsbD_of_ge _ _ past, Bool.and_false, Bool.and_false]

theorem getLsbD_putWord (q : BitVec 256) (w : Nat) (v : Word) {j : Nat} (hj : j < 256) :
    (putWord q w v).getLsbD j = if j / 64 = w then v.getLsbD (j % 64) else q.getLsbD j := by
  have mask : (0xFFFFFFFFFFFFFFFF : BitVec 256) = (BitVec.allOnes 64).setWidth 256 := by decide
  have low : j % 64 < 64 := Nat.mod_lt j (by decide)
  rw [putWord, mask, BitVec.getLsbD_or, BitVec.getLsbD_and, BitVec.getLsbD_not, decide_eq_true hj, Bool.true_and,
    getLsbD_setWidth_shiftLeft _ _ hj, getLsbD_setWidth_shiftLeft _ _ hj, BitVec.getLsbD_allOnes, decide_eq_true low, Bool.and_true]
  split
  case isTrue h => rw [decide_eq_true h, Bool.not_true, Bool.and_false, Bool.false_or, Bool.true_and]
  case isFalse h => rw [decide_eq_false h, Bool.not_false, Bool.and_true, Bool.false_and, Bool.or_false]

theorem getLsbD_putWord_bits (q : BitVec 256) (x v : Word) {j : Nat} (hj : j < 256) :
    (putWord q (bits x 0 2) v).getLsbD j = if j / 64 = x.toNat % 4 then v.getLsbD (j % 64) else q.getLsbD j := by
  rw [getLsbD_putWord _ _ _ hj, bits_word]

/-! ### How an instruction ends that changes a set -/

section
variable {i : Instr} {s : State} {u : Ctx}

theorem ends_imp {P Q : State → Prop} (ends : Ends i s P) (imp : ∀ t, P t → Q t) : Ends i s Q :=
  let ⟨t, e, p⟩ := ends
  ⟨t, e, imp t p⟩

theorem finish_ends (e : exec i s = s.finish u) : Ends i s fun t => OnlyMe s t ∧ t.me = issued u (u.pc + 4) :=
  let ⟨t, next, cur, only, me⟩ := finish_facts s u
  ⟨t, e.trans next, ⟨cur, only⟩, me⟩

/-- An instruction that writes x[d] in a context whose other fields it may have changed. -/
theorem finish_wx_meGoesOn {d : BitVec 5} {v : Word} (e : exec i s = s.finish (u.wx d v)) (x : ∀ r, u.rx r = s.me.rx r) :
    Ends i s (MeGoesOn s · (issued u (u.pc + 4)) d v) := by
  refine ⟨_, e, onlyMe .., ?fields, fun r => ?_⟩
  case fields =>
    rw [State.me_putMe]
    unfold Ctx.wx Ctx.next Ctx.retire issued
    split <;> rfl
  rw [State.me_putMe, Ctx.rx_next, Ctx.rx_wx, x]

end

/-- Writing registers of each file changes nothing outside the files. -/
theorem next_wx_wk_wv_outside (t : Ctx) (d a : BitVec 5) (k : BitVec 3) (v : Vec) (m : Mask) (w : Word) :
    { (((t.wv d v).wk k m).wx a w).next with x := [], v := [], k := [], regErr := [] } =
      { issued t (t.pc + 4) with x := [], v := [], k := [], regErr := [] } := by
  unfold Ctx.wx Ctx.wk Ctx.next Ctx.retire issued
  split <;> split <;> rfl

end Sys2Proof.Laws
end

section
/-! SUPPORT. The statement about the membership instructions (20 R272). -/

open Sys2Proof Sys2Proof.Machine Sys2Proof.Claims Sys2Proof.Laws

namespace Sys2Proof.Proofs

/-- QIDX as the three register writes that it makes. -/
theorem exec_qidx {s : State} (d a : BitVec 5) (h : s.me.latchOn = false) :
    let l := membersFrom s.me.qm (s.me.rx a).toNat
    exec (.qidx d a) s = s.finish (((s.me.wv d (packEls 32 (l.take 16) 0xFFFFFFFF)).wk 7 (BitVec.ofNat 16 (2 ^ min l.length 16 - 1))).wx a
      (if 16 < l.length then BitVec.ofNat 64 (l.getD 15 0 + 1) else 256)) :=
  plain_off h

/-- Settles O21: each instruction changes its set by an operation on bits that the laws of sets read back, and registers beside it.
That QPUT ends its set's error is the model's choice (log 83). -/
theorem membershipInstructions : Obligations.MembershipInstructions := by
  intro s d a b h qm qd x w I next Put
  refine ⟨?qdef, ?qidx, ?qpop, ?qfirst, ?qget, ?qput, ?qadd, ?qdel⟩
  case qdef =>
    exact popCount_eq_ones (qm ||| qd) ▸ finish_wx_meGoesOn (u := { s.me with qm := qm ||| qd, qd := 0 }) (plain_off h) fun _ => rfl
  case qidx =>
    refine ⟨_, exec_qidx d a h, onlyMe .., ?_⟩
    rw [State.me_putMe]
    refine ⟨next_wx_wk_wv_outside .., fun r => ?cursor, fun r hr => ?others, fun l hl => ?lanes, fun r => ?mask⟩
    case cursor => rw [Ctx.rx_next, Ctx.rx_wx, Ctx.rx_wk, Ctx.rx_wv]; rfl
    case others => rw [Ctx.rv_next, Ctx.rv_wx, Ctx.rv_wk, Ctx.rv_wv, if_neg hr]
    case lanes =>
      rw [Ctx.rv_next, Ctx.rv_wx, Ctx.rv_wk, Ctx.rv_wv, if_pos rfl]
      exact el_packEls_membersFrom qm x.toNat hl
    case mask =>
      have k7 : r = 7 ∧ r ≠ 0 ↔ r = 7 := and_iff_left_of_imp fun e => e ▸ by decide
      rw [Ctx.rk_next, Ctx.rk_wx, Ctx.rk_wk, Ctx.rk_wv]
      simp only [k7]; rfl
  case qpop =>
    exact ends_imp (finish_wx_meGoesOn (u := { s.me with qm := dropLowest qm }) (plain_off h) fun _ => rfl) fun _ goes =>
      ⟨lowest qm, dropLowest qm, isLowest_lowest qm, fun _ => getLsbD_dropLowest qm, goes⟩
  case qfirst =>
    exact ends_imp (finish_wx_meGoesOn (plain_off h) fun _ => rfl) fun _ goes => ⟨lowest qm, isLowest_lowest qm, goes⟩
  case qget => exact setWord_eq (if x.getLsbD 2 then qd else qm) x ▸ finish_wx_ends (plain_off h)
  case qput =>
    have put (old : BitVec 256) : Put old (putWord old (bits x 0 2) (s.me.rx b)) := fun _ => getLsbD_putWord_bits old x (s.me.rx b)
    have e : exec (.qput a b) s = _ := plain_off h
    by_cases hx : x.getLsbD 2
    case pos =>
      exact ends_imp (finish_ends (e.trans (congrArg s.finish (if_pos hx)))) fun _ ⟨only, me⟩ => ⟨only, _, (if_pos hx).mpr ⟨put qd, me⟩⟩
    case neg =>
      exact ends_imp (finish_ends (e.trans (congrArg s.finish (if_neg hx)))) fun _ ⟨only, me⟩ => ⟨only, _, (if_neg hx).mpr ⟨put qm, me⟩⟩
  case qadd =>
    exact ends_imp (finish_ends (plain_off h)) fun _ ⟨only, me⟩ => ⟨only, qm ||| oneOf x, me, fun _ => getLsbD_or_oneOf qm x⟩
  case qdel =>
    exact ends_imp (finish_ends (plain_off h)) fun _ ⟨only, me⟩ => ⟨only, qm &&& ~~~oneOf x, me, fun _ => getLsbD_and_not_oneOf qm x⟩

end Sys2Proof.Proofs
end

section
/-! SUPPORT. Curve codes as digits (24 R308): what `Shape.axis` and `Shape.code` hold bit by bit, and what follows for points, boxes and cells. -/

open Sys2Proof Sys2Proof.Machine Sys2Proof.Claims

namespace Sys2Proof.Laws

/-! ### A number from its bits -/

/-- The number whose bits below n are those of p. -/
def fromBits (p : Nat → Bool) (n : Nat) : Nat :=
  ((List.range n).map fun i => if p i then 2 ^ i else 0).sum

theorem fromBits_succ (p : Nat → Bool) (n : Nat) : fromBits p (n + 1) = fromBits p n + if p n then 2 ^ n else 0 := by
  simp [fromBits, List.range_succ]

theorem fromBits_lt (p : Nat → Bool) (n : Nat) : fromBits p n < 2 ^ n := by
  induction n with
  | zero => exact Nat.one_pos
  | succ n ih => rw [fromBits_succ, Nat.pow_succ]; split <;> omega

theorem testBit_fromBits (p : Nat → Bool) (n j : Nat) : (fromBits p n).testBit j = (decide (j < n) && p j) := by
  induction n with
  | zero => simp [fromBits]
  | succ n ih =>
    rw [fromBits_succ]
    have small := fromBits_lt p n
    rcases Nat.lt_trichotomy j n with below | rfl | above
    · have e : (fromBits p n + if p n then 2 ^ n else 0).testBit j = (fromBits p n).testBit j := by
        split
        · rw [Nat.add_comm, Nat.testBit_two_pow_add_gt below]
        · rfl
      rw [e, ih, decide_eq_true below, decide_eq_true (Nat.lt_succ_of_lt below)]
    · cases top : p j
      · simp [Nat.testBit_lt_two_pow small]
      · simp [Nat.add_comm, Nat.testBit_two_pow_add_eq, Nat.testBit_lt_two_pow small]
    · have bound : (fromBits p n + if p n then 2 ^ n else 0) < 2 ^ j :=
        Nat.lt_of_lt_of_le (fromBits_succ p n ▸ fromBits_lt p (n + 1)) (Nat.pow_le_pow_right (by decide) above)
      rw [Nat.testBit_lt_two_pow bound, decide_eq_false (by omega), Bool.false_and]

/-- Adding up the bits one by one, as the model does. -/
theorem foldl_bits {α : Type} (q : α → Prop) [DecidablePred q] (f : α → Nat) (l : List α) (r : Nat) :
    l.foldl (fun r i => if q i then r + f i else r) r = r + (l.map fun i => if q i then f i else 0).sum := by
  induction l generalizing r with
  | nil => rfl
  | cons i l ih =>
    rw [List.foldl_cons, ih, List.map_cons, List.sum_cons]
    split <;> omega

/-! ### Axes and codes -/

section
variable (g : Shape)

theorem axis_eq_fromBits (c a : Nat) : g.axis c a = fromBits (fun j => c.testBit (j * g.d + a)) g.b :=
  (foldl_bits ..).trans (Nat.zero_add _)

theorem axis_eq_axisOf (c a : Nat) : g.axis c a = axisOf g.d g.b c a :=
  axis_eq_fromBits g c a

theorem axis_lt (c a : Nat) : g.axis c a < 2 ^ g.b :=
  axis_eq_fromBits g c a ▸ fromBits_lt ..

theorem testBit_axis (c a j : Nat) : (g.axis c a).testBit j = (decide (j < g.b) && c.testBit (j * g.d + a)) := by
  rw [axis_eq_fromBits, testBit_fromBits]

/-- Bit i of a code is bit i / D of axis i mod D. -/
theorem code_eq_fromBits {v : Nat → Nat} : g.code v = fromBits (fun i => (v (i % g.d)).testBit (i / g.d)) (g.b * g.d) := by
  obtain ⟨d, b⟩ := g
  unfold Shape.code
  induction b with
  | zero => simp [fromBits]
  | succ b ih =>
    have digit (a : Nat) (ha : a ∈ List.range d) : (b * d + a) % d = a ∧ (b * d + a) / d = b := by
      have lt := List.mem_range.1 ha
      rw [Nat.mul_comm, Nat.mul_add_mod, Nat.mul_add_div (by omega), Nat.mod_eq_of_lt lt, Nat.div_eq_of_lt lt]
      exact ⟨rfl, rfl⟩
    have digits := List.map_congr_left (l := List.range d)
      (f := fun a => if (v a).testBit b then 2 ^ (b * d + a) else 0)
      (g := fun a => if (v ((b * d + a) % d)).testBit ((b * d + a) / d) then 2 ^ (b * d + a) else 0)
      fun a ha => by rw [(digit a ha).1, (digit a ha).2]
    rw [List.range_succ, List.foldl_append, ih]
    simp only [List.foldl_cons, List.foldl_nil, foldl_bits, fromBits, Nat.succ_mul, List.range_add, List.map_append, List.sum_append, List.map_map,
      digits]
    rfl

theorem testBit_code (v : Nat → Nat) (i : Nat) : (g.code v).testBit i = (decide (i < g.b * g.d) && (v (i % g.d)).testBit (i / g.d)) := by
  rw [code_eq_fromBits, testBit_fromBits]

theorem code_lt (v : Nat → Nat) : g.code v < g.size := by
  rw [code_eq_fromBits, Shape.size, Nat.mul_comm g.d]
  exact fromBits_lt ..

variable {g}

theorem digit_lt {a j : Nat} (ha : a < g.d) : j * g.d + a < g.b * g.d ↔ j < g.b := by
  constructor
  · intro h
    exact Nat.lt_of_mul_lt_mul_right (Nat.lt_of_le_of_lt (Nat.le_add_right ..) h)
  · intro h
    have : (j + 1) * g.d ≤ g.b * g.d := Nat.mul_le_mul_right _ h
    rw [Nat.succ_mul] at this
    omega

/-- Each axis of a code holds its coordinate modulo 2^B. -/
theorem axis_code (v : Nat → Nat) {a : Nat} (ha : a < g.d) : g.axis (g.code v) a = v a % 2 ^ g.b := by
  refine Nat.eq_of_testBit_eq fun j => ?_
  have hd : 0 < g.d := by omega
  have digit : (j * g.d + a) % g.d = a ∧ (j * g.d + a) / g.d = j := by
    rw [Nat.mul_comm, Nat.mul_add_mod, Nat.mul_add_div hd, Nat.mod_eq_of_lt ha, Nat.div_eq_of_lt ha]
    exact ⟨rfl, rfl⟩
  rw [testBit_axis, testBit_code, Nat.testBit_mod_two_pow, digit.1, digit.2, decide_eq_decide.2 (digit_lt ha), ← Bool.and_assoc, Bool.and_self]

theorem isCode_code (v : Nat → Nat) : IsCode g.d g.b (g.code v) v :=
  ⟨code_lt g v, fun a ha => axis_eq_axisOf g _ a ▸ axis_code v ha⟩

/-- A code is determined by its coordinates. -/
theorem eq_of_axis_eq {c e : Nat} (hd : 0 < g.d) (hc : c < g.size) (he : e < g.size) (h : ∀ a, a < g.d → g.axis c a = g.axis e a) : c = e := by
  refine Nat.eq_of_testBit_eq fun i => ?_
  by_cases hi : i < g.d * g.b
  · have lt : i / g.d < g.b := Nat.div_lt_of_lt_mul hi
    have place : i / g.d * g.d + i % g.d = i := by rw [Nat.mul_comm]; exact Nat.div_add_mod ..
    have bit := congrArg (Nat.testBit · (i / g.d)) (h (i % g.d) (Nat.mod_lt _ hd))
    simpa only [testBit_axis, lt, decide_true, Bool.true_and, place] using bit
  · have top : g.size ≤ 2 ^ i := Nat.pow_le_pow_right (by decide) (Nat.le_of_not_lt hi)
    rw [Nat.testBit_lt_two_pow (Nat.lt_of_lt_of_le hc top), Nat.testBit_lt_two_pow (Nat.lt_of_lt_of_le he top)]

/-- The bits of an operand at and above D B are in no axis. -/
theorem axis_mod_size (c : Nat) {a : Nat} (ha : a < g.d) : g.axis (c % g.size) a = g.axis c a := by
  refine Nat.eq_of_testBit_eq fun j => ?_
  rw [testBit_axis, testBit_axis, Shape.size, Nat.testBit_mod_two_pow, Nat.mul_comm g.d g.b, decide_eq_decide.2 (digit_lt ha), ← Bool.and_assoc,
    Bool.and_self]

/-! ### Cells (24 R310) -/

/-- The shape of the level-L cells. -/
def cells (g : Shape) (L : Nat) : Shape := ⟨g.d, g.b - L⟩

/-- A cell's coordinates are its codes' coordinates without their L low bits. -/
theorem axis_cells (L c a : Nat) : (cells g L).axis (c / 2 ^ (g.d * L)) a = g.axis c a / 2 ^ L := by
  refine Nat.eq_of_testBit_eq fun j => ?_
  have place : j * g.d + a + g.d * L = (j + L) * g.d + a := by rw [Nat.add_mul, Nat.mul_comm g.d L]; omega
  have level : j < g.b - L ↔ j + L < g.b := by omega
  rw [testBit_axis, Nat.testBit_div_two_pow, Nat.testBit_div_two_pow, testBit_axis]
  exact congr (congrArg _ (decide_eq_decide.2 level)) (congrArg _ place)

/-- The first code of a cell has no low bits on any axis. -/
theorem axis_cell_mod (L q : Nat) {a : Nat} (ha : a < g.d) : g.axis (q * 2 ^ (g.d * L)) a % 2 ^ L = 0 := by
  refine Nat.eq_of_testBit_eq fun j => ?_
  rw [Nat.testBit_mod_two_pow, testBit_axis, Nat.zero_testBit, Nat.testBit_mul_two_pow]
  by_cases hj : j < L
  · have low : j * g.d + a < g.d * L := by
      have := Nat.mul_le_mul_right g.d hj
      rw [Nat.succ_mul, Nat.mul_comm L] at this
      omega
    rw [decide_eq_false (Nat.not_le_of_lt low), Bool.false_and, Bool.and_false, Bool.and_false]
  · rw [decide_eq_false hj, Bool.false_and]

/-- On each axis a level-L cell spans 2^L coordinates from that of its first code. -/
theorem axis_within_cell {L q e a : Nat} (ha : a < g.d) (he : e / 2 ^ (g.d * L) = q) :
    g.axis (q * 2 ^ (g.d * L)) a ≤ g.axis e a ∧ g.axis e a < g.axis (q * 2 ^ (g.d * L)) a + 2 ^ L := by
  have same : g.axis (q * 2 ^ (g.d * L)) a / 2 ^ L = g.axis e a / 2 ^ L := by
    rw [← axis_cells, ← axis_cells, Nat.mul_div_cancel _ (Nat.two_pow_pos _), he]
  have first := Nat.div_add_mod (g.axis (q * 2 ^ (g.d * L)) a) (2 ^ L)
  have split := Nat.div_add_mod (g.axis e a) (2 ^ L)
  have rest := Nat.mod_lt (g.axis e a) (Nat.two_pow_pos L)
  rw [axis_cell_mod L q ha, same] at first
  omega

/-! ### Boxes -/

theorem inBox_iff {lo hi c : Nat} : g.inBox lo hi c = true ↔ InBox g.d g.b lo hi c := by
  simp only [Shape.inBox, InBox, axis_eq_axisOf, List.all_eq_true, List.mem_range, decide_eq_true_eq]

theorem inBox_iff_axis {lo hi c : Nat} : InBox g.d g.b lo hi c ↔ ∀ a, a < g.d → g.axis lo a ≤ g.axis c a ∧ g.axis c a ≤ g.axis hi a := by
  simp only [InBox, axis_eq_axisOf]

theorem not_inBox_of_empty {lo hi : Nat} (h : g.empty lo hi = true) (c : Nat) : ¬InBox g.d g.b lo hi c := by
  obtain ⟨a, ha, lt⟩ := List.any_eq_true.1 h
  intro box
  have := inBox_iff_axis.1 box a (List.mem_range.1 ha)
  have := of_decide_eq_true lt
  omega

theorem le_of_not_empty {lo hi : Nat} (h : ¬g.empty lo hi = true) {a : Nat} (ha : a < g.d) : g.axis lo a ≤ g.axis hi a := by
  refine Nat.le_of_not_lt fun lt => h (List.any_eq_true.2 ⟨a, List.mem_range.2 ha, decide_eq_true lt⟩)

/-- A cell wholly inside a box. -/
theorem inBox_of_cellIn {lo hi q L e : Nat} (h : g.cellIn lo hi (q * 2 ^ (g.d * L)) L = true) (he : e / 2 ^ (g.d * L) = q) :
    InBox g.d g.b lo hi e := by
  refine inBox_iff_axis.2 fun a ha => ?_
  have span := axis_within_cell ha he
  have := of_decide_eq_true (List.all_eq_true.1 h a (List.mem_range.2 ha))
  omega

/-- A cell wholly outside a box. -/
theorem not_inBox_of_cellOut {lo hi q L e : Nat} (h : g.cellOut lo hi (q * 2 ^ (g.d * L)) L = true) (he : e / 2 ^ (g.d * L) = q) :
    ¬InBox g.d g.b lo hi e := by
  obtain ⟨a, ha, out⟩ := List.any_eq_true.1 h
  intro box
  have span := axis_within_cell (List.mem_range.1 ha) he
  have := inBox_iff_axis.1 box a (List.mem_range.1 ha)
  have := of_decide_eq_true out
  omega

/-- A cell of one code is inside or outside. -/
theorem cellOut_zero_of_not_cellIn {lo hi c : Nat} (h : ¬g.cellIn lo hi c 0 = true) : g.cellOut lo hi c 0 = true := by
  refine Classical.byContradiction fun notOut => h (List.all_eq_true.2 fun a ha => decide_eq_true ?_)
  have within : ¬(g.axis c a + 2 ^ 0 ≤ g.axis lo a ∨ g.axis hi a < g.axis c a) := fun out => notOut (List.any_eq_true.2 ⟨a, ha, decide_eq_true out⟩)
  omega

end

end Sys2Proof.Laws
end

section
/-! SUPPORT. The searches of 24 R316 by halving cells: `seekUp` finds the first code of a cell, `seekDown` the last, on one side of a box. -/

open Sys2Proof Sys2Proof.Machine Sys2Proof.Claims

namespace Sys2Proof.Laws

/-! ### The first and the last of an interval -/

/-- o is the first number of [a, b) with property P, if there is one. -/
def FirstIn (P : Nat → Prop) (a b : Nat) : Option Nat → Prop
  | none => ∀ e, a ≤ e → e < b → ¬P e
  | some r => a ≤ r ∧ r < b ∧ P r ∧ ∀ e, a ≤ e → e < r → ¬P e

/-- o is the last number of [a, b) with property P, if there is one. -/
def LastIn (P : Nat → Prop) (a b : Nat) : Option Nat → Prop
  | none => ∀ e, a ≤ e → e < b → ¬P e
  | some r => a ≤ r ∧ r < b ∧ P r ∧ ∀ e, r < e → e < b → ¬P e

section
variable {P : Nat → Prop} {a b c : Nat} {o : Option Nat}

theorem FirstIn.eq_some (h : FirstIn P a b o) (ha : a ≤ c) (hb : c < b) (hc : P c) (least : ∀ e, P e → a ≤ e → c ≤ e) : o = some c := by
  cases o with
  | none => exact absurd hc (h c ha hb)
  | some r =>
    obtain ⟨above, -, holds, first⟩ := h
    have le := least r holds above
    have ge := Nat.le_of_not_lt fun lt => first c ha lt hc
    rw [Nat.le_antisymm ge le]

theorem FirstIn.eq_none (h : FirstIn P a b o) (no : ∀ e, e < b → a ≤ e → ¬P e) : o = none := by
  cases o with
  | none => rfl
  | some r =>
    obtain ⟨above, below, holds, -⟩ := h
    exact absurd holds (no r below above)

theorem LastIn.eq_some (h : LastIn P a b o) (ha : a ≤ c) (hb : c < b) (hc : P c) (greatest : ∀ e, P e → e < b → e ≤ c) : o = some c := by
  cases o with
  | none => exact absurd hc (h c ha hb)
  | some r =>
    obtain ⟨-, below, holds, last⟩ := h
    have le := greatest r holds below
    have ge := Nat.le_of_not_lt fun lt => last c lt hb hc
    rw [Nat.le_antisymm le ge]

theorem LastIn.eq_none (h : LastIn P a b o) (no : ∀ e, a ≤ e → e < b → ¬P e) : o = none := by
  cases o with
  | none => rfl
  | some r =>
    obtain ⟨above, below, holds, -⟩ := h
    exact absurd holds (no r above below)

/-- The first in blocks of w numbers is the first of the first block that has one. -/
theorem firstIn_findSome? {w x n : Nat} {f : Nat → Option Nat} (h : ∀ k < n, FirstIn P (max (c + k * w) x) (c + k * w + w) (f k)) :
    FirstIn P (max c x) (c + n * w) ((List.range n).findSome? f) := by
  induction n with
  | zero => intro e; omega
  | succ n ih =>
    have before := ih fun k hk => h k (Nat.lt_succ_of_lt hk)
    have block := h n (Nat.lt_succ_self n)
    rw [List.range_succ, List.findSome?_append, Nat.succ_mul]
    cases found : (List.range n).findSome? f with
    | some r =>
      obtain ⟨above, below, holds, first⟩ := found ▸ before
      exact ⟨above, by omega, holds, first⟩
    | none =>
      have nowhere := found ▸ before
      rw [Option.none_or, List.findSome?_singleton]
      cases last : f n with
      | none =>
        have empty := last ▸ block
        intro e above below
        by_cases cut : e < c + n * w
        · exact nowhere e above cut
        · exact empty e (by omega) (by omega)
      | some r =>
        obtain ⟨above, below, holds, first⟩ := last ▸ block
        refine ⟨by omega, by omega, holds, fun e le lt => ?_⟩
        by_cases cut : e < c + n * w
        · exact nowhere e le cut
        · exact first e (by omega) lt

/-- The last in blocks of w numbers is the last of the last block that has one. -/
theorem lastIn_findSome? {w x n : Nat} {f : Nat → Option Nat} (h : ∀ k < n, LastIn P (c + k * w) (min (c + k * w + w) x) (f k)) :
    LastIn P c (min (c + n * w) x) ((List.range n).reverse.findSome? f) := by
  induction n with
  | zero => intro e; omega
  | succ n ih =>
    have before := ih fun k hk => h k (Nat.lt_succ_of_lt hk)
    have block := h n (Nat.lt_succ_self n)
    rw [List.range_succ, List.reverse_append, List.reverse_singleton, List.singleton_append, List.findSome?_cons, Nat.succ_mul]
    cases last : f n with
    | some r =>
      obtain ⟨above, below, holds, after⟩ := last ▸ block
      exact ⟨by omega, by omega, holds, fun e lt top => after e lt (by omega)⟩
    | none =>
      have empty := last ▸ block
      cases found : (List.range n).reverse.findSome? f with
      | none =>
        have nowhere := found ▸ before
        intro e above below
        by_cases cut : e < c + n * w
        · exact nowhere e above (by omega)
        · exact empty e (by omega) (by omega)
      | some r =>
        obtain ⟨above, below, holds, after⟩ := found ▸ before
        refine ⟨above, by omega, holds, fun e lt top => ?_⟩
        by_cases cut : e < c + n * w
        · exact after e lt (by omega)
        · exact empty e (by omega) (by omega)

end

/-! ### Searching a cell -/

section
variable {g : Shape} {lo hi : Nat}

/-- Code e lies on the wanted side of a box. -/
def Side (g : Shape) (lo hi : Nat) (want : Bool) (e : Nat) : Prop :=
  InBox g.d g.b lo hi e ↔ want = true

theorem side_true : Side g lo hi true = InBox g.d g.b lo hi :=
  funext fun _ => propext (iff_true_right rfl)

theorem div_eq_of_within {q u e : Nat} (h : q * u ≤ e) (k : e < q * u + u) : e / u = q := by
  rw [Nat.div_eq_iff (by omega)]
  omega

/-- Child k of the level-L + 1 cell q is the level-L cell q 2^D + k. -/
theorem child_cell (g : Shape) (L q k : Nat) : q * 2 ^ (g.d * (L + 1)) + k * 2 ^ (g.d * L) = (q * 2 ^ g.d + k) * 2 ^ (g.d * L) := by
  rw [Nat.mul_succ, Nat.pow_add, Nat.add_mul, Nat.mul_assoc, Nat.mul_comm (2 ^ g.d)]

theorem children_span (g : Shape) (L : Nat) : 2 ^ g.d * 2 ^ (g.d * L) = 2 ^ (g.d * (L + 1)) := by
  rw [← Nat.pow_add, Nat.mul_succ, Nat.add_comm]

/-- Where every number of an interval has the property, its first is the lower end. -/
theorem firstIn_lower {P : Nat → Prop} {a b : Nat} (hab : a < b) (all : ∀ e, a ≤ e → e < b → P e) : FirstIn P a b (some a) :=
  ⟨Nat.le_refl a, hab, all a (Nat.le_refl a) hab, fun _ le lt => absurd lt (Nat.not_lt_of_le le)⟩

theorem lastIn_upper {P : Nat → Prop} {a b : Nat} (hab : a ≤ b) (all : ∀ e, a ≤ e → e ≤ b → P e) : LastIn P a (b + 1) (some b) :=
  ⟨hab, Nat.lt_succ_self b, all b hab (Nat.le_refl b), fun _ lt top => absurd (Nat.le_of_lt_succ top) (Nat.not_le_of_lt lt)⟩

/-- A cell of which x cuts nothing off, or all, or which lies on one side of the box; `deeper` stands for the search of its children. -/
theorem firstIn_cell (want : Bool) (L q x : Nat) {deeper : Option Nat} (mixed : ¬g.cellIn lo hi (q * 2 ^ (g.d * L)) L = true →
      ¬g.cellOut lo hi (q * 2 ^ (g.d * L)) L = true →
      FirstIn (Side g lo hi want) (max (q * 2 ^ (g.d * L)) x) (q * 2 ^ (g.d * L) + 2 ^ (g.d * L)) deeper) :
    FirstIn (Side g lo hi want) (max (q * 2 ^ (g.d * L)) x) (q * 2 ^ (g.d * L) + 2 ^ (g.d * L))
      (if q * 2 ^ (g.d * L) + 2 ^ (g.d * L) ≤ x then none
       else if g.cellIn lo hi (q * 2 ^ (g.d * L)) L then (if want then some (max (q * 2 ^ (g.d * L)) x) else none)
       else if g.cellOut lo hi (q * 2 ^ (g.d * L)) L then (if want then none else some (max (q * 2 ^ (g.d * L)) x))
       else deeper) := by
  have pos := Nat.two_pow_pos (g.d * L)
  have cell (e : Nat) (le : max (q * 2 ^ (g.d * L)) x ≤ e) (lt : e < q * 2 ^ (g.d * L) + 2 ^ (g.d * L)) : e / 2 ^ (g.d * L) = q :=
    div_eq_of_within (Nat.le_trans (Nat.le_max_left ..) le) lt
  split
  next past => exact fun e le lt => absurd (Nat.le_trans (Nat.le_max_right ..) le) (by omega)
  next reach =>
  have nonempty : max (q * 2 ^ (g.d * L)) x < q * 2 ^ (g.d * L) + 2 ^ (g.d * L) := Nat.max_lt.2 ⟨by omega, by omega⟩
  split
  next inside =>
    have box := fun e le lt => inBox_of_cellIn inside (cell e le lt)
    cases want
    · exact fun e le lt side => absurd (side.1 (box e le lt)) (by decide)
    · exact firstIn_lower nonempty fun e le lt => iff_of_true (box e le lt) rfl
  next notIn =>
  split
  next outside =>
    have box := fun e le lt => not_inBox_of_cellOut outside (cell e le lt)
    cases want
    · exact firstIn_lower nonempty fun e le lt => iff_of_false (box e le lt) (by decide)
    · exact fun e le lt side => box e le lt (side.2 rfl)
  next notOut => exact mixed notIn notOut

/-- `seekUp` finds the first code at or above x of a cell on the wanted side of a box. -/
theorem firstIn_seekUp (want : Bool) (L q x : Nat) :
    FirstIn (Side g lo hi want) (max (q * 2 ^ (g.d * L)) x) (q * 2 ^ (g.d * L) + 2 ^ (g.d * L)) (g.seekUp lo hi want L (q * 2 ^ (g.d * L)) x) := by
  induction L generalizing q with
  | zero =>
    unfold Shape.seekUp
    exact firstIn_cell want 0 q x fun notIn notOut => absurd (cellOut_zero_of_not_cellIn notIn) notOut
  | succ L ih =>
    unfold Shape.seekUp
    refine firstIn_cell want (L + 1) q x fun _ _ => ?_
    rw [← children_span]
    refine firstIn_findSome? fun k _ => ?_
    rw [children_span, child_cell]
    exact ih _

/-- The same for the last code up to x. -/
theorem lastIn_cell (L q x : Nat) {deeper : Option Nat} (mixed : ¬g.cellIn lo hi (q * 2 ^ (g.d * L)) L = true →
      ¬g.cellOut lo hi (q * 2 ^ (g.d * L)) L = true →
      LastIn (InBox g.d g.b lo hi) (q * 2 ^ (g.d * L)) (min (q * 2 ^ (g.d * L) + 2 ^ (g.d * L)) (x + 1)) deeper) :
    LastIn (InBox g.d g.b lo hi) (q * 2 ^ (g.d * L)) (min (q * 2 ^ (g.d * L) + 2 ^ (g.d * L)) (x + 1))
      (if x < q * 2 ^ (g.d * L) then none
       else if g.cellIn lo hi (q * 2 ^ (g.d * L)) L then some (min (q * 2 ^ (g.d * L) + 2 ^ (g.d * L) - 1) x)
       else if g.cellOut lo hi (q * 2 ^ (g.d * L)) L then none
       else deeper) := by
  have pos := Nat.two_pow_pos (g.d * L)
  have cell (e : Nat) (le : q * 2 ^ (g.d * L) ≤ e) (lt : e < q * 2 ^ (g.d * L) + 2 ^ (g.d * L)) : e / 2 ^ (g.d * L) = q :=
    div_eq_of_within le lt
  split
  next below => exact fun e le lt => absurd (Nat.lt_of_lt_of_le lt (Nat.min_le_right ..)) (by omega)
  next reach =>
  split
  next inside =>
    have top : min (q * 2 ^ (g.d * L) + 2 ^ (g.d * L)) (x + 1) = min (q * 2 ^ (g.d * L) + 2 ^ (g.d * L) - 1) x + 1 := by omega
    rw [top]
    exact lastIn_upper (by omega) fun e le lt => inBox_of_cellIn inside (cell e le (by omega))
  next notIn =>
  split
  next outside => exact fun e le lt => not_inBox_of_cellOut outside (cell e le (Nat.lt_of_lt_of_le lt (Nat.min_le_left ..)))
  next notOut => exact mixed notIn notOut

/-- `seekDown` finds the last code at or below x of a cell in a box. -/
theorem lastIn_seekDown (L q x : Nat) :
    LastIn (InBox g.d g.b lo hi) (q * 2 ^ (g.d * L)) (min (q * 2 ^ (g.d * L) + 2 ^ (g.d * L)) (x + 1))
      (g.seekDown lo hi L (q * 2 ^ (g.d * L)) x) := by
  induction L generalizing q with
  | zero =>
    unfold Shape.seekDown
    exact lastIn_cell 0 q x fun notIn notOut => absurd (cellOut_zero_of_not_cellIn notIn) notOut
  | succ L ih =>
    unfold Shape.seekDown
    refine lastIn_cell (L + 1) q x fun _ _ => ?_
    rw [← children_span]
    refine lastIn_findSome? fun k _ => ?_
    rw [children_span, child_cell]
    exact ih _

/-! ### The whole space -/

/-- The whole space is the one cell of level B. -/
theorem firstIn_seekUp_space (want : Bool) (x : Nat) : FirstIn (Side g lo hi want) x g.size (g.seekUp lo hi want g.b 0 x) := by
  simpa only [Nat.zero_mul, Nat.zero_add, Nat.zero_max, Shape.size] using firstIn_seekUp (g := g) (lo := lo) (hi := hi) want g.b 0 x

theorem firstIn_next (x : Nat) : FirstIn (InBox g.d g.b lo hi) x g.size (g.next lo hi x) := by
  unfold Shape.next
  split
  next void => exact fun e _ _ => not_inBox_of_empty void e
  next => exact side_true ▸ firstIn_seekUp_space true x

theorem lastIn_prev (x : Nat) : LastIn (InBox g.d g.b lo hi) 0 (min g.size (x + 1)) (g.prev lo hi x) := by
  unfold Shape.prev
  split
  next void => exact fun e _ _ => not_inBox_of_empty void e
  next => simpa only [Nat.zero_mul, Nat.zero_add, Shape.size] using lastIn_seekDown (g := g) (lo := lo) (hi := hi) g.b 0 x

end

end Sys2Proof.Laws
end

section
/-! SUPPORT. The scalar curve instructions (24 R313 to R317), which hold as stated. -/

open Sys2Proof Sys2Proof.Machine Sys2Proof.Claims Sys2Proof.Laws

namespace Sys2Proof.Laws

/-! ### The shape of a thread's codes (24 R307) -/

theorem bits_le_word {s : State} {D B : Nat} (h : Shaped s D B) : B ≤ 64 := by
  obtain ⟨-, -, d1, -, -, fits⟩ := h
  exact Nat.le_trans (Nat.le_mul_of_pos_left B d1) fits

theorem size_le_word {s : State} {D B : Nat} (h : Shaped s D B) : Shape.size ⟨D, B⟩ ≤ 2 ^ 64 := by
  obtain ⟨-, -, -, -, -, fits⟩ := h
  exact Nat.pow_le_pow_right (by decide) fits

/-- cvd holds its two fields without loss. -/
theorem withShape_shaped {s : State} {D B : Nat} (h : Shaped s D B) (k : Shape → Out) : s.withShape k = k ⟨D, B⟩ := by
  have b64 := bits_le_word h
  obtain ⟨plain, cvd, d1, d8, b1, fits⟩ := h
  have value : s.me.cvd.toNat = 16 * B + D := by rw [cvd, BitVec.toNat_ofNat, Nat.mod_eq_of_lt (by omega)]
  have nonzero : s.me.cvd ≠ 0 := fun e => by rw [e] at value; change 0 = _ at value; omega
  have shape : s.me.shape = ⟨D, B⟩ := by
    rw [Ctx.shape, value, Nat.mul_add_mod, Nat.mod_eq_of_lt (by omega), Nat.mul_add_div (by decide), Nat.div_eq_of_lt (by omega), Nat.add_zero]
  rw [State.withShape, plain_off plain, if_neg nonzero, shape]

theorem withShape_zero {s : State} (h : s.me.cvd = 0) (k : Shape → Out) : s.withShape k = .next s.illegal := by
  rw [State.withShape, State.plain, if_pos h, ite_self]

/-! ### Sums axis by axis (24 R314) -/

section
variable {g : Shape}

theorem axisSum_mod_size (sub : Bool) (x y : Nat) {a : Nat} (ha : a < g.d) :
    axisSum g.d g.b sub (x % g.size) (y % g.size) a = axisSum g.d g.b sub x y a := by
  simp only [axisSum, ← axis_eq_axisOf, axis_mod_size _ ha]

/-- The code that `addSub` gives holds the sums of the operands' axes. -/
theorem isCode_addSub (sub : Bool) (x y : Nat) :
    IsCode g.d g.b (g.addSub sub x y).1 fun a => (axisSum g.d g.b sub (x % g.size) (y % g.size) a % 2 ^ g.b).toNat := by
  refine ⟨code_lt .., fun a ha => ?_⟩
  simp only [axisSum_mod_size sub x y ha]
  refine (axis_eq_axisOf g _ a ▸ axis_code _ ha).trans ?_
  simp only [axisSum, ← axis_eq_axisOf]
  norm_cast

/-- Its flags are those of the axes that overflow. -/
theorem getLsbD_addSub (sub : Bool) (x y : Nat) {k : Nat} (hk : k < 8) :
    (g.addSub sub x y).2.getLsbD k = overflows g.d g.b sub (x % g.size) (y % g.size) k := by
  have flags : (g.addSub sub x y).2 =
      BitVec.ofNat 8 (fromBits (fun a => decide (axisSum g.d g.b sub x y a < 0) || decide (2 ^ g.b ≤ axisSum g.d g.b sub x y a)) g.d) := by
    simp only [Shape.addSub, foldl_bits, fromBits, axis_eq_axisOf, Nat.zero_add, Bool.or_eq_true, decide_eq_true_eq, Int.natCast_pow]
    rfl
  rw [flags, BitVec.getLsbD_ofNat, decide_eq_true hk, Bool.true_and, testBit_fromBits, overflows]
  by_cases ha : k < g.d
  · rw [axisSum_mod_size sub x y ha]
  · rw [decide_eq_false ha, Bool.false_and, Bool.false_and]

/-! ### Levels (24 R317) -/

/-- `level` is the least level at which two codes share a cell; at level B all do. -/
theorem level_least {x y : Nat} (hx : x < g.size) (hy : y < g.size) :
    g.level x y ≤ g.b ∧ x / 2 ^ (g.d * g.level x y) = y / 2 ^ (g.d * g.level x y) ∧
      ∀ M, M < g.level x y → x / 2 ^ (g.d * M) ≠ y / 2 ^ (g.d * M) := by
  have top : x / 2 ^ (g.d * g.b) = y / 2 ^ (g.d * g.b) := (Nat.div_eq_of_lt hx).trans (Nat.div_eq_of_lt hy).symm
  unfold Shape.level
  cases h : (List.range (g.b + 1)).find? fun L => decide (x / 2 ^ (g.d * L) = y / 2 ^ (g.d * L)) with
  | none => exact absurd top (by simpa using List.find?_range_eq_none.1 h g.b (Nat.lt_succ_self _))
  | some L =>
    obtain ⟨same, hL, differ⟩ := List.find?_range_eq_some.1 h
    exact ⟨Nat.le_of_lt_succ (List.mem_range.1 hL), of_decide_eq_true same, fun M hM => by simpa using differ M hM⟩

end

end Sys2Proof.Laws

namespace Sys2Proof.Proofs

theorem curveCodes : CurveCodes := by
  intro s d a b p r
  refine ⟨fun D B shaped => ?legal, fun zero i hi => ?illegal⟩
  case illegal =>
    simp only [List.mem_cons, List.not_mem_nil, or_false] at hi
    obtain rfl | rfl | rfl | rfl | rfl | rfl | rfl | rfl | rfl | rfl := hi
    · exact (withShape_zero zero _ : execCvenc d a s = _)
    · exact (withShape_zero zero _ : execCvdec d a s = _)
    · exact (withShape_zero zero _ : s.cvAddSub false d a b = _)
    · exact (withShape_zero zero _ : s.cvAddSub true d a b = _)
    · exact (withShape_zero zero _ : execCvin d a p s = _)
    · exact (withShape_zero zero _ : execCvnext d a p s = _)
    · exact (withShape_zero zero _ : execCvprev d a p s = _)
    · exact (withShape_zero zero _ : execCvlev d a b s = _)
    · exact (withShape_zero zero _ : execCvcell d a b s = _)
    · exact (withShape_zero zero _ : execCvsplit d r b s = _)
  intro x y lo hi Sum
  have small : 2 ^ (D * B) ≤ 2 ^ 64 := size_le_word shaped
  have add (i : Instr) (sub : Bool) (e : exec i s = s.cvAddSub sub d a b) : Sum i sub := by
    refine ends_imp (finish_wx_meGoesOn (e.trans (withShape_shaped shaped _)) fun _ => rfl) fun t goes => ⟨_, _, isCode_addSub .., fun k hk => ?_, goes⟩
    rw [BitVec.getLsbD_or, getLsbD_addSub sub _ _ hk]
    rfl
  have box (c : Nat) : (Shape.inBox ⟨D, B⟩ lo hi c = true) ↔ InBox D B lo hi c := inBox_iff
  have next : FirstIn (InBox D B lo hi) x (2 ^ (D * B)) (Shape.next ⟨D, B⟩ lo hi x) := firstIn_next x
  have prev : LastIn (InBox D B lo hi) 0 (min (2 ^ (D * B)) (x + 1)) (Shape.prev ⟨D, B⟩ lo hi x) := lastIn_prev x
  have below : x < 2 ^ (D * B) := Nat.mod_lt _ (Nat.two_pow_pos _)
  rw [Nat.min_eq_right below] at prev
  have cvin : execCvin d a p s = s.finish (s.me.wx d (flag (Shape.inBox ⟨D, B⟩ lo hi x))) := withShape_shaped shaped _
  have cvnext : execCvnext d a p s = s.finish (s.me.wx d (codeOrOnes (Shape.next ⟨D, B⟩ lo hi x))) := withShape_shaped shaped _
  have cvprev : execCvprev d a p s = s.finish (s.me.wx d (codeOrOnes (Shape.prev ⟨D, B⟩ lo hi x))) := withShape_shaped shaped _
  have wrote {i : Instr} {v w : Word} (e : exec i s = s.finish (s.me.wx d v)) (h : v = w) : Ends i s (WroteX s · d w) := h ▸ finish_wx_ends e
  refine ⟨?enc, ?dec, add _ _ rfl, add _ _ rfl, fun inside => ?inside, fun outside => ?outside, fun c hc inside above least => ?next,
    fun void => ?noNext, fun c inside up greatest => ?prev, fun void => ?noPrev, ?lev, ?cell⟩
  case enc =>
    have code := isCode_code (g := ⟨D, B⟩) fun k => elGet (s.me.rv a) 64 k
    refine ends_imp (finish_wx_ends (withShape_shaped shaped _ : execCvenc d a s = _)) fun t wrote => ⟨_, wrote, ?_⟩
    change IsCode D B (BitVec.toNat _) _
    rw [BitVec.toNat_ofNat, Nat.mod_eq_of_lt (Nat.lt_of_lt_of_le code.1 small)]
    exact code
  case dec =>
    refine finish_wv_ends (withShape_shaped shaped _ : execCvdec d a s = _) fun k hk => ?_
    have fits : ∀ v ∈ Shape.point ⟨D, B⟩ x, v < 2 ^ 64 := List.forall_mem_map.2 fun k _ =>
      Nat.lt_of_lt_of_le (axis_lt ..) (Nat.pow_le_pow_right (by decide) (bits_le_word shaped))
    refine (el_packEls_of_lt fits (by decide) hk).trans ?_
    rw [Shape.point, List.getD_eq_getElem?_getD, List.getElem?_map]
    by_cases dim : k < D
    · rw [List.getElem?_range dim, if_pos dim]; exact axis_eq_axisOf ..
    · rw [List.getElem?_eq_none (by simpa using dim), if_neg dim]; rfl
  case inside => exact wrote cvin (congrArg flag ((box x).2 inside))
  case outside => exact wrote cvin (congrArg flag (Bool.eq_false_iff.2 (mt (box x).1 outside)))
  case next => exact wrote cvnext (congrArg codeOrOnes (next.eq_some above hc inside least))
  case noNext => exact wrote cvnext (congrArg codeOrOnes (next.eq_none void))
  case prev =>
    have last := prev.eq_some (Nat.zero_le c) (Nat.lt_succ_of_le up) inside fun e he lt => greatest e he (Nat.le_of_lt_succ lt)
    exact wrote cvprev (congrArg codeOrOnes last)
  case noPrev => exact wrote cvprev (congrArg codeOrOnes (prev.eq_none fun e _ lt => void e (Nat.le_of_lt_succ lt)))
  case lev =>
    have wrote : Ends (.cvlev d a b) s (WroteX s · d (BitVec.ofNat 64 (Shape.level ⟨D, B⟩ x y))) :=
      finish_wx_ends (withShape_shaped shaped _ : execCvlev d a b s = _)
    exact ends_imp wrote fun t wrote => ⟨_, wrote, level_least (g := ⟨D, B⟩) below (Nat.mod_lt _ (Nat.two_pow_pos _))⟩
  case cell => exact finish_wx_ends (withShape_shaped shaped _ : execCvcell d a b s = _)

end Sys2Proof.Proofs
end

section
/-! SUPPORT. The ranges of 24 R319: the runs that repeated searches give, on codes and on cells, and START's cut of the first. -/

open Sys2Proof Sys2Proof.Machine Sys2Proof.Claims

namespace Sys2Proof.Laws

/-! ### The maximal runs of a set of numbers -/

/-- R lists the maximal runs of S from `start` on, as 24 R319 has it of the codes of `InCells`. -/
def RunsOf (S : Nat → Prop) (start : Nat) (R : List (Nat × Nat)) : Prop :=
  (∀ r ∈ R, start ≤ r.1 ∧ r.1 ≤ r.2 ∧ (∀ c, r.1 ≤ c → c ≤ r.2 → S c) ∧ ¬S (r.2 + 1) ∧ (r.1 = start ∨ r.1 = 0 ∨ ¬S (r.1 - 1))) ∧
  R.Pairwise (fun p q => p.2 < q.1) ∧ ∀ c, S c → start ≤ c → ∃ r ∈ R, r.1 ≤ c ∧ c ≤ r.2

theorem areRanges_iff {D B lo hi L start : Nat} {R : List (Nat × Nat)} :
    AreRanges D B lo hi L start R ↔ RunsOf (InCells D B lo hi L) start R := Iff.rfl

section
variable {S T : Nat → Prop} {start : Nat} {R : List (Nat × Nat)}

theorem runsOf_nil (void : ∀ c, S c → ¬start ≤ c) : RunsOf S start [] :=
  ⟨fun _ h => absurd h List.not_mem_nil, .nil, fun c hc le => absurd le (void c hc)⟩

/-- The first run [a, e) and the runs from its end on. -/
theorem runsOf_cons {a e : Nat} (le : start ≤ a) (lt : a < e) (before : ∀ c, start ≤ c → c < a → ¬S c) (run : ∀ c, a ≤ c → c < e → S c)
    (stop : ¬S e) (rest : RunsOf S e R) : RunsOf S start ((a, e - 1) :: R) := by
  obtain ⟨each, order, cover⟩ := rest
  refine ⟨List.forall_mem_cons.2 ⟨⟨le, by omega, fun c low high => run c low (by omega), ?stop, ?first⟩, fun r hr => ?later⟩,
    List.pairwise_cons.2 ⟨fun r hr => ?above, order⟩, fun c hc from_start => ?cover⟩
  case stop => rwa [Nat.sub_add_cancel (by omega)]
  case first =>
    by_cases same : a = start
    · exact .inl same
    · exact .inr (.inr (before _ (by change start ≤ a - 1; omega) (by change a - 1 < a; omega)))
  case later =>
    obtain ⟨from_e, le, run, after, first⟩ := each r hr
    refine ⟨by omega, le, run, after, .inr (first.resolve_left fun at_e => stop (at_e ▸ run r.1 (Nat.le_refl _) le))⟩
  case above =>
    have := (each r hr).1
    change e - 1 < r.1
    omega
  case cover =>
    by_cases here : c < e
    · have low := Nat.le_of_not_lt fun low => before c from_start low hc
      exact ⟨_, List.mem_cons_self, low, by change c ≤ e - 1; omega⟩
    · obtain ⟨r, hr, within⟩ := cover c hc (Nat.le_of_not_lt here)
      exact ⟨r, List.mem_cons_of_mem _ hr, within⟩

/-- A run of blocks of u numbers as a run of numbers, cut at `start`. -/
def widen (u start : Nat) (r : Nat × Nat) : Nat × Nat := (max start (r.1 * u), r.2 * u + (u - 1))

/-- Where S holds of a number just when T holds of its block, the runs of S are those of T. -/
theorem runsOf_widen {u : Nat} (hu : 0 < u) (blocks : ∀ c, S c ↔ T (c / u)) (runs : RunsOf T (start / u) R) :
    RunsOf S start (R.map (widen u start)) := by
  obtain ⟨each, order, cover⟩ := runs
  have le_div (n c : Nat) : n ≤ c / u ↔ n * u ≤ c := Nat.le_div_iff_mul_le hu
  have div_le (n c : Nat) : c / u ≤ n ↔ c ≤ n * u + (u - 1) := by
    rw [← Nat.lt_succ_iff, Nat.div_lt_iff_lt_mul hu, Nat.succ_mul]
    omega
  refine ⟨List.forall_mem_map.2 fun r hr => ?each, List.pairwise_map.2 (order.imp fun {p q} lt => ?order), fun c hc from_start => ?cover⟩
  case each =>
    obtain ⟨from_start, le, run, after, first⟩ := each r hr
    have top : start ≤ r.2 * u + (u - 1) := (div_le r.2 start).1 (Nat.le_trans from_start le)
    have ordered : r.1 * u ≤ r.2 * u := Nat.mul_le_mul_right u le
    refine ⟨Nat.le_max_left .., Nat.max_le.2 ⟨top, Nat.le_add_right_of_le ordered⟩, fun c low high => ?run, ?after, ?first⟩
    case run => exact (blocks c).2 (run _ ((le_div ..).2 (Nat.le_trans (Nat.le_max_right ..) low)) ((div_le ..).2 high))
    case after =>
      have next : (r.2 * u + (u - 1) + 1) / u = r.2 + 1 := by
        rw [Nat.add_assoc, Nat.sub_add_cancel hu, ← Nat.succ_mul, Nat.mul_div_cancel _ hu]
      exact fun s => after (next ▸ (blocks _).1 s)
    case first =>
      by_cases cut : r.1 * u ≤ start
      · exact .inl (Nat.max_eq_left cut)
      · have begin : max start (r.1 * u) = r.1 * u := Nat.max_eq_right (by omega)
        have later : r.1 ≠ start / u := fun e => cut ((le_div ..).1 (Nat.le_of_eq e))
        change _ ∨ max start (r.1 * u) = 0 ∨ ¬S (max start (r.1 * u) - 1)
        rw [begin]
        rcases first.resolve_left later with zero | gap
        · exact .inr (.inl (by rw [zero, Nat.zero_mul]))
        · have block : (r.1 * u - 1) / u = r.1 - 1 := by
            obtain ⟨n, hn⟩ := Nat.exists_eq_succ_of_ne_zero fun z : r.1 = 0 => cut (by rw [z, Nat.zero_mul]; exact Nat.zero_le _)
            rw [hn, Nat.succ_mul, Nat.succ_sub_one, Nat.div_eq_iff hu]
            omega
          exact .inr (.inr fun s => gap (block ▸ (blocks _).1 s))
  case order =>
    have above : (p.2 + 1) * u ≤ q.1 * u := Nat.mul_le_mul_right u lt
    rw [Nat.succ_mul] at above
    exact Nat.lt_of_lt_of_le (by change p.2 * u + (u - 1) < q.1 * u; omega) (Nat.le_max_right ..)
  case cover =>
    obtain ⟨r, hr, low, high⟩ := cover _ ((blocks c).1 hc) (Nat.div_le_div_right from_start)
    exact ⟨_, List.mem_map_of_mem hr, Nat.max_le.2 ⟨from_start, (le_div ..).1 low⟩, (div_le ..).1 high⟩

end

/-! ### The runs of a box -/

section
variable {g : Shape} {lo hi : Nat}

/-- k runs suffice from x on where no more than k codes are left. -/
theorem runsOf_runs (k x : Nat) (enough : g.size ≤ x + k) :
    RunsOf (fun c => c < g.size ∧ InBox g.d g.b lo hi c) x (g.runs lo hi k x) := by
  induction k generalizing x with
  | zero => exact runsOf_nil fun c hc le => absurd hc.1 (by omega)
  | succ k ih =>
    have first := firstIn_next (g := g) (lo := lo) (hi := hi) x
    unfold Shape.runs
    cases found : g.next lo hi x with
    | none => exact runsOf_nil fun c hc le => (found ▸ first) c le hc.1 hc.2
    | some a =>
      obtain ⟨above, below, holds, before⟩ := found ▸ first
      have leave := firstIn_seekUp_space (g := g) (lo := lo) (hi := hi) false a
      change RunsOf _ x ((a, _ - 1) :: g.runs lo hi k _)
      cases out : g.seekUp lo hi false g.b 0 a with
      | none =>
        have all := out ▸ leave
        have inside (c : Nat) (le : a ≤ c) (lt : c < g.size) : InBox g.d g.b lo hi c := by simpa [Side] using all c le lt
        exact runsOf_cons above below (fun c le lt hc => before c le lt hc.2) (fun c le lt => ⟨lt, inside c le lt⟩) (fun hc => Nat.lt_irrefl _ hc.1)
          (ih _ (by change g.size ≤ g.size + k; omega))
      | some e =>
        obtain ⟨le, lt, outside, run⟩ := out ▸ leave
        have notIn : ¬InBox g.d g.b lo hi e := by simpa [Side] using outside
        have ne : a ≠ e := fun h => notIn (h ▸ holds)
        have inside (c : Nat) (le : a ≤ c) (lt : c < e) : InBox g.d g.b lo hi c := by simpa [Side] using run c le lt
        exact runsOf_cons above (by change a < e; omega) (fun c le lt hc => before c le lt hc.2)
          (fun c le low => ⟨Nat.lt_trans low lt, inside c le low⟩) (fun hc => notIn hc.2) (ih e (by omega))

/-- A shorter list of runs is the beginning of a longer one. -/
theorem runs_eq_take {k n : Nat} (h : k ≤ n) (x : Nat) : g.runs lo hi k x = (g.runs lo hi n x).take k := by
  induction k generalizing n x with
  | zero => rfl
  | succ k ih =>
    obtain ⟨n, rfl⟩ : ∃ m, n = m + 1 := ⟨n - 1, by omega⟩
    unfold Shape.runs
    cases g.next lo hi x with
    | none => rfl
    | some a => exact congrArg _ (ih (Nat.le_of_succ_le_succ h) _)

/-! ### The cells that meet a box (24 R310, R319) -/

/-- The code of a cell whose every coordinate is the least from the low corner's on. -/
def nearest (g : Shape) (lo L q : Nat) : Nat :=
  g.code fun a => max (g.axis lo a) ((cells g L).axis q a * 2 ^ L)

theorem max_div_eq {x q w : Nat} (hw : 0 < w) (h : x / w ≤ q) : max x (q * w) / w = q := by
  refine Nat.le_antisymm (Nat.lt_succ_iff.1 ((Nat.div_lt_iff_lt_mul hw).2 ?_)) ((Nat.le_div_iff_mul_le hw).2 (Nat.le_max_right ..))
  rw [Nat.max_lt]
  exact ⟨(Nat.div_lt_iff_lt_mul hw).1 (Nat.lt_succ_of_le h), Nat.mul_lt_mul_of_pos_right (Nat.lt_succ_self q) hw⟩

/-- A level-L cell meets a box just when, as a code of cells, it lies in the box of the corners' cells. -/
theorem inCells_iff {L c : Nat} (hL : L ≤ g.b) (hd : 0 < g.d) (box : ∀ a, a < g.d → g.axis lo a ≤ g.axis hi a) :
    InCells g.d g.b lo hi L c ↔
      c / 2 ^ (g.d * L) < (cells g L).size ∧
        InBox (cells g L).d (cells g L).b (lo / 2 ^ (g.d * L)) (hi / 2 ^ (g.d * L)) (c / 2 ^ (g.d * L)) := by
  have size : 2 ^ (g.d * g.b) = (cells g L).size * 2 ^ (g.d * L) := by
    rw [Shape.size, ← Nat.pow_add, cells, ← Nat.mul_add, Nat.sub_add_cancel hL]
  have cell_lt (e : Nat) : e / 2 ^ (g.d * L) < (cells g L).size ↔ e < 2 ^ (g.d * g.b) := by
    rw [Nat.div_lt_iff_lt_mul (Nat.two_pow_pos _), size]
  rw [inBox_iff_axis (g := cells g L), cell_lt]
  refine and_congr_right fun hc => ⟨fun ⟨e, he, same, inside⟩ a ha => ?_, fun inside => ?_⟩
  · obtain ⟨low, high⟩ := inBox_iff_axis.1 inside a ha
    rw [← same, axis_cells, axis_cells, axis_cells]
    exact ⟨Nat.div_le_div_right low, Nat.div_le_div_right high⟩
  · have coords (a : Nat) (ha : a < g.d) : g.axis (nearest g lo L (c / 2 ^ (g.d * L))) a =
        max (g.axis lo a) ((cells g L).axis (c / 2 ^ (g.d * L)) a * 2 ^ L) ∧
        max (g.axis lo a) ((cells g L).axis (c / 2 ^ (g.d * L)) a * 2 ^ L) ≤ g.axis hi a := by
      have high := (inside a ha).2
      rw [axis_cells L hi, Nat.le_div_iff_mul_le (Nat.two_pow_pos L)] at high
      have top := Nat.max_le.2 ⟨box a ha, high⟩
      exact ⟨(axis_code _ ha).trans (Nat.mod_eq_of_lt (Nat.lt_of_le_of_lt top (axis_lt ..))), top⟩
    have lt : nearest g lo L (c / 2 ^ (g.d * L)) < 2 ^ (g.d * g.b) := code_lt ..
    refine ⟨nearest g lo L (c / 2 ^ (g.d * L)), lt, ?same, inBox_iff_axis.2 fun a ha => ?box⟩
    case same =>
      refine eq_of_axis_eq (g := cells g L) hd ((cell_lt _).2 lt) ((cell_lt c).2 hc) fun a ha => ?_
      have low := (inside a ha).1
      rw [axis_cells L lo] at low
      rw [axis_cells, (coords a ha).1, max_div_eq (Nat.two_pow_pos L) low]
    case box =>
      rw [(coords a ha).1]
      exact ⟨Nat.le_max_left .., (coords a ha).2⟩

/-! ### The ranges of CVSPLIT -/

/-- With room for one run more than there are cells, the model lists the ranges of 24 R319. -/
theorem areRanges_ranges {L : Nat} (start : Nat) {k : Nat} (hL : L ≤ g.b) (hd : 0 < g.d) (enough : g.size ≤ k) :
    AreRanges g.d g.b lo hi L start (g.ranges lo hi L start k) := by
  rw [areRanges_iff]
  unfold Shape.ranges
  split
  next void =>
    refine runsOf_nil fun c ⟨hc, e, _, _, inside⟩ le => ?_
    rcases void with empty | past
    · exact not_inBox_of_empty empty e inside
    · exact absurd (Nat.lt_of_le_of_lt le hc) (Nat.not_lt_of_le past)
  next left =>
    obtain ⟨nonempty, -⟩ := not_or.1 left
    have blocks := fun c => inCells_iff (g := g) (lo := lo) (hi := hi) (c := c) hL hd fun a ha => le_of_not_empty nonempty ha
    have fewer : (cells g L).size ≤ g.size := Nat.pow_le_pow_right (by decide) (Nat.mul_le_mul_left _ (Nat.sub_le ..))
    exact runsOf_widen (Nat.two_pow_pos _) blocks (runsOf_runs (g := cells g L) k _ (Nat.le_trans fewer (Nat.le_add_left_of_le enough)))

theorem ranges_eq_take {L start k n : Nat} (h : k ≤ n) : g.ranges lo hi L start k = (g.ranges lo hi L start n).take k := by
  unfold Shape.ranges
  split
  · exact List.take_nil.symm
  · extract_lets u shape up
    rw [runs_eq_take h, List.map_take]

end

end Sys2Proof.Laws
end

section
/-! SUPPORT. An instruction that stores several elements (04 R47, 17 R228): its checks, the entries that it appends, and the counts that they
raise. -/

open Sys2Proof Sys2Proof.Machine Sys2Proof.Claims

namespace Sys2Proof.Laws

/-! ### The thread's order -/

/-- Every store and window of the executing thread stands before its next place, as an issue leaves it (04 R47). -/
def Placed (s : State) : Prop :=
  (∀ e ∈ s.myCore.storeQ, e.ctx = s.cur.ctx → e.seq < s.me.seq) ∧ ∀ w ∈ s.me.windows, w.seq < s.me.seq

/-! ### Looking up several addresses -/

/-- Only the TLB of the executing core has changed. -/
def OnlyTlb (s t : State) : Prop :=
  t.cur = s.cur ∧ OnlyCore s t s.cur.core ∧ (∃ l, t.core s.cur.core = { s.core s.cur.core with tlb := l })

theorem onlyTlb_refl (s : State) : OnlyTlb s s :=
  ⟨rfl, ⟨⟨rfl, fun _ => rfl⟩, fun _ _ => rfl⟩, _, rfl⟩

theorem onlyTlb_touch {s t : State} (h : OnlyTlb s t) (sp : BitVec 12) (va : Word) : OnlyTlb s (t.touchTlb t.cur.core sp va) := by
  obtain ⟨cur, only, l, core⟩ := h
  obtain ⟨k, touched⟩ := touch_core t t.cur.core sp va
  rw [cur] at touched ⊢
  exact ⟨(touch_cur ..).trans cur, OnlyCore.trans only (touch_only ..), k, by rw [touched, core]⟩

section
variable {s t : State} (h : OnlyTlb s t)
include h

theorem onlyTlb_ctx (m j : Nat) : t.ctx m j = s.ctx m j := by
  obtain ⟨-, only, l, core⟩ := h
  by_cases hm : m = s.cur.core
  · rw [hm, State.ctx, core]; rfl
  · rw [State.ctx, only.2 m hm]; rfl

theorem onlyTlb_me : t.me = s.me := by
  rw [State.me, onlyTlb_ctx h, h.1]; rfl

theorem onlyTlb_myCore : ∃ l, t.myCore = { s.myCore with tlb := l } := by
  obtain ⟨cur, -, core⟩ := h
  rwa [State.myCore, cur]

theorem onlyTlb_belowMark (loc size : Nat) : t.belowMark loc size = s.belowMark loc size := by
  have chans (n : Nat) : (t.core n).chans = (s.core n).chans := by
    obtain ⟨-, only, l, core⟩ := h
    by_cases hn : n = s.cur.core
    · rw [hn, core]
    · rw [only.2 n hn]
  rw [State.belowMark, chans]; rfl

end

theorem onlyTlb_foldl (es : List (Nat × Word)) {s t : State} (h : OnlyTlb s t) :
    OnlyTlb s (es.foldl (fun s e => s.touchTlb s.cur.core s.me.space e.2) t) := by
  induction es generalizing t with
  | nil => exact h
  | cons e es ih => exact ih (onlyTlb_touch h _ _)

theorem lookAll_ok {s : State} {kind size : Nat} {as : Nat → Acc} {es : List (Nat × Word)}
    (h : ∀ e ∈ es, s.resolve s.cur.core s.me.space e.2 kind size size false = .ok (as e.1)) :
    s.lookAll kind size es = .ok (es.map fun e => (e.1, as e.1)) := by
  induction es with
  | nil => rfl
  | cons e es ih =>
    rw [State.lookAll, h e List.mem_cons_self]
    simp only [ih fun e he => h e (List.mem_cons_of_mem _ he), List.map_cons]

/-- A checked access has the size that was asked for. -/
theorem size_of_checkEntry {s : State} {e : TlbEntry} {pva va : Word} {kind size : Nat} {ho : Bool} {a : Acc}
    (h : s.checkEntry e pva va kind size ho = .ok a) : a.size = size := by
  unfold State.checkEntry at h
  grind

theorem size_of_resolve {s : State} {n : Nat} {sp : BitVec 12} {va : Word} {kind size al : Nat} {ho : Bool} {a : Acc}
    (h : s.resolve n sp va kind size al ho = .ok a) : a.size = size := by
  unfold State.resolve at h
  have := @size_of_checkEntry s
  grind

/-- Where every element passes, the instruction goes on in a state whose TLB order alone is new. -/
theorem withElems_pass {s : State} {kind size : Nat} {as : Nat → Acc} {es : List (Nat × Word)} (idle : s.me.acquiring = false)
    (h : ∀ e ∈ es, s.resolve s.cur.core s.me.space e.2 kind size size false = .ok (as e.1) ∧ s.belowMark (as e.1).loc size = true)
    (k : List (Nat × Acc) → State → Out) :
    ∃ t, OnlyTlb s t ∧ s.withElems kind size es k = k (es.map fun e => (e.1, as e.1)) t := by
  have touched := onlyTlb_foldl es (onlyTlb_refl s)
  refine ⟨_, touched, ?_⟩
  have below : State.allBelow (es.foldl (fun s e => s.touchTlb s.cur.core s.me.space e.2) s) (es.map fun e => (e.1, as e.1)) = true := by
    refine List.all_eq_true.2 (List.forall_mem_map.2 fun e he => ?_)
    rw [onlyTlb_belowMark touched, size_of_resolve (h e he).1]
    exact (h e he).2
  rw [State.withElems, idle, State.checkElems, lookAll_ok fun e he => (h e he).1]
  simp only [below, Bool.false_eq_true, if_false, if_true]

/-! ### Queueing several stores -/

/-- The entries of several stores. -/
def storeEntries (s : State) (es : List (Acc × Word)) : List StoreEnt :=
  es.mapIdx fun k e => storeEntry s k e.1 e.2 none false

/-- Their entries stand at the end of the queue and the thread's order has moved on; nothing else has changed. -/
def QueuedAll (s t : State) (es : List (Acc × Word)) : Prop :=
  t.cur = s.cur ∧ OnlyCore s t s.cur.core ∧
  { t.core s.cur.core with ctxs := [] } =
    { s.myCore with ctxs := [], storeQ := s.myCore.storeQ ++ storeEntries s es, nextStore := s.myCore.nextStore + es.length } ∧
  (∀ j, j ≠ s.cur.ctx → t.ctx s.cur.core j = s.ctx s.cur.core j) ∧ t.me = { s.me with seq := s.me.seq + es.length }

theorem queuedAll_nil (s : State) : QueuedAll s s [] :=
  ⟨rfl, ⟨⟨rfl, fun _ => rfl⟩, fun _ _ => rfl⟩, by simp [storeEntries, State.myCore], fun _ _ => rfl, rfl⟩

section
variable {s t u : State} {a : Acc} {x : Word} {es : List (Acc × Word)}

theorem myCore_queueStore : { (s.queueStore a x none false).myCore with ctxs := [] } =
    { s.myCore with ctxs := [], storeQ := s.myCore.storeQ ++ [storeEntry s 0 a x none false], nextStore := s.myCore.nextStore + 1 } := by
  obtain ⟨cur, -, core, -, -⟩ := queue_core s a x none false
  rwa [State.myCore, cur]

theorem storeQ_queueStore : (s.queueStore a x none false).myCore.storeQ = s.myCore.storeQ ++ [storeEntry s 0 a x none false] :=
  congrArg Core.storeQ myCore_queueStore

theorem nextStore_queueStore : (s.queueStore a x none false).myCore.nextStore = s.myCore.nextStore + 1 :=
  congrArg Core.nextStore myCore_queueStore

theorem storeEntry_queueStore (k : Nat) (b : Acc) (y : Word) :
    storeEntry (s.queueStore a x none false) k b y none false = storeEntry s (k + 1) b y none false := by
  obtain ⟨cur, -, -, -, me⟩ := queue_core s a x none false
  rw [storeEntry, storeEntry, cur, me, nextStore_queueStore]
  simp only [Nat.add_assoc, Nat.add_comm 1 k]

theorem queuedAll_cons (h : QueuedAll (s.queueStore a x none false) t es) : QueuedAll s t ((a, x) :: es) := by
  obtain ⟨cur, only, core, others, me⟩ := queue_core s a x none false
  obtain ⟨cur', only', core', others', me'⟩ := h
  rw [cur] at only' core' others' cur'
  have entries : storeEntries s ((a, x) :: es) = storeEntry s 0 a x none false :: storeEntries (s.queueStore a x none false) es := by
    simp only [storeEntries, List.mapIdx_cons, storeEntry_queueStore]
  refine ⟨cur', OnlyCore.trans only only', ?_, fun j hj => (others' j hj).trans (others j hj), ?_⟩
  · refine core'.trans ((congrArg (fun c : Core => { c with
      storeQ := (s.queueStore a x none false).myCore.storeQ ++ storeEntries (s.queueStore a x none false) es,
      nextStore := (s.queueStore a x none false).myCore.nextStore + es.length }) myCore_queueStore).trans ?_)
    rw [storeQ_queueStore, nextStore_queueStore, entries, List.append_assoc, List.singleton_append, List.length_cons, Nat.add_assoc, Nat.add_comm 1]
  · rw [me', me, List.length_cons, Nat.add_assoc, Nat.add_comm 1]

theorem placed_queueStore (placed : Placed s) : Placed (s.queueStore a x none false) := by
  obtain ⟨stores, windows⟩ := placed
  obtain ⟨cur, -, -, -, me⟩ := queue_core s a x none false
  rw [Placed, storeQ_queueStore, cur, me]
  refine ⟨fun e he mine => ?_, fun w hw => Nat.lt_succ_of_lt (windows w hw)⟩
  rcases List.mem_append.1 he with old | new
  · exact Nat.lt_succ_of_lt (stores e old mine)
  · rw [List.mem_singleton.1 new]; exact Nat.lt_succ_self _

/-- A count sees no difference between two places behind all that it counts. -/
theorem pendAt_succ {c : Core} {n i l q : Nat} (stores : ∀ e ∈ c.storeQ, e.ctx = i → e.seq < q) (windows : ∀ w ∈ (c.ctx i).windows, w.seq < q) :
    c.pendAt n i l (q + 1) = c.pendAt n i l q := by
  unfold Core.pendAt
  refine congr (congrArg _ (congrArg _ (List.filter_congr fun e he => ?stores))) (congrArg _ (List.filter_congr fun w hw => ?windows))
  case stores =>
    refine decide_eq_decide.2 (and_congr_right fun mine => and_congr_right fun _ => ?_)
    have := stores e he mine
    omega
  case windows => rw [decide_eq_true (windows w hw), decide_eq_true (Nat.lt_succ_of_lt (windows w hw))]

/-- One entry raises a count by no more than one. -/
theorem pendAt_append_le {c c' : Core} {n i l q : Nat} {e : StoreEnt} (queue : c'.storeQ = c.storeQ ++ [e])
    (windows : (c'.ctx i).windows = (c.ctx i).windows) : c'.pendAt n i l q ≤ c.pendAt n i l q + 1 := by
  have one : ([e].filter fun e => e.ctx = i ∧ e.level = l ∧ e.seq < q).length ≤ 1 := List.length_filter_le ..
  unfold Core.pendAt
  rw [queue, windows, List.filter_append, List.length_append]
  omega

theorem room_queueStore {lv k : Nat} (placed : Placed s) (room : Room s lv (k + 1)) : Room (s.queueStore a x none false) lv k := by
  obtain ⟨cur, -, -, -, me⟩ := queue_core s a x none false
  have windows : ((s.queueStore a x none false).myCore.ctx s.cur.ctx).windows = s.me.windows := by
    rw [← cur]; exact (congrArg Ctx.windows me :)
  have seq : (s.queueStore a x none false).me.seq = s.me.seq + 1 := congrArg Ctx.seq me
  have more : (s.queueStore a x none false).myCore.pendAt s.cur.core s.cur.ctx lv (s.me.seq + 1) ≤
      s.myCore.pendAt s.cur.core s.cur.ctx lv s.me.seq + 1 :=
    Nat.le_trans (pendAt_append_le storeQ_queueStore windows) (Nat.add_le_add_right (Nat.le_of_eq (pendAt_succ placed.1 placed.2)) 1)
  have after : (s.queueStore a x none false).pend s.cur.core s.cur.ctx lv =
      (s.queueStore a x none false).myCore.pendAt s.cur.core s.cur.ctx lv (s.me.seq + 1) := by
    rw [← seq, State.me, State.myCore, cur]; rfl
  have before : s.myCore.pendAt s.cur.core s.cur.ctx lv s.me.seq + (k + 1) ≤ 4095 := room
  rw [Room, cur, after]
  omega

theorem queueAll_room (placed : Placed s) (room : es ≠ [] → ∀ lv, Room s lv es.length) :
    (s.queueAll es).1 = [] ∧ QueuedAll s (s.queueAll es).2 es := by
  induction es generalizing s with
  | nil => exact ⟨rfl, queuedAll_nil s⟩
  | cons e es ih =>
    have room := room (List.cons_ne_nil e es)
    have one : Counts s e.1 := Nat.le_trans (Nat.add_le_add_left (Nat.le_add_left 1 es.length) _) (room _)
    rw [State.queueAll, (counts_iff s e.1).1 one]
    obtain ⟨done, queued⟩ := ih (placed_queueStore (a := e.1) (x := e.2) placed) fun _ lv => room_queueStore placed (room lv)
    exact ⟨done, queuedAll_cons queued⟩

/-- Where every level has room for them all, an instruction's stores are all queued before it goes on. -/
theorem storeAll_room (placed : Placed s) (room : es ≠ [] → ∀ lv, Room s lv es.length) (k : State → Out) :
    ∃ t, QueuedAll s t es ∧ s.storeAll es k = k t := by
  obtain ⟨done, queued⟩ := queueAll_room placed room
  refine ⟨_, queued, ?_⟩
  rw [State.storeAll, done]; rfl

end

/-- The TLB's order matters neither to the thread's order nor to the counts. -/
theorem placed_onlyTlb {s t : State} (h : OnlyTlb s t) (placed : Placed s) : Placed t := by
  obtain ⟨l, core⟩ := onlyTlb_myCore h
  rw [Placed, core, h.1, onlyTlb_me h]
  exact placed

theorem storeEntries_onlyTlb {s t : State} (h : OnlyTlb s t) (es : List (Acc × Word)) : storeEntries t es = storeEntries s es := by
  obtain ⟨l, core⟩ := onlyTlb_myCore h
  unfold storeEntries storeEntry
  rw [core, h.1, onlyTlb_me h]

theorem room_onlyTlb {s t : State} (h : OnlyTlb s t) {lv k : Nat} (room : Room s lv k) : Room t lv k := by
  have ctx := onlyTlb_ctx h s.cur.core s.cur.ctx
  obtain ⟨cur, -, l, core⟩ := h
  rw [Room, State.pend, cur, ctx, core]
  exact room

end Sys2Proof.Laws
end

section
/-! SUPPORT. CVSPLIT (24 R318 to R320): its traps, and its success from a state in which the thread's accesses stand before its next place. -/

open Sys2Proof Sys2Proof.Machine Sys2Proof.Claims Sys2Proof.Laws

namespace Sys2Proof.Laws

/-- The ends of the first m ranges, in the order of their stores. -/
def endsOf (R : List (Nat × Nat)) (m : Nat) : List Nat :=
  (R.take m).flatMap fun r => [r.1, r.2]

theorem length_endsOf {R : List (Nat × Nat)} {m : Nat} (h : m ≤ R.length) : (endsOf R m).length = 2 * m := by
  have pair : (fun r : Nat × Nat => [r.1, r.2].length) = fun _ => 2 := rfl
  rw [endsOf, List.length_flatMap, pair, List.map_const', List.sum_replicate_nat, List.length_take, Nat.min_eq_left h, Nat.mul_comm]

/-- What CVSPLIT leaves in x[A + 2]: where the next range begins (24 R320). -/
def resumeCode (R : List (Nat × Nat)) (m : Nat) : Word :=
  match nth R m with
  | some r => BitVec.ofNat 64 r.1
  | none => ~~~0

/-- What it leaves in x[D]: the number of ranges written, with bit 63 where a space of 64 bits is exhausted. -/
def splitCount (D B : Nat) (R : List (Nat × Nat)) (m : Nat) : Word :=
  BitVec.ofNat 64 (m + if D * B = 64 ∧ R.length ≤ m then 2 ^ 63 else 0)

/-- The end of CVSPLIT once its stores are queued. -/
def splitDone (d : BitVec 5) (a : BitVec 3) (res cnt : Word) (s : State) : Out :=
  s.finish ((s.me.wx (quad a 2) res).wx d cnt)

/-- CVSPLIT past its first checks, writing the first N of the ranges R. -/
def splitStores (s : State) (d : BitVec 5) (a : BitVec 3) (b : BitVec 5) (D B N : Nat) (R : List (Nat × Nat)) : Out :=
  s.withElems 1 8 (pairWords (s.me.rx b) N) fun es t =>
    t.storeAll (((es.take (2 * min N R.length)).zip (endsOf R (min N R.length))).map fun q => (q.1.2, BitVec.ofNat 64 q.2))
      (splitDone d a (resumeCode R (min N R.length)) (splitCount D B R (min N R.length)))

/-! A list cut after its n-th range tells as much of the first m < n ranges as the whole list. -/

section
variable (R : List (Nat × Nat)) {m n : Nat}

theorem endsOf_take (h : m ≤ n) : endsOf (R.take n) m = endsOf R m := by
  rw [endsOf, List.take_take, Nat.min_eq_left h]; rfl

theorem resumeCode_take (h : m < n) : resumeCode (R.take n) m = resumeCode R m := by
  have same : nth (R.take n) m = nth R m := List.getElem?_take_of_lt h
  rw [resumeCode, same]; rfl

theorem splitCount_take (D B : Nat) (h : m < n) : splitCount D B (R.take n) m = splitCount D B R m := by
  have same : (R.take n).length ≤ m ↔ R.length ≤ m := by rw [List.length_take]; omega
  simp only [splitCount, same]

/-- The model lists one range more than it may write, which tells as much as the whole list. -/
theorem splitStores_take (s : State) (d : BitVec 5) (a : BitVec 3) (b : BitVec 5) (D B N : Nat) :
    splitStores s d a b D B N (R.take (N + 1)) = splitStores s d a b D B N R := by
  have count : min N (R.take (N + 1)).length = min N R.length := by rw [List.length_take]; omega
  have within : min N R.length < N + 1 := Nat.lt_succ_of_le (Nat.min_le_left ..)
  unfold splitStores
  rw [count, endsOf_take R (Nat.le_of_lt within), resumeCode_take R within, splitCount_take R D B within]

end

/-- The first n ranges that the model lists for the executing CVSPLIT. -/
def splitRanges (s : State) (a : BitVec 3) (D B n : Nat) : List (Nat × Nat) :=
  Shape.ranges ⟨D, B⟩ ((quadWord s a 0).toNat % 2 ^ (D * B)) ((quadWord s a 1).toNat % 2 ^ (D * B))
    (min ((quadWord s a 3).toNat / 2 ^ 16 % 2 ^ 7) B) (quadWord s a 2).toNat n

/-- The checks of 24 R318 on the last register of the quad. -/
def LegalSplit (w : Word) : Prop :=
  w.toNat / 2 ^ 23 = 0 ∧ w.toNat / 2 ^ 13 % 8 = 0 ∧ w.toNat % 2 ^ 13 ≤ 4096

theorem not_legalSplit_iff (w : Word) : ¬LegalSplit w ↔ bits w 23 41 ≠ 0 ∨ bits w 13 3 ≠ 0 ∨ 4096 < bits w 0 13 := by
  have high : bits w 23 41 = w.toNat / 2 ^ 23 := Nat.mod_eq_of_lt (by have := w.isLt; omega)
  have middle : bits w 13 3 = w.toNat / 2 ^ 13 % 8 := rfl
  rw [LegalSplit, high, middle, bits_zero]
  omega

section
variable {s : State} {d : BitVec 5} {a : BitVec 3} {b : BitVec 5} {D B : Nat}

/-- CVSPLIT that has no stores left over from a stall. -/
theorem execCvsplit_first (shaped : Shaped s D B) (todo : s.me.todo = none) :
    let w := quadWord s a 3
    let N := bits w 0 13
    execCvsplit d a b s =
      if bits w 23 41 ≠ 0 ∨ bits w 13 3 ≠ 0 ∨ 4096 < N then .next (s.trapMe 3 1 w)
      else if N ≠ 0 ∧ (s.me.rx b).toNat % 8 ≠ 0 then .next (s.trapMe 2 1 (s.me.rx b))
      else splitStores s d a b D B N (splitRanges s a D B (N + 1)) := by
  have stores (k : State → Out) (first : Out) : s.storing k first = first := by rw [State.storing, todo]
  exact ((withShape_shaped shaped _ : execCvsplit d a b s = _).trans (stores _ _))

theorem execCvsplit_legal (shaped : Shaped s D B) (todo : s.me.todo = none) (legal : LegalSplit (quadWord s a 3))
    (aligned : (quadWord s a 3).toNat % 2 ^ 13 = 0 ∨ (s.me.rx b).toNat % 8 = 0) (n : Nat) :
    execCvsplit d a b s = splitStores s d a b D B ((quadWord s a 3).toNat % 2 ^ 13)
      (splitRanges s a D B ((quadWord s a 3).toNat % 2 ^ 13 + 1 + n)) := by
  refine (execCvsplit_first shaped todo).trans ((if_neg fun bad => (not_legalSplit_iff _).2 bad legal).trans ?_)
  rw [bits_zero, if_neg fun odd => aligned.elim odd.1 odd.2, splitRanges, ranges_eq_take (Nat.le_add_right _ n), splitStores_take]
  rfl

theorem cvsplit_illegal (shaped : Shaped s D B) (todo : s.me.todo = none) (bad : ¬LegalSplit (quadWord s a 3)) :
    exec (.cvsplit d a b) s = .next (s.trapMe 3 1 (quadWord s a 3)) :=
  (execCvsplit_first shaped todo).trans (if_pos ((not_legalSplit_iff _).1 bad))

theorem cvsplit_misaligned (shaped : Shaped s D B) (todo : s.me.todo = none) (legal : LegalSplit (quadWord s a 3))
    (nonzero : (quadWord s a 3).toNat % 2 ^ 13 ≠ 0) (odd : (s.me.rx b).toNat % 8 ≠ 0) :
    exec (.cvsplit d a b) s = .next (s.trapMe 2 1 (s.me.rx b)) :=
  (execCvsplit_first shaped todo).trans ((if_neg fun bad => (not_legalSplit_iff _).2 bad legal).trans
    (if_pos ⟨bits_zero (quadWord s a 3) 13 ▸ nonzero, odd⟩))

/-- Where its addresses pass, CVSPLIT stores the ends of its ranges, each at its own access. -/
theorem splitStores_pass {as : Nat → Acc} {N : Nat} (R : List (Nat × Nat)) (idle : s.me.acquiring = false)
    (passes : ∀ k, k < 2 * N → s.resolve s.cur.core s.me.space (s.me.rx b + BitVec.ofNat 64 (8 * k)) 1 8 8 false = .ok (as k) ∧
      s.belowMark (as k).loc 8 = true) :
    ∃ t, OnlyTlb s t ∧ splitStores s d a b D B N R = t.storeAll ((endsOf R (min N R.length)).mapIdx fun k v => (as k, BitVec.ofNat 64 v))
      (splitDone d a (resumeCode R (min N R.length)) (splitCount D B R (min N R.length))) := by
  have checks : ∀ e ∈ pairWords (s.me.rx b) N, s.resolve s.cur.core s.me.space e.2 1 8 8 false = .ok (as e.1) ∧
      s.belowMark (as e.1).loc 8 = true := List.forall_mem_map.2 fun k hk => passes k (List.mem_range.1 hk)
  obtain ⟨t, tlb, goes⟩ := withElems_pass idle checks _
  refine ⟨t, tlb, goes.trans (congrArg (t.storeAll · _) ?_)⟩
  have length : (endsOf R (min N R.length)).length = 2 * min N R.length := length_endsOf (Nat.min_le_right ..)
  refine List.ext_getElem ?length fun k _ _ => ?each
  case length =>
    simp only [pairWords, List.length_map, List.length_zip, List.length_take, List.length_range, List.length_mapIdx, length]
    omega
  case each => simp [pairWords]

theorem quad_two_ne_zero : ∀ a : BitVec 3, quad a 2 ≠ 0 := by
  decide

/-- The end of CVSPLIT: the registers it writes, in a context that its stores have moved on. -/
theorem splitDone_ends {t u : State} {es : List (Acc × Word)} (tlb : OnlyTlb s t) (queued : QueuedAll t u es) (res cnt : Word) :
    ∃ v, splitDone d a res cnt u = .next v ∧ AccessedMany s v ∧ (v.core s.cur.core).nextStore = s.myCore.nextStore + es.length ∧
      (v.core s.cur.core).storeQ = s.myCore.storeQ ++ storeEntries s es ∧
      v.me = { issued s.me (s.me.pc + 4) with seq := s.me.seq + es.length, x := v.me.x, regErr := v.me.regErr } ∧
      ∀ r, v.me.rx r = if r = d ∧ r ≠ 0 then cnt else if r = quad a 2 ∧ r ≠ 0 then res else s.me.rx r := by
  obtain ⟨v, next, cur, ⟨only, core, others⟩, me⟩ := finish_facts u ((u.me.wx (quad a 2) res).wx d cnt)
  have entries : storeEntries t es = storeEntries s es := storeEntries_onlyTlb tlb es
  have tme := onlyTlb_me tlb
  have tctx := onlyTlb_ctx tlb
  obtain ⟨l, tcore⟩ := onlyTlb_myCore tlb
  obtain ⟨tcur, tonly, -⟩ := tlb
  obtain ⟨ucur, uonly, ucore, uothers, ume⟩ := queued
  rw [tcur] at ucur uonly ucore uothers
  rw [ucur] at cur only core others
  rw [entries, tcore] at ucore
  have whole := core.trans ucore
  refine ⟨v, next, ⟨cur, OnlyCore.trans tonly (OnlyCore.trans uonly only), ?rest, fun j hj => ?others⟩, congrArg Core.nextStore whole,
    congrArg Core.storeQ whole, ?me, fun r => ?registers⟩
  case rest => exact congrArg (fun c : Core => { c with ctxs := [], tlb := [], storeQ := [], nextStore := 0 }) whole
  case others => rw [others j hj, uothers j hj, tctx]
  case me =>
    rw [me, ume, tme]
    unfold Ctx.wx issued
    split <;> split <;> rfl
  case registers =>
    rw [me, ume, tme]
    exact (Ctx.rx_next ..).trans (by rw [Ctx.rx_wx, Ctx.rx_wx]; rfl)

end

end Sys2Proof.Laws
end

section
/-! SUPPORT. CVSPLIT's success (24 R320), as its statement has it, from a state whose thread has its accesses in order. -/

open Sys2Proof Sys2Proof.Machine Sys2Proof.Claims Sys2Proof.Laws

namespace Sys2Proof.Proofs

/-- The third clause of `CurveSplit`, under the one hypothesis that it lacks: the thread's stores and windows stand before its next place. -/
theorem cvsplit_succeeds_of_placed {s : State} {d : BitVec 5} {a : BitVec 3} {b : BitVec 5} {D B : Nat} {as : Nat → Acc} (placed : Placed s)
    (shaped : Shaped s D B) (legal : LegalSplit (quadWord s a 3)) (idle : s.me.acquiring = false) (todo : s.me.todo = none) :
    let w := quadWord s a 3
    let N := w.toNat % 2 ^ 13
    let out := s.me.rx b
    (N = 0 ∨ out.toNat % 8 = 0) →
    (∀ k, k < 2 * N → s.resolve s.cur.core s.me.space (out + BitVec.ofNat 64 (8 * k)) 1 8 8 false = .ok (as k) ∧
      s.belowMark (as k).loc 8 = true ∧ ∀ lv, Room s lv (2 * N)) →
    Ends (.cvsplit d a b) s fun t => ∃ R, AreRanges D B ((quadWord s a 0).toNat % 2 ^ (D * B)) ((quadWord s a 1).toNat % 2 ^ (D * B))
        (min (w.toNat / 2 ^ 16 % 2 ^ 7) B) (quadWord s a 2).toNat R ∧
      let m := min N R.length
      let vals := (R.take m).flatMap fun r => [r.1, r.2]
      AccessedMany s t ∧ (t.core s.cur.core).nextStore = s.myCore.nextStore + 2 * m ∧
      (t.core s.cur.core).storeQ = s.myCore.storeQ ++ vals.mapIdx (fun k v => storeEntry s k (as k) (BitVec.ofNat 64 v) none false) ∧
      t.me = { issued s.me (s.me.pc + 4) with seq := s.me.seq + 2 * m, x := t.me.x, regErr := t.me.regErr } ∧
      ∀ r, t.me.rx r = if r = d ∧ r ≠ 0 then BitVec.ofNat 64 (m + if D * B = 64 ∧ R.length ≤ m then 2 ^ 63 else 0)
        else if r = BitVec.ofNat 5 (4 * a.toNat + 2) then (match R[m]? with | some q => BitVec.ofNat 64 q.1 | none => BitVec.allOnes 64)
        else s.me.rx r := by
  intro w N out aligned passes
  let R := splitRanges s a D B (N + 1 + 2 ^ (D * B))
  have list : AreRanges D B _ _ _ _ R :=
    areRanges_ranges (g := ⟨D, B⟩) _ (Nat.min_le_right ..) shaped.2.2.1 (Nat.le_add_left ..)
  obtain ⟨t, tlb, goes⟩ := splitStores_pass (d := d) (a := a) (D := D) (B := B) R idle fun k hk => ⟨(passes k hk).1, (passes k hk).2.1⟩
  let es := (endsOf R (min N R.length)).mapIdx fun k v => (as k, (BitVec.ofNat 64 v : Word))
  have length : es.length = 2 * min N R.length := List.length_mapIdx.trans (length_endsOf (Nat.min_le_right ..))
  have room (nonempty : es ≠ []) (lv : Nat) : Room t lv es.length := by
    have pos := List.length_pos_iff.2 nonempty
    have all : s.pend s.cur.core s.cur.ctx lv + 2 * N ≤ 4095 := (passes 0 (by omega)).2.2 lv
    refine room_onlyTlb tlb ?_
    rw [Room]
    omega
  obtain ⟨u, queued, all⟩ := storeAll_room (placed_onlyTlb tlb placed) room
    (splitDone d a (resumeCode R (min N R.length)) (splitCount D B R (min N R.length)))
  obtain ⟨v, next, accessed, nextStore, storeQ, me, registers⟩ := splitDone_ends tlb queued _ _
  refine ⟨v, (execCvsplit_legal shaped todo legal aligned _).trans (goes.trans (all.trans next)), R, list, accessed, length ▸ nextStore, ?queue,
    length ▸ me, fun r => ?registers⟩
  case queue =>
    rw [storeQ, storeEntries, List.mapIdx_mapIdx]
    rfl
  case registers =>
    have third : r = quad a 2 ∧ r ≠ 0 ↔ r = quad a 2 := and_iff_left_of_imp fun e => e ▸ quad_two_ne_zero a
    rw [registers r]
    simp only [third]
    rfl

end Sys2Proof.Proofs
end

section
/-! SUPPORT. The statement about the curve instructions (24 R308, R313 to R320) fails at one place: its `Room` looks at the counts before
CVSPLIT's first store, and an entry of the queue at the thread's own place joins them with the second. -/

open Sys2Proof Sys2Proof.Machine Sys2Proof.Claims Sys2Proof.Laws

namespace Sys2Proof.Proofs

/-- Nothing is pending before place 0 (04 R47). -/
theorem pend_eq_zero {s : State} {n i : Nat} (l : Nat) (h : (s.ctx n i).seq = 0) : s.pend n i l = 0 := by
  simp [State.pend, Core.pendAt, h]

/-- Where the thread's output goes: offset 0 of its own scratch. -/
def splitOut : Word := BitVec.ofNat 64 (14 * 2 ^ 56)

/-- An access to 8 bytes of core 0's own scratch. -/
def ownWord (off : Nat) : Acc := ⟨splitOut + BitVec.ofNat 64 off, scratchAt 0 + off, 8, false, 0, 0⟩

/-- A store of context 0 to its own scratch at place 0 of the thread's order. -/
def storeAtZero : StoreEnt := ⟨0, 0, 0, 0, ownWord 0, 0, levelOf 0 (scratchAt 0), none, false, false, false, false, false⟩

/-- A thread at place 0 that splits the whole line of two codes (D = 1, B = 1, lo = 0 in x4, hi = 1 in x5, START = 0 in x6) with room for
one range (N = 1 in x7), to the address in x1. -/
def splitter : Ctx :=
  { Ctx.reset with run := .ready, cvd := 17, x := [(1, splitOut), (5, 1), (7, 1)] }

/-- The thread on core 0 with this store queue. -/
def splitting (q : List StoreEnt) : State :=
  State.reset.setCore 0 { Core.reset with ctxs := [(0, splitter)], storeQ := q }

/-- As many stores at the thread's own place as a level may count (04 R47). -/
def fullQueue : List StoreEnt := List.replicate 4095 storeAtZero

/-- CVSPLIT of the thread passes every check, with an empty queue and with the full one. -/
theorem splitting_passes : ∀ q ∈ [[], fullQueue], Shaped (splitting q) 1 1 ∧ quadWord (splitting q) 1 3 = 1 ∧
    ((splitting q).me.rx 1).toNat % 8 = 0 ∧ (splitting q).me.acquiring = false ∧ (splitting q).me.todo = none ∧
    ((splitting q).ctx (splitting q).cur.core (splitting q).cur.ctx).seq = 0 ∧
    ∀ k, k < 2 → (splitting q).resolve (splitting q).cur.core (splitting q).me.space ((splitting q).me.rx 1 + BitVec.ofNat 64 (8 * k)) 1 8 8 false =
      .ok (ownWord (8 * k)) ∧ (splitting q).belowMark (ownWord (8 * k)).loc 8 = true := by
  unfold Shaped
  decide +kernel

theorem legalSplit_one : LegalSplit 1 := by
  unfold LegalSplit
  decide

/-- With an empty queue the thread meets every hypothesis of `cvsplit_succeeds_of_placed`, and CVSPLIT succeeds. -/
theorem splitting_nil_succeeds : ∃ t, exec (.cvsplit 2 1 1) (splitting []) = .next t ∧ t.me.run = .ready := by
  obtain ⟨shaped, word, aligned, idle, todo, place, passes⟩ := splitting_passes [] (by decide)
  have placed : Placed (splitting []) := by
    unfold Placed
    decide +kernel
  have count : 2 * ((quadWord (splitting []) 1 3).toNat % 2 ^ 13) = 2 := word ▸ by decide
  obtain ⟨t, next, _, -, -, -, -, me, -⟩ := cvsplit_succeeds_of_placed (d := 2) (b := 1) (as := fun k => ownWord (8 * k)) placed shaped
    (word.symm ▸ legalSplit_one) idle todo (.inr aligned) fun k hk => by
      obtain ⟨resolves, below⟩ := passes k (count ▸ hk)
      exact ⟨resolves, below, fun lv => by rw [count, Room, pend_eq_zero lv place]; decide⟩
  exact ⟨t, next, by rw [me]; rfl⟩

/-- With the full queue the second store of the range finds its level's count full: CVSPLIT stalls between the two. -/
theorem splitting_fullQueue_stalls {t : State} (e : exec (.cvsplit 2 1 1) (splitting fullQueue) = .next t) : t.me.run = .stalled := by
  have run : (match exec (.cvsplit 2 1 1) (splitting fullQueue) with | .next t => decide (t.me.run = .stalled) | _ => false) = true := by
    decide +kernel
  rw [e] at run
  exact of_decide_eq_true run

theorem not_curveSplit : ¬CurveSplit := by
  intro h
  obtain ⟨shaped, word, aligned, idle, todo, place, passes⟩ := splitting_passes fullQueue (by simp)
  obtain ⟨-, -, success⟩ := h (splitting fullQueue) 2 1 1 1 1 (fun k => ownWord (8 * k)) shaped
  have count : 2 * ((quadWord (splitting fullQueue) 1 3).toNat % 2 ^ 13) = 2 := word ▸ by decide
  obtain ⟨t, next, _, -, -, -, -, me, -⟩ := success (word.symm ▸ legalSplit_one : LegalSplit _) (.inr aligned) idle todo fun k hk => by
    obtain ⟨resolves, below⟩ := passes k (count ▸ hk)
    exact ⟨resolves, below, fun lv => by rw [count, Room, pend_eq_zero lv place]; decide⟩
  have ready : t.me.run = .ready := by rw [me]; rfl
  exact absurd (ready.symm.trans (splitting_fullQueue_stalls next)) (by decide)

/-- Refutes O51 by CVSPLIT's success in `splitting fullQueue`: every level has room for two more stores before the thread's place, as the
clause asks, yet after the first store the 4,095 entries at that place count too (04 R47), and CVSPLIT stalls before its second
(`splitting_fullQueue_stalls`). All the rest holds: the scalar instructions (`curveCodes`), CVSPLIT's two traps (`cvsplit_illegal` with
KIND 1, log 50, and `cvsplit_misaligned`), and its success where the thread's accesses stand before its place (`cvsplit_succeeds_of_placed`). -/
theorem not_curveWords : ¬Obligations.CurveWords :=
  fun h => not_curveSplit h.2

end Sys2Proof.Proofs
end
